-- ==== Sys2Proof/Word.lean ====
section
/-!
DEFINITION. The word types of the machine (R3, R8).
-/

namespace Sys2Proof

/-- A byte of memory (R3). -/
abbrev Byte := BitVec 8

/-- The contents of an x register, an f register, an address or a CSR (R19, R23, R28). -/
abbrev Word := BitVec 64

/-- A 64-byte line, a vector register or a tile row (R4, R149, R170). -/
abbrev Line := BitVec 512

/-- The 5-bit register field of an encoding (R36 to R42). -/
abbrev Reg := BitVec 5

end Sys2Proof
end

