-- ==== Sys2Proof/Config.lean ====
section
/-!
DEFINITION. What an implementation fixes and the free values: constants without a body, so that nothing can be proved
of their values.
-/

namespace Sys2Proof

/-- R390 step 8: the kernel image that a layer gets from package flash. -/
opaque Config.kernelImage : Nat → List Byte

/-- R390 step 8: the physical address at which a layer's kernel is placed. -/
opaque Config.kernelBase : Nat → Nat

/-- R390 step 8: the entry of a layer's kernel. -/
opaque Config.kernelEntry : Nat → Word

/-- R275: the instructions that a thread's fetch buffer holds. -/
opaque Config.fetchBuffer : Nat

/-- R249, R261: the set of a line or page in a cache or a translation buffer (0 L1I, 1 RDC, 2 L2 TLB, 3 MTLB, 4 L1D, 5 HS). -/
opaque Config.cacheSet : Nat → Nat → Nat

/-- R215: the internal form of the weight, KEEP and SCALE slots of a save area, as a pad on the plane's bits. -/
opaque Config.planePad : Nat → Byte

/-- Data that comes from outside the model or that an error has lost (R344, R353, R264, R385), drawn with the counter
`State.free`. -/
opaque Config.freeByte : Nat → Byte

/-- R390: whether a start step fails, drawn with the counter `State.free`. -/
opaque Config.stepFails : Nat → Bool

/-- R391: the tables that Basecamp reads from package flash (R378: table, index). -/
opaque Config.flashTable : Nat → Nat → Word

/-- R352: the spare rows of a layer's HBM (9) and the spare lanes of a link (11 to 13), by STRUCT. -/
opaque Config.spares : Nat → Nat

/-- R359, R362: the packages of the pod, which the tables of all its packages set up together. -/
opaque Config.podMember : Nat → Bool

/-- R388: the hash of a flow (source cluster, destination address) over the ports of its mask. -/
opaque Config.flowHash : Nat → Nat → Nat

/-- R355: the bin of 25 mV that an island's core voltage has at a point. -/
opaque Config.voltageBin : Nat → Nat → Nat

/-- A value that the spec leaves open, drawn with the counter `State.free`. -/
opaque Config.freeWord : Nat → Word

end Sys2Proof
end

