-- ==== Sys2Proof/Syntax.lean ====
section
/-!
DEFINITION. The instructions: ONE inductive, one constructor for each row of spec/opcode_table.json.
The 277 encoded instructions come first (the compact ones after the 32-bit ones, those without operands last): their operands are the fields of the encoding (R36 to R42, R47 to R61),
each at its own width, so that a field that the encoding cannot hold cannot be written down.
The other 87 rows are steps of the machine that no program encodes (spec/95): the operands of such an event name
the agent it happens at, and carry what the spec leaves to the kernel, to Basecamp's sensors or to the outside world.
-/

namespace Sys2Proof

/-- The rows of the opcode table.  `a`, `b`, `c`, `d` are the register fields rs1, rs2, rs3 and rd. -/
inductive Instr where
  /-- R78. Writes the sum of two x registers, modulo 2^64. -/
  | add (d a b : Reg)
  /-- R78. Writes the difference of two x registers, modulo 2^64. -/
  | sub (d a b : Reg)
  /-- R78. Writes the bitwise AND of two registers. -/
  | and (d a b : Reg)
  /-- R78. Writes the bitwise OR of two registers. -/
  | or (d a b : Reg)
  /-- R78. Writes the bitwise XOR of two registers. -/
  | xor (d a b : Reg)
  /-- R78. Shifts left by the low 6 bits of rs2. -/
  | sll (d a b : Reg)
  /-- R78. Shifts right logically by the low 6 bits of rs2. -/
  | srl (d a b : Reg)
  /-- R78. Shifts right arithmetically by the low 6 bits of rs2. -/
  | sra (d a b : Reg)
  /-- R78. Rotates left by the low 6 bits of rs2. -/
  | rol (d a b : Reg)
  /-- R78. Rotates right by the low 6 bits of rs2. -/
  | ror (d a b : Reg)
  /-- R78. Writes 1 if rs1 is less than rs2 as signed values, else 0. -/
  | slt (d a b : Reg)
  /-- R78. Writes 1 if rs1 is less than rs2 as unsigned values, else 0. -/
  | sltu (d a b : Reg)
  /-- R78. Writes the signed minimum. -/
  | min (d a b : Reg)
  /-- R78. Writes the signed maximum. -/
  | max (d a b : Reg)
  /-- R78. Writes the unsigned minimum. -/
  | minu (d a b : Reg)
  /-- R78. Writes the unsigned maximum. -/
  | maxu (d a b : Reg)
  /-- R80. Adds the low 32 bits and writes the sign-extended result. -/
  | addw (d a b : Reg)
  /-- R80. Subtracts the low 32 bits and writes the sign-extended result. -/
  | subw (d a b : Reg)
  /-- R80. Performs a 32-bit left shift and writes the sign-extended result. -/
  | sllw (d a b : Reg)
  /-- R80. Performs a 32-bit logical right shift and writes the sign-extended result. -/
  | srlw (d a b : Reg)
  /-- R80. Performs a 32-bit arithmetic right shift and writes the sign-extended result. -/
  | sraw (d a b : Reg)
  /-- R81. Writes the low 64 bits of the product. -/
  | mul (d a b : Reg)
  /-- R81. Writes the high 64 bits of the signed 128-bit product. -/
  | mulh (d a b : Reg)
  /-- R81. Writes the high 64 bits of the unsigned 128-bit product. -/
  | mulhu (d a b : Reg)
  /-- R82. Performs signed division that never traps, with saturating corner cases. -/
  | div (d a b : Reg)
  /-- R82. Performs unsigned division that never traps. -/
  | divu (d a b : Reg)
  /-- R82. Writes the signed remainder, with the sign of the dividend. -/
  | rem (d a b : Reg)
  /-- R82. Writes the unsigned remainder. -/
  | remu (d a b : Reg)
  /-- R81. Performs a 32-bit multiply and writes the sign-extended result. -/
  | mulw (d a b : Reg)
  /-- R82. Performs a 32-bit signed division. -/
  | divw (d a b : Reg)
  /-- R82. Performs a 32-bit unsigned division. -/
  | divuw (d a b : Reg)
  /-- R82. Writes the 32-bit signed remainder. -/
  | remw (d a b : Reg)
  /-- R82. Writes the 32-bit unsigned remainder. -/
  | remuw (d a b : Reg)
  /-- R79. Adds a sign-extended 12-bit immediate. -/
  | addi (d a : Reg) (i : BitVec 12)
  /-- R79. ANDs with a sign-extended immediate. -/
  | andi (d a : Reg) (i : BitVec 12)
  /-- R79. ORs with a sign-extended immediate. -/
  | ori (d a : Reg) (i : BitVec 12)
  /-- R79. XORs with a sign-extended immediate. -/
  | xori (d a : Reg) (i : BitVec 12)
  /-- R79. Performs a signed less-than compare with an immediate. -/
  | slti (d a : Reg) (i : BitVec 12)
  /-- R79. Performs an unsigned less-than compare with the sign-extended immediate. -/
  | sltiu (d a : Reg) (i : BitVec 12)
  /-- R79. Shifts left by an immediate count of 0 to 63. -/
  | slli (d a : Reg) (h : BitVec 6)
  /-- R79. Shifts right logically by an immediate count. -/
  | srli (d a : Reg) (h : BitVec 6)
  /-- R79. Shifts right arithmetically by an immediate count. -/
  | srai (d a : Reg) (h : BitVec 6)
  /-- R79. Rotates right by an immediate count. -/
  | rori (d a : Reg) (h : BitVec 6)
  /-- R80. Adds an immediate in 32 bits and writes the sign-extended result. -/
  | addiw (d a : Reg) (i : BitVec 12)
  /-- R80. Performs a 32-bit left shift by an immediate. -/
  | slliw (d a : Reg) (h : BitVec 5)
  /-- R80. Performs a 32-bit logical right shift by an immediate. -/
  | srliw (d a : Reg) (h : BitVec 5)
  /-- R80. Performs a 32-bit arithmetic right shift by an immediate. -/
  | sraiw (d a : Reg) (h : BitVec 5)
  /-- R46. A prefetch hint for a line into the L1D, HS or RDC; it is dropped on any fault. -/
  | phint (a : Reg) (i : BitVec 10) (t : BitVec 2)
  /-- R84. Writes the sign-extended imm20 shifted left by 12. -/
  | lui (d : Reg) (i : BitVec 20)
  /-- R84. Writes pc plus the sign-extended imm20 shifted left by 12. -/
  | auipc (d : Reg) (i : BitVec 20)
  /-- R83. Counts leading zero bits. -/
  | clz (d a : Reg)
  /-- R83. Counts trailing zero bits. -/
  | ctz (d a : Reg)
  /-- R83. Counts one bits. -/
  | popc (d a : Reg)
  /-- R83. Reverses the byte order. -/
  | bswap (d a : Reg)
  /-- R83. Sign-extends from 8 bits. -/
  | sextI8 (d a : Reg)
  /-- R83. Sign-extends from 16 bits. -/
  | sextI16 (d a : Reg)
  /-- R83. Sign-extends from 32 bits. -/
  | sextI32 (d a : Reg)
  /-- R83. Zero-extends from 8 bits. -/
  | zextN8 (d a : Reg)
  /-- R83. Zero-extends from 16 bits. -/
  | zextN16 (d a : Reg)
  /-- R83. Zero-extends from 32 bits. -/
  | zextN32 (d a : Reg)
  /-- R83. Selects rs1 if rs3 is non-zero, else rs2. -/
  | sel (d a b c : Reg)
  /-- R83. Writes (rs1 << sh) + rs2, with sh from 0 to 3. -/
  | shadd (d a b : Reg) (h : BitVec 2)
  /-- R83. Replaces the DIE field of an address with rs2[3:0]. -/
  | mkva (d a b : Reg)
  /-- R83. Replaces the DIE field of an address with an immediate. -/
  | mkvai (d a : Reg) (i : BitVec 4)
  /-- R85. Branches if the two registers are equal. -/
  | beq (a b : Reg) (i : BitVec 12)
  /-- R85. Branches if the two registers are not equal. -/
  | bne (a b : Reg) (i : BitVec 12)
  /-- R85. Branches on a signed less-than. -/
  | blt (a b : Reg) (i : BitVec 12)
  /-- R85. Branches on a signed greater-or-equal. -/
  | bge (a b : Reg) (i : BitVec 12)
  /-- R85. Branches on an unsigned less-than. -/
  | bltu (a b : Reg) (i : BitVec 12)
  /-- R85. Branches on an unsigned greater-or-equal. -/
  | bgeu (a b : Reg) (i : BitVec 12)
  /-- R86. Links pc+4 and jumps pc-relative. -/
  | jal (d : Reg) (i : BitVec 20)
  /-- R86. Links pc+4 and jumps to rs1+imm with bit 0 cleared. -/
  | jalr (d a : Reg) (i : BitVec 12)
  /-- R90. Arms hardware loop level n with a count from a register. -/
  | loop (l : BitVec 1) (a : Reg) (i : BitVec 12)
  /-- R90. Arms hardware loop level n with an immediate count. -/
  | loopi (l : BitVec 1) (n : BitVec 10) (i : BitVec 12)
  /-- R117. Performs a scalar FP add, rounded by rm. -/
  | fadd (s : BitVec 2) (r : BitVec 3) (d a b : Reg)
  /-- R117. Performs a scalar FP subtract. -/
  | fsub (s : BitVec 2) (r : BitVec 3) (d a b : Reg)
  /-- R117. Performs a scalar FP multiply. -/
  | fmul (s : BitVec 2) (r : BitVec 3) (d a b : Reg)
  /-- R117. Performs a scalar FP divide. -/
  | fdiv (s : BitVec 2) (r : BitVec 3) (d a b : Reg)
  /-- R117. Performs a scalar FP square root. -/
  | fsqrt (s : BitVec 2) (r : BitVec 3) (d a : Reg)
  /-- R119. Writes the FP minimum, with -0 below +0. -/
  | fmin (s : BitVec 2) (d a b : Reg)
  /-- R119. Writes the FP maximum. -/
  | fmax (s : BitVec 2) (d a b : Reg)
  /-- R120. Writes the magnitude of fs1 with the sign of fs2. -/
  | fcpsgn (s : BitVec 2) (d a b : Reg)
  /-- R120. Writes the magnitude of fs1 with the XOR of the two signs. -/
  | fxsgn (s : BitVec 2) (d a b : Reg)
  /-- R120. Inverts the sign. -/
  | fneg (s : BitVec 2) (d a : Reg)
  /-- R120. Clears the sign. -/
  | fabs (s : BitVec 2) (d a : Reg)
  /-- R120. Copies all 64 bits of an f register. -/
  | fmov (d a : Reg)
  /-- R123. Converts between FP formats. -/
  | fcvtFf (s : BitVec 2) (r : BitVec 3) (t : BitVec 2) (d a : Reg)
  /-- R123. Converts an integer x register to FP. -/
  | fcvtFInt (s : BitVec 2) (r : BitVec 3) (n g : BitVec 1) (d a : Reg)
  /-- R123. Converts FP to an integer with saturation. -/
  | fcvtIntF (s : BitVec 2) (r : BitVec 3) (n g : BitVec 1) (d a : Reg)
  /-- R124. Moves raw FP bits, sign-extended, to an x register. -/
  | fmvx (s : BitVec 2) (d a : Reg)
  /-- R124. Moves raw x bits to an f register, sign-filled. -/
  | fmvf (s : BitVec 2) (d a : Reg)
  /-- R121. Performs a quiet FP equality compare into an x register. -/
  | feq (s : BitVec 2) (d a b : Reg)
  /-- R121. Performs a signalling FP less-than compare. -/
  | flt (s : BitVec 2) (d a b : Reg)
  /-- R121. Performs a signalling FP less-or-equal compare. -/
  | fle (s : BitVec 2) (d a b : Reg)
  /-- R122. Writes the class code and sign of an FP value. -/
  | fclass (s : BitVec 2) (d a : Reg)
  /-- R118. Computes fs1*fs2+fs3 and rounds once. -/
  | fma (s : BitVec 2) (r : BitVec 1) (d a b c : Reg)
  /-- R118. Computes fs1*fs2-fs3 and rounds once. -/
  | fms (s : BitVec 2) (r : BitVec 1) (d a b c : Reg)
  /-- R118. Computes -(fs1*fs2)-fs3 and rounds once. -/
  | fnma (s : BitVec 2) (r : BitVec 1) (d a b c : Reg)
  /-- R118. Computes -(fs1*fs2)+fs3 and rounds once. -/
  | fnms (s : BitVec 2) (r : BitVec 1) (d a b c : Reg)
  /-- R130. Loads a sign-extended byte. -/
  | ldI8 (d a : Reg) (i : BitVec 12)
  /-- R130. Loads a sign-extended halfword. -/
  | ldI16 (d a : Reg) (i : BitVec 12)
  /-- R130. Loads a sign-extended word. -/
  | ldI32 (d a : Reg) (i : BitVec 12)
  /-- R130. Loads a doubleword. -/
  | ldI64 (d a : Reg) (i : BitVec 12)
  /-- R130. Loads a zero-extended byte. -/
  | ldN8 (d a : Reg) (i : BitVec 12)
  /-- R130. Loads a zero-extended halfword. -/
  | ldN16 (d a : Reg) (i : BitVec 12)
  /-- R130. Loads a zero-extended word. -/
  | ldN32 (d a : Reg) (i : BitVec 12)
  /-- R131. Prefetches a line into the named cache after precise checks. -/
  | pref (k : BitVec 5) (a : Reg) (i : BitVec 12)
  /-- R130. Stores a byte. -/
  | stI8 (a b : Reg) (i : BitVec 12)
  /-- R130. Stores a halfword. -/
  | stI16 (a b : Reg) (i : BitVec 12)
  /-- R130. Stores a word. -/
  | stI32 (a b : Reg) (i : BitVec 12)
  /-- R130. Stores a doubleword. -/
  | stI64 (a b : Reg) (i : BitVec 12)
  /-- R130. Loads a 16-bit FP value, sign-filled. -/
  | fldF16 (d a : Reg) (i : BitVec 12)
  /-- R130. Loads a 32-bit FP value. -/
  | fldF32 (d a : Reg) (i : BitVec 12)
  /-- R130. Loads a 64-bit FP value. -/
  | fldF64 (d a : Reg) (i : BitVec 12)
  /-- R130. Stores the low 16 bits of an f register. -/
  | fstF16 (a b : Reg) (i : BitVec 12)
  /-- R130. Stores the low 32 bits of an f register. -/
  | fstF32 (a b : Reg) (i : BitVec 12)
  /-- R130. Stores an f register. -/
  | fstF64 (a b : Reg) (i : BitVec 12)
  /-- R133. Performs an atomic add and returns the old value. -/
  | amoadd (s : BitVec 1) (d a b : Reg)
  /-- R133. Performs an atomic swap. -/
  | amoswap (s : BitVec 1) (d a b : Reg)
  /-- R133. Performs an atomic AND. -/
  | amoand (s : BitVec 1) (d a b : Reg)
  /-- R133. Performs an atomic OR. -/
  | amoor (s : BitVec 1) (d a b : Reg)
  /-- R133. Performs an atomic XOR. -/
  | amoxor (s : BitVec 1) (d a b : Reg)
  /-- R133. Performs an atomic signed minimum. -/
  | amomin (s : BitVec 1) (d a b : Reg)
  /-- R133. Performs an atomic signed maximum. -/
  | amomax (s : BitVec 1) (d a b : Reg)
  /-- R133. Performs an atomic unsigned minimum. -/
  | amominu (s : BitVec 1) (d a b : Reg)
  /-- R133. Performs an atomic unsigned maximum. -/
  | amomaxu (s : BitVec 1) (d a b : Reg)
  /-- R134. Performs an atomic compare-and-swap, with the expected value in rd. -/
  | cas (s : BitVec 1) (d a b : Reg)
  /-- R135. Posts an integer add that is performed at the home HS. -/
  | radd (s : BitVec 1) (a b : Reg)
  /-- R135. Posts an FP add that is performed and rounded at the home HS. -/
  | raddF (s : BitVec 1) (a b : Reg)
  /-- R140. Performs an acquire load; at package or system scope it invalidates RDC lines that hit the signature and merges SIG into psig. -/
  | ldAcq (s : BitVec 1) (p : BitVec 2) (d a : Reg)
  /-- R139. Performs a release store; at package or system scope it waits for ors = 0 and merges psig into the sync object. -/
  | stRel (s : BitVec 1) (p : BitVec 2) (a b : Reg)
  /-- R137. Orders the thread's accesses at the named scope. -/
  | fence (p : BitVec 2)
  /-- R143. Arrives at barrier descriptor n and parks until the phase releases. -/
  | bar (n : BitVec 4)
  /-- R144. Waits for the current phase of barrier n without arriving. -/
  | barwait (n : BitVec 4)
  /-- R142. Parks until a memory word differs from a register. -/
  | waitne (s : BitVec 1) (a b : Reg)
  /-- R141. Copies psig into a vector register. -/
  | sigrd (d : Reg)
  /-- R141. Clears SIG and FULL of a sync object at its home. -/
  | sigclr (a : Reg)
  /-- R145. Writes the Rope window at every replica through one ordered beat. -/
  | rst (s : BitVec 1) (a b : Reg)
  /-- R146. Performs a release on a Rope-window sync object, carrying psig. -/
  | rstRel (s : BitVec 1) (a b : Reg)
  /-- R147. Performs an atomic on the Rope window, applied by every replica in Rope order. -/
  | ramo (s : BitVec 1) (o : BitVec 3) (d a b : Reg)
  /-- R147. Performs a compare-and-swap on the Rope window, applied at every replica. -/
  | rcas (s : BitVec 1) (d a b : Reg)
  /-- R153. Adds integer lanes. -/
  | vadd (w : BitVec 2) (k : BitVec 3) (d a b : Reg)
  /-- R153. Subtracts integer lanes. -/
  | vsub (w : BitVec 2) (k : BitVec 3) (d a b : Reg)
  /-- R153. Multiplies integer lanes, low half. -/
  | vmul (w : BitVec 2) (k : BitVec 3) (d a b : Reg)
  /-- R153. Multiplies integer lanes, signed high half. -/
  | vmulh (w : BitVec 2) (k : BitVec 3) (d a b : Reg)
  /-- R153. Takes the signed lane minimum. -/
  | vmin (w : BitVec 2) (k : BitVec 3) (d a b : Reg)
  /-- R153. Takes the signed lane maximum. -/
  | vmax (w : BitVec 2) (k : BitVec 3) (d a b : Reg)
  /-- R153. Takes the unsigned lane minimum. -/
  | vminu (w : BitVec 2) (k : BitVec 3) (d a b : Reg)
  /-- R153. Takes the unsigned lane maximum. -/
  | vmaxu (w : BitVec 2) (k : BitVec 3) (d a b : Reg)
  /-- R153. ANDs lanes. -/
  | vand (w : BitVec 2) (k : BitVec 3) (d a b : Reg)
  /-- R153. ORs lanes. -/
  | vor (w : BitVec 2) (k : BitVec 3) (d a b : Reg)
  /-- R153. XORs lanes. -/
  | vxor (w : BitVec 2) (k : BitVec 3) (d a b : Reg)
  /-- R153. Shifts lanes left. -/
  | vsll (w : BitVec 2) (k : BitVec 3) (d a b : Reg)
  /-- R153. Shifts lanes right logically. -/
  | vsrl (w : BitVec 2) (k : BitVec 3) (d a b : Reg)
  /-- R153. Shifts lanes right arithmetically. -/
  | vsra (w : BitVec 2) (k : BitVec 3) (d a b : Reg)
  /-- R154. Adds FP lanes. -/
  | vfadd (w : BitVec 2) (k : BitVec 3) (d a b : Reg)
  /-- R154. Subtracts FP lanes. -/
  | vfsub (w : BitVec 2) (k : BitVec 3) (d a b : Reg)
  /-- R154. Multiplies FP lanes. -/
  | vfmul (w : BitVec 2) (k : BitVec 3) (d a b : Reg)
  /-- R154. Divides FP lanes. -/
  | vfdiv (w : BitVec 2) (k : BitVec 3) (d a b : Reg)
  /-- R154. Takes the FP lane minimum. -/
  | vfmin (w : BitVec 2) (k : BitVec 3) (d a b : Reg)
  /-- R154. Takes the FP lane maximum. -/
  | vfmax (w : BitVec 2) (k : BitVec 3) (d a b : Reg)
  /-- R154. Takes the FP lane square root. -/
  | vfsqrt (w : BitVec 2) (k : BitVec 3) (d a : Reg)
  /-- R155. Computes a reciprocal approximation rounded to 12 bits. -/
  | vfrcp (w : BitVec 2) (k : BitVec 3) (d a : Reg)
  /-- R155. Computes a reciprocal square root approximation. -/
  | vfrsq (w : BitVec 2) (k : BitVec 3) (d a : Reg)
  /-- R155. Computes a power-of-two approximation. -/
  | vfexp2 (w : BitVec 2) (k : BitVec 3) (d a : Reg)
  /-- R156. Computes a lane fused a*b+c into vd. -/
  | vfma (w : BitVec 2) (k : BitVec 3) (d a b : Reg)
  /-- R156. Computes a lane fused a*b-c. -/
  | vfms (w : BitVec 2) (k : BitVec 3) (d a b : Reg)
  /-- R156. Computes a lane fused -(a*b)-c. -/
  | vfnma (w : BitVec 2) (k : BitVec 3) (d a b : Reg)
  /-- R156. Computes a lane fused -(a*b)+c. -/
  | vfnms (w : BitVec 2) (k : BitVec 3) (d a b : Reg)
  /-- R157. Compares lanes for equality into a mask. -/
  | vcmpeq (w : BitVec 2) (k d : BitVec 3) (a b : Reg)
  /-- R157. Compares lanes for inequality into a mask. -/
  | vcmpne (w : BitVec 2) (k d : BitVec 3) (a b : Reg)
  /-- R157. Performs a signed less-than lane compare. -/
  | vcmplt (w : BitVec 2) (k d : BitVec 3) (a b : Reg)
  /-- R157. Performs a signed less-or-equal lane compare. -/
  | vcmple (w : BitVec 2) (k d : BitVec 3) (a b : Reg)
  /-- R157. Performs an unsigned less-than lane compare. -/
  | vcmpltu (w : BitVec 2) (k d : BitVec 3) (a b : Reg)
  /-- R157. Performs an unsigned less-or-equal lane compare. -/
  | vcmpleu (w : BitVec 2) (k d : BitVec 3) (a b : Reg)
  /-- R157. Performs an FP equality lane compare. -/
  | vfcmpeq (w : BitVec 2) (k d : BitVec 3) (a b : Reg)
  /-- R157. Performs an FP less-than lane compare. -/
  | vfcmplt (w : BitVec 2) (k d : BitVec 3) (a b : Reg)
  /-- R157. Performs an FP less-or-equal lane compare. -/
  | vfcmple (w : BitVec 2) (k d : BitVec 3) (a b : Reg)
  /-- R158. Selects each lane from vs1 or vs2 by the mask. -/
  | vsel (w : BitVec 2) (k : BitVec 3) (d a b : Reg)
  /-- R159. Broadcasts an x register into the active lanes. -/
  | vbcast (w : BitVec 2) (k : BitVec 3) (d a : Reg)
  /-- R159. Extracts a lane into an x register. -/
  | vextr (w : BitVec 2) (d a b : Reg)
  /-- R159. Inserts an x register into a lane. -/
  | vinsr (w : BitVec 2) (d a b : Reg)
  /-- R159. Permutes lanes by the indices in vs2. -/
  | vperm (w : BitVec 2) (k : BitVec 3) (d a b : Reg)
  /-- R160. Sums the active lanes into lane 0. -/
  | vredAdd (w : BitVec 2) (k : BitVec 3) (d a : Reg)
  /-- R160. Takes the signed minimum of the active lanes. -/
  | vredMin (w : BitVec 2) (k : BitVec 3) (d a : Reg)
  /-- R160. Takes the signed maximum of the active lanes. -/
  | vredMax (w : BitVec 2) (k : BitVec 3) (d a : Reg)
  /-- R160. Takes the unsigned minimum of the active lanes. -/
  | vredMinu (w : BitVec 2) (k : BitVec 3) (d a : Reg)
  /-- R160. Takes the unsigned maximum of the active lanes. -/
  | vredMaxu (w : BitVec 2) (k : BitVec 3) (d a : Reg)
  /-- R161. Sums FP lanes in a fixed pairwise tree. -/
  | vfredAdd (w : BitVec 2) (k : BitVec 3) (d a : Reg)
  /-- R161. Takes the FP minimum over a pairwise tree. -/
  | vfredMin (w : BitVec 2) (k : BitVec 3) (d a : Reg)
  /-- R161. Takes the FP maximum over a pairwise tree. -/
  | vfredMax (w : BitVec 2) (k : BitVec 3) (d a : Reg)
  /-- R162. Converts elements between number formats, with optional saturation. -/
  | vcvt (t u : BitVec 4) (s : BitVec 1) (k : BitVec 3) (d a : Reg)
  /-- R163. Converts 32-bit integer lanes to FP32. -/
  | vcvtF32I32 (k : BitVec 3) (d a : Reg)
  /-- R163. Converts FP32 lanes to 32-bit integers. -/
  | vcvtI32F32 (k : BitVec 3) (d a : Reg)
  /-- R163. Converts 64-bit integer lanes to FP64. -/
  | vcvtF64I64 (k : BitVec 3) (d a : Reg)
  /-- R163. Converts FP64 lanes to 64-bit integers. -/
  | vcvtI64F64 (k : BitVec 3) (d a : Reg)
  /-- R166. Loads one aligned line under the mask. -/
  | vld (w : BitVec 2) (k : BitVec 3) (d a : Reg)
  /-- R166. Stores the active lanes of one line. -/
  | vst (w : BitVec 2) (k : BitVec 3) (d a : Reg)
  /-- R167. Performs a strided element load. -/
  | vlds (w : BitVec 2) (k : BitVec 3) (d a b : Reg)
  /-- R167. Performs a strided element store. -/
  | vsts (w : BitVec 2) (k : BitVec 3) (d a b : Reg)
  /-- R168. Gathers elements lane by lane from prg, with restartable faults. -/
  | vgather (w : BitVec 2) (k : BitVec 3) (d a b : Reg)
  /-- R168. Scatters elements lane by lane from prg. -/
  | vscatter (w : BitVec 2) (k : BitVec 3) (d a b : Reg)
  /-- R178. Loads a tile row by row from prg. -/
  | tld (d : BitVec 3) (a b : Reg)
  /-- R178. Loads an accumulator row by row from prg. -/
  | acld (d : BitVec 2) (a b : Reg)
  /-- R178. Zeroes an accumulator. -/
  | aczero (d : BitVec 2)
  /-- R186. Converts accumulator rows and stores them from prg when the instruction is oldest. -/
  | acst (s : BitVec 1) (f : BitVec 4) (d : BitVec 2) (a b : Reg)
  /-- R182. Loads and decodes a weight block into wp1. -/
  | twld (x p : BitVec 1) (f : BitVec 4) (a b : Reg)
  /-- R184. Accumulates a tile times wp0 into an accumulator. -/
  | tmma (s : BitVec 1) (f : BitVec 4) (d : BitVec 2) (a : BitVec 3)
  /-- R184. Performs a 2:4 sparse multiply over a tile pair. -/
  | tmmaSp (s : BitVec 1) (f : BitVec 4) (d : BitVec 2) (a : BitVec 3)
  /-- R184. Performs a block-scaled multiply with row scales in a vector register. -/
  | tmmaMx (s : BitVec 1) (f : BitVec 4) (d : BitVec 2) (a : BitVec 3) (b : Reg)
  /-- R188. Writes a tile row from a vector register. -/
  | tmovTv (d : BitVec 3) (r : BitVec 4) (a : Reg)
  /-- R188. Writes a vector register from a tile row. -/
  | tmovVt (d : Reg) (a : BitVec 3) (r : BitVec 4)
  /-- R187. Multiplies every accumulator element by an f register. -/
  | acscale (f : BitVec 1) (d : BitVec 2) (a : Reg)
  /-- R187. Converts accumulator elements in place. -/
  | accvt (f : BitVec 1) (d : BitVec 2)
  /-- R190. Issues a linear copy on a copy group. -/
  | cpy (g : BitVec 3) (d a b c : Reg)
  /-- R190. Issues a strided 2-D copy. -/
  | cpy2d (g : BitVec 3) (d a b c : Reg)
  /-- R193. Issues a copy broadcast to all eight layers. -/
  | cpyBc (g : BitVec 3) (d a b c : Reg)
  /-- R196. Parks until a copy-group count is at most n. -/
  | cwait (g : BitVec 3) (n : BitVec 7)
  /-- R196. Reads a copy-group count. -/
  | cpoll (d : Reg) (g : BitVec 3)
  /-- R196. Stops the copies of a group and discards their records. -/
  | ccancel (g : BitVec 3)
  /-- R205. Sends a message to an endpoint, optionally persisted. -/
  | msend (p : BitVec 1) (d a b c : Reg)
  /-- R203. Posts a receive buffer to a local queue. -/
  | mpost (d a b c : Reg)
  /-- R212. Reads a CSR. -/
  | csrr (d : Reg) (i : BitVec 12)
  /-- R212. Writes a CSR and returns its old value. -/
  | csrw (d a : Reg) (i : BitVec 12)
  /-- R212. Sets CSR bits atomically. -/
  | csrs (d a : Reg) (i : BitVec 12)
  /-- R212. Clears CSR bits atomically. -/
  | csrc (d a : Reg) (i : BitVec 12)
  /-- R213. Drops the layer's translations of a page for a CTXID. -/
  | tlbi (a b : Reg)
  /-- R213. Drops all of a CTXID's translations on the layer, or every entry. -/
  | tlbia (a : Reg)
  /-- R214. Drops a line, or the whole L1I, of the core. -/
  | icinv (w : BitVec 1) (a : Reg)
  /-- R214. Writes back a dirty line or the whole L1D. -/
  | dcwb (w : BitVec 1) (a : Reg)
  /-- R214. Drops a line without write-back. -/
  | dcinv (w : BitVec 1) (a : Reg)
  /-- R214. Writes back and drops a line. -/
  | dcflush (w : BitVec 1) (a : Reg)
  /-- R218. Saves the thread's state to a save area. -/
  | ctxsave (a : Reg)
  /-- R219. Loads a thread, or selected parts of one, from a save area. -/
  | ctxload (a b : Reg)
  /-- R220. Advances a context's incarnation through an ordered Rope beat. -/
  | kill (d a : Reg)
  /-- R221. Waits until a killed incarnation has left every agent, then sends the reclaim record. -/
  | reclaim (d a b : Reg)
  /-- R222. Pops a copy record or a fault-queue record into memory. -/
  | fqpop (d a : Reg)
  /-- R223. Releases the parked agents of a fault group. -/
  | replay (a : Reg)
  /-- R225. Couples the core with its partner as a Belay pair. -/
  | pair (d : Reg)
  /-- R225. Ends a Belay pair. -/
  | unpair (d : Reg)
  /-- R227. Asks Cairn to arm a cut at step S. -/
  | snaparm (d a : Reg)
  /-- R60. Compact vd := vd + vs2 on 32-bit lanes. -/
  | hVaddI32 (d b : Reg)
  /-- R60. Compact 32-bit lane subtract. -/
  | hVsubI32 (d b : Reg)
  /-- R60. Compact 64-bit lane add. -/
  | hVaddI64 (d b : Reg)
  /-- R60. Compact AND. -/
  | hVandN64 (d b : Reg)
  /-- R60. Compact OR. -/
  | hVorN64 (d b : Reg)
  /-- R60. Compact XOR. -/
  | hVxorN64 (d b : Reg)
  /-- R60. Compact signed 32-bit minimum. -/
  | hVminI32 (d b : Reg)
  /-- R60. Compact signed 32-bit maximum. -/
  | hVmaxI32 (d b : Reg)
  /-- R60. Compact FP32 add. -/
  | hVfaddF32 (d b : Reg)
  /-- R60. Compact FP32 subtract. -/
  | hVfsubF32 (d b : Reg)
  /-- R60. Compact FP32 multiply. -/
  | hVfmulF32 (d b : Reg)
  /-- R60. Compact FP32 minimum. -/
  | hVfminF32 (d b : Reg)
  /-- R60. Compact FP32 maximum. -/
  | hVfmaxF32 (d b : Reg)
  /-- R60. Compact BF16 add. -/
  | hVfaddBf16 (d b : Reg)
  /-- R60. Compact BF16 multiply. -/
  | hVfmulBf16 (d b : Reg)
  /-- R60. Compact vector move. -/
  | hVmov (d b : Reg)
  /-- R61. Compact add of a signed 6-bit immediate. -/
  | hAddi (d : Reg) (i : BitVec 6)
  /-- R61. Compact register move. -/
  | hMove (d a : Reg)
  /-- R61. Compact stack load of a doubleword. -/
  | hLds (d : Reg) (i : BitVec 6)
  /-- R61. Compact stack store of a doubleword. -/
  | hSts (b : Reg) (i : BitVec 6)
  /-- R61. Compact branch if zero. -/
  | hBz (a : Reg) (i : BitVec 6)
  /-- R61. Compact branch if non-zero. -/
  | hBnz (a : Reg) (i : BitVec 6)
  /-- R61. Compact jump. -/
  | hJmp (i : BitVec 11)
  /-- R61. Compact add of two registers. -/
  | hAdd (d a : Reg)
  /-- R286. A hint that ends the core's current TE burst when it reaches the head of the TE queue. -/
  | tyield
  /-- R94. Waits for the thread's earlier stores and maintenance, discards younger fetched instructions and restarts fetch. -/
  | fetchb
  /-- R141. Raises any deferred denial, then parks until ors = 0. -/
  | orswait
  /-- R148. Parks until the thread's earlier Rope writes are applied at its replica. -/
  | rfence
  /-- R183. Exchanges wp0 and wp1. -/
  | twswap
  /-- R189. Waits for earlier tile work and ACST rows. -/
  | tsync
  /-- R209. Raises cause 0x13. -/
  | ecall
  /-- R209. Raises cause 0x12. -/
  | ebreak
  /-- R210. Returns from a trap, restoring privilege and interrupt enable. -/
  | eret
  /-- R211. Parks until an interrupt cause is pending. -/
  | wfi
  /-- R224. Sets the region-entry address to pc+4. -/
  | rgn
  /-- R226. Increments STEP, flipping the thread's colour at the armed step. -/
  | cstep
  /-- R300. A pending interrupt is taken at an instruction boundary, or at a parked instruction, while IE = 1. -/
  | interruptEntry (p : Nat)
  /-- R305. e reaches max(SLICE, 2*SWITCHCOST) and makes 0x17 pending, counting a clamp. -/
  | sliceTimerExpiry (p : Nat)
  /-- R142. A parked WAITNE re-reads its word after a write to the line or after 1,024 cc. -/
  | waitneRecheck (p : Nat)
  /-- R275. Each cc the core chooses a thread to fetch and decode. -/
  | fetchCycle (core : Nat)
  /-- R281. A branch resolves as mispredicted; younger work is squashed in the core and the TE. -/
  | branchMispredict (p seq : Nat)
  /-- R281. The core signals the retirement of a tile instruction to the TE. -/
  | teRetire (p seq : Nat)
  /-- R284. At each ec with the array free, the arbiter continues a burst or grants the next core. -/
  | arrayArbiterDecision (cl : Nat)
  /-- R399. A 4-ec plane load into the active slot completes and the next decision follows. -/
  | planeLoadComplete (cl : Nat)
  /-- R283. An array operation finishes its occupancy and writes its result. -/
  | arrayOpComplete (cl : Nat)
  /-- R182. wp1 becomes complete 4 ec after the last line of its block reaches the WB. -/
  | twldPlaneComplete (p : Nat)
  /-- R178. A requested tile or weight line arrives at the TE. -/
  | tileRowArrival (p : Nat)
  /-- R287. A write to ENGWEIGHT takes effect at the next arbiter decision. -/
  | engweightWrite (cl : Nat) (v : BitVec 64)
  /-- R27. A BARDESC write is checked, stored with V cleared if invalid, or ignored during a phase. -/
  | bardescWrite (layer n : Nat) (v : BitVec 64)
  /-- R305. A write to SLICE restarts e and cancels a pending 0x17. -/
  | sliceWrite (p : Nat) (v : BitVec 64)
  /-- R336. A supervisor write to CTX retags later requests, and stops the thread if the INC is stale. -/
  | ctxWrite (p : Nat) (v : BitVec 64)
  /-- R313. A write to ROPESLOTn is a request that Basecamp's arbiter accepts or refuses. -/
  | ropeslotWrite (layer n : Nat) (v : BitVec 64)
  /-- R369. Writing ABORT = 1 ends an armed, closing or draining cut. -/
  | snapctlAbort
  /-- R262. An untranslated remote request reaches the home layer's MTLB, which translates, checks and forwards it. -/
  | remoteRequestArrival (id : Nat)
  /-- R270. The requester reissues a retried request after 1,024 cc. -/
  | retryReissue (id : Nat)
  /-- R268. A fault deferred because the group table was full retries after 1,024 cc. -/
  | faultDeferralExpiry (p : Nat)
  /-- R400. A remote store reaches its home HS and is performed with directory invalidations. -/
  | remoteStoreAtHome (id : Nat)
  /-- R128. The home acknowledges a remote store or RADD and ors is decremented. -/
  | remoteStoreAck (id : Nat)
  /-- R128. A home denial of a remote store is recorded as a deferred denial. -/
  | remoteStoreDenial (id : Nat)
  /-- R135. A RADD or RADD.F is performed at the home in arrival order. -/
  | raddAtHome (id : Nat)
  /-- R292. An unmerged RADD leaves the combining node after 8 cc. -/
  | combineWindowExpiry (id : Nat)
  /-- R398. A merged fill returns and is multicast to every joined reader. -/
  | mergedFillReturn (id : Nat) (data : BitVec 512)
  /-- R252. A response for a request arrives, filling caches, or is dropped as an orphan. -/
  | lineFillResponse (id : Nat) (data : BitVec 512)
  /-- R334. An orphan tracking entry is freed by its retry timer or the 2 ms Ridge timeout. -/
  | orphanTimeout (id : Nat)
  /-- R389. A DIE 9 request without a response in 2 ms ends with poison or a deferred denial. -/
  | die9Timeout (id : Nat)
  /-- R198. A performed piece makes its arrival update at the arrival word in copy order. -/
  | copyPieceArrivalUpdate (id piece : Nat)
  /-- R192. A copy completes, merges psig, invalidates RDC lines and decrements CG. -/
  | copyCompletion (id : Nat)
  /-- R199. The CE finds a fault on a line, stops the copy and queues a record with interrupt 0x14. -/
  | copyFaultStop (id : Nat)
  /-- R204. An arriving message is placed into the oldest posted buffer and its status word is updated. -/
  | messageArrival (queue sender : Nat) (data : List (BitVec 8))
  /-- R207. A message unplaced after 1 ms is discarded and its sender NACKed. -/
  | messagePlacementTimeout (id : Nat)
  /-- R206. A RECEIVED, PERSISTED or NACK completion returns and the completion word is written. -/
  | msendCompletion (id status detail len : Nat)
  /-- R307. In each slot the owning station transmits its items of the slot's class. -/
  | ropeSlotTransmit
  /-- R315. A receiver vetoes a transmission in slot s+1, voiding it everywhere. -/
  | ropeVeto (layer : Nat)
  /-- R316. An unvetoed ordered transmission is applied at every awake station and the mirror in slot s+2. -/
  | ropeOrderedApply
  /-- R317. A class 1 to 3 beat is consumed at its destination layer. -/
  | ropeBeatReceive
  /-- R314. An accepted slot-table change takes force at slot 0 of the next frame. -/
  | slotTableTakeForce
  /-- R288. A sideband row or column token reaches a cluster, which forwards it once complete. -/
  | barrierSweepToken (layer n cl : Nat)
  /-- R288. The release reaches a cluster and unparks its waiting threads. -/
  | barrierRelease (layer n cl : Nat)
  /-- R274. A router gates after 512 cc with empty buffers and no grant. -/
  | routerPowerGate (layer cl : Nat)
  /-- R274. A gated router accepts packets 24 cc after its wake signal. -/
  | routerWake (layer cl : Nat)
  /-- R327. A sleeping layer powers up, restores its replica and incarnations, serves held requests and sends a wake notice. -/
  | layerWake (layer : Nat)
  /-- R326. A request for a sleeping layer is held at the BD and starts its wake. -/
  | bdHeldRequest (id : Nat)
  /-- R353. Basecamp fences a layer, completes others' requests to it and kills its contexts. -/
  | layerFence (layer : Nat)
  /-- R344. An uncorrectable error refills a clean copy or poisons the data. -/
  | uncorrectableError (struct layer index : Nat) (dirty : Bool)
  /-- R352. A corrected error is counted and may trigger retirement or sparing. -/
  | correctedError (struct layer index : Nat)
  /-- R350. The Belay cores compare CRCs every 4,096 instructions, at RGN and at trap entry. -/
  | fingerprintExchange (core : Nat)
  /-- R355. Basecamp writes the lifetime histograms to flash once an hour. -/
  | lifetimeHistogramWrite
  /-- R393. Every 100 µs, package power is compared with PLIMIT and an island's point is lowered or raised. -/
  | powerSample (watts island : Nat)
  /-- R394. Every 100 µs, junction temperatures are read, and points are lowered or a layer or the package is stopped. -/
  | temperatureSample (island celsius : Nat)
  /-- R393. An island's voltage and frequency change completes within 10 µs. -/
  | pointChangeComplete (island : Nat)
  /-- R361. While CLOSING, Cairn reads every colour-E counter each round and closes the cut on two equal rounds. -/
  | cutCloseRound
  /-- R362. The pod root sends CLOSE down the reduction tree. -/
  | podClose
  /-- R364. A write reaching a memory controller during a cut is done in place, with copy-on-write staging or a stall. -/
  | controllerWrite (layer sector : Nat)
  /-- R367. A granule message completes and its map bit is cleared, or the cut fails. -/
  | drainCompletion (seq status : Nat)
  /-- R367. Cairn sends the next granule as a persisted message. -/
  | drainSend
  /-- R375. A host write that changes REQTAIL makes interrupt 0x16 pending at the RPC thread. -/
  | hostReqtailWrite (v : BitVec 64)
  /-- R391. A START write with WARM = 0 runs a cold start. -/
  | startCold
  /-- R391. A START write with WARM = 1 runs a warm start, keeping HBM if KEEP = 1. -/
  | startWarm (keep : Bool)
  /-- R382. A host write through BAR2 is ordered at the BD, performed at the home, and may act as a release. -/
  | hostInboundWrite (off : Nat) (data : List (BitVec 8))
  /-- R383. A host read through BAR2 is served after earlier inbound writes are acknowledged. -/
  | hostInboundRead (off len : Nat)
  /-- R372. A host access to BAR0 of the wrong size completes as Unsupported Request. -/
  | hostBar0Access (off size : Nat) (write : Bool) (v : BitVec 64)
  /-- R376. Creates a context and returns CTXID and INC. -/
  | rpcCreateContext (c : BitVec 12)
  /-- R74. Checks and places a code object, returning the loader status. -/
  | rpcLoadCodeObject (frame : Nat)
  /-- R376. Creates a thread and returns its PLACE. -/
  | rpcCreateThread (p : Nat) (sp tp : BitVec 64)
  /-- R376. Executes KILL and responds with its outcome. -/
  | rpcEndContext
  /-- R376. Writes inbound window entries. -/
  | rpcMapWindow
  /-- R376. Arms a cut with SNAPARM on the RPC thread. -/
  | rpcArmSnapshot
  /-- R377. Passes a Basecamp command through the Basecamp ring. -/
  | rpcManagement
  /-- R378. Reads an entry of a Basecamp table. -/
  | readTableEntry (t i : Nat)
  /-- R378. Writes an entry of a Basecamp table where the state allows. -/
  | writeTableEntry (t i : Nat) (v : BitVec 64)
  /-- R378. Reads a lifetime histogram bin. -/
  | readLifetimeCounter (h u bin : Nat)
  /-- R378. Reads a layer's drop count of one class. -/
  | readDropCounts (layer cls : Nat)
  /-- R391. The Basecamp start command, handled as a START request. -/
  | basecampStart (v : BitVec 64)
  /-- R324. Sleeps a quiescent layer with a sleep notice. -/
  | sleepLayer (layer : Nat)
  /-- R327. Starts the wake of a layer. -/
  | wakeLayer (layer : Nat)
  /-- R313. Writes a BD slot-table entry through the arbiter. -/
  | writeBdSlot (slot : Nat) (v : BitVec 64)
  /-- R378. Registers a context's layer set with Basecamp. -/
  | registerLayerSet (c : Nat) (mask : BitVec 8)
  /-- R45. A fetched word or halfword that is unallocated, reserved or out of range, including 0x0000, raises cause 0x05 and has no other effect. -/
  | illegalOrReservedEncoding (w : BitVec 32)
  /-- R390. Package reset or power-up from standby sets every reset value, with DEVSTATE at STARTING, and runs the start sequence. -/
  | packageReset
  /-- R374. A host read of DEVSTATE returns REFUSED and then clears it. -/
  | hostDevstateRead
  /-- R385. An outbound host-window read whose PCIe completion times out returns poisoned data to the loading thread. -/
  | outboundReadTimeout (id : Nat)
  /-- R371. An inbound PCIe AtomicOp is not accepted and completes as Unsupported Request. -/
  | hostInboundAtomicop
  /-- R353. Basecamp restarts a fenced layer, which passes wake steps 3 to 5 with its HBM contents lost before its kernel starts and its slots are restored. -/
  | layerRestart (layer : Nat)
deriving DecidableEq, Repr

end Sys2Proof
end

