-- ==== Sys2Proof/WellFormed.lean ====
section
/-!
DEFINITION. Which instruction terms the encoding tables allow (R45 step 1, last two points: a format code or immediate
outside the range that the table allows), beyond what the operand widths already say.
-/

namespace Sys2Proof

/-- R43: rm 110 and 111 are reserved. -/
def rmOk (r : BitVec 3) : Bool := r != 6#3 && r != 7#3

/-- R97: the width of a format by its code; 0 for a code that names no format or may not stand in VCVT. -/
def vcvtWidth (f : BitVec 4) : Nat :=
  match f.toNat with
  | 0 => 64
  | 1 => 32
  | 2 => 16
  | 3 => 16
  | 4 => 8
  | 5 => 8
  | 6 => 6
  | 7 => 6
  | 8 => 4
  | 9 => 8
  | _ => 0

/-- R56, last paragraph: which source and destination codes VCVT may pair. -/
def vcvtOk (t u : BitVec 4) : Bool :=
  vcvtWidth t != 0 && vcvtWidth u != 0 && t != u &&
    !(t == 0#4 && decide (vcvtWidth u < 16)) && !(u == 0#4 && decide (vcvtWidth t < 16))

/-- R57: the formats ACST may store. -/
def acstFmtOk (f : BitVec 4) : Bool := [0, 1, 2, 3, 4, 5, 8, 9].contains f.toNat

/-- R57: the formats TWLD may load and their restrictions (rs2 names the second FP6 plane). -/
def twldOk (mx sp : BitVec 1) (f : BitVec 4) (b : Reg) : Bool :=
  [0, 2, 3, 4, 5, 6, 7, 8, 9, 10].contains f.toNat &&
    (if f == 6#4 || f == 7#4 then b != 0#5 else b == 0#5) &&
    !(f == 10#4 && mx == 0#1) &&
    (sp == 0#1 || [2, 3, 4, 5, 9].contains f.toNat)

/-- R57: the A-operand formats of the three multiply forms, and the sat bit, which only format code 9 may carry. -/
def tmmaOk (fmts : List Nat) (sat : BitVec 1) (f : BitVec 4) : Bool :=
  fmts.contains f.toNat && (sat == 0#1 || f == 9#4)

/-- The instruction terms that some word encodes.  The terms of ADDI and ORI with rd = x0 that the hint rule R46 gives
to TYIELD and PHINT are not well formed as ADDI and ORI, and the form of `H_VADD_I32` with all fields 0 is the halfword
0x0000 that R35 excludes. -/
def Instr.wf : Instr → Bool
  | .addi d a i => !(d == 0#5 && a == 0#5 && i == 1#12)
  | .ori d _ i => !(d == 0#5 && i.extractLsb' 0 2 != 0#2)
  | .phint _ _ t => t != 0#2
  | .loop _ _ i => decide (3 ≤ i.toNat)
  | .loopi _ _ i => decide (3 ≤ i.toNat)
  | .fadd _ r _ _ _ => rmOk r
  | .fsub _ r _ _ _ => rmOk r
  | .fmul _ r _ _ _ => rmOk r
  | .fdiv _ r _ _ _ => rmOk r
  | .fsqrt _ r _ _ => rmOk r
  | .fcvtFf s r t _ _ => rmOk r && s != t
  | .fcvtFInt _ r _ _ _ _ => rmOk r
  | .fcvtIntF _ r _ _ _ _ => rmOk r
  | .pref k _ _ => decide (k.toNat ≤ 2)
  | .ramo _ o _ _ _ => decide (o.toNat ≤ 4)
  | .vcvt t u _ _ _ _ => vcvtOk t u
  | .acst _ f _ _ _ => acstFmtOk f
  | .twld x p f _ b => twldOk x p f b
  | .tmma s f _ _ => tmmaOk [0, 2, 3, 4, 5, 8, 9] s f
  | .tmmaSp s f _ _ => tmmaOk [2, 3, 4, 5, 9] s f
  | .tmmaMx s f _ _ _ => tmmaOk [4, 5, 8, 9] s f
  | .cpy2d _ _ _ b _ => b != 0#5 && b.extractLsb' 0 1 == 0#1
  | .cwait _ n => decide (n.toNat ≤ 96)
  | .icinv w a => w == 0#1 || a == 0#5
  | .dcwb w a => w == 0#1 || a == 0#5
  | .dcinv w a => w == 0#1 || a == 0#5
  | .dcflush w a => w == 0#1 || a == 0#5
  | .hVaddI32 d b => !(d == 0#5 && b == 0#5)
  | _ => true

end Sys2Proof
end

