-- ==== Sys2Proof/Decode.lean ====
section
/-!
DEFINITION. Decoding of an instruction's bytes (R34 to R61), total, and the encoder written from the same tables.
-/

namespace Sys2Proof

/-! ### The fields of the formats (R36 to R42) -/

def majF (w : BitVec 32) : BitVec 6 := w.extractLsb' 1 6
def dF (w : BitVec 32) : BitVec 5 := w.extractLsb' 7 5
def aF (w : BitVec 32) : BitVec 5 := w.extractLsb' 12 5
def bF (w : BitVec 32) : BitVec 5 := w.extractLsb' 17 5
def cF (w : BitVec 32) : BitVec 5 := w.extractLsb' 22 5
/-- R form ext [24:22]; V form km; S and B form funct3. -/
def extF (w : BitVec 32) : BitVec 3 := w.extractLsb' 22 3
/-- R form sub [26:25]; V form wd. -/
def subF (w : BitVec 32) : BitVec 2 := w.extractLsb' 25 2
/-- R form op [31:27]; V form funct5; Q form mod. -/
def opF (w : BitVec 32) : BitVec 5 := w.extractLsb' 27 5
/-- I form funct3 [19:17]. -/
def f3I (w : BitVec 32) : BitVec 3 := w.extractLsb' 17 3
/-- I form imm12 [31:20]. -/
def immI (w : BitVec 32) : BitVec 12 := w.extractLsb' 20 12
/-- S form imm, or B form off[12:1]: the high seven bits from [31:25], the low five from [11:7] (R38). -/
def immS (w : BitVec 32) : BitVec 12 := w.extractLsb' 25 7 ++ w.extractLsb' 7 5
/-- U and J form imm20 [31:12] (R39). -/
def immU (w : BitVec 32) : BitVec 20 := w.extractLsb' 12 20
/-- T form mod [31:29], funct3 [28:26], fmt [25:22] (R40). -/
def modT (w : BitVec 32) : BitVec 3 := w.extractLsb' 29 3
def f3T (w : BitVec 32) : BitVec 3 := w.extractLsb' 26 3
def fmtT (w : BitVec 32) : BitVec 4 := w.extractLsb' 22 4

/-- The low and high parts of a 5-bit register field that names a smaller file (R40). -/
def lo1 (r : BitVec 5) : BitVec 1 := r.extractLsb' 0 1
def lo2 (r : BitVec 5) : BitVec 2 := r.extractLsb' 0 2
def lo3 (r : BitVec 5) : BitVec 3 := r.extractLsb' 0 3
def lo4 (r : BitVec 5) : BitVec 4 := r.extractLsb' 0 4
def hi1 (r : BitVec 5) : BitVec 1 := r.extractLsb' 4 1
def hi2 (r : BitVec 5) : BitVec 2 := r.extractLsb' 3 2
def hi3 (r : BitVec 5) : BitVec 3 := r.extractLsb' 2 3
def mid1 (r : BitVec 5) : BitVec 1 := r.extractLsb' 1 1

/-! ### Putting the fields together -/

def packR (op : BitVec 5) (sub : BitVec 2) (ext : BitVec 3) (b a d : BitVec 5) (maj : BitVec 6) : BitVec 32 :=
  op ++ sub ++ ext ++ b ++ a ++ d ++ maj ++ 1#1
def packI (i : BitVec 12) (f3 : BitVec 3) (a d : BitVec 5) (maj : BitVec 6) : BitVec 32 :=
  i ++ f3 ++ a ++ d ++ maj ++ 1#1
def packS (i : BitVec 12) (f3 : BitVec 3) (b a : BitVec 5) (maj : BitVec 6) : BitVec 32 :=
  i.extractLsb' 5 7 ++ f3 ++ b ++ a ++ i.extractLsb' 0 5 ++ maj ++ 1#1
def packU (i : BitVec 20) (d : BitVec 5) (maj : BitVec 6) : BitVec 32 := i ++ d ++ maj ++ 1#1
def packT (mod f3 : BitVec 3) (fmt : BitVec 4) (b a d : BitVec 5) (maj : BitVec 6) : BitVec 32 :=
  mod ++ f3 ++ fmt ++ b ++ a ++ d ++ maj ++ 1#1
def packQ (mod c b a d : BitVec 5) (maj : BitVec 6) : BitVec 32 := mod ++ c ++ b ++ a ++ d ++ maj ++ 1#1
/-- R60: the compact vector form. -/
def packHV (b d : BitVec 5) (op : BitVec 4) : BitVec 16 := b ++ d ++ op ++ 0#2
/-- R61: the compact scalar form. -/
def packHS (hi : BitVec 6) (lo : BitVec 5) (op : BitVec 3) : BitVec 16 := hi ++ lo ++ op ++ 2#2
def packHJ (i : BitVec 11) (op : BitVec 3) : BitVec 16 := i ++ op ++ 2#2

/-! ### Decoding a word by its major opcode (R44), without the range checks of `Instr.wf` -/


def dec00 (w : BitVec 32) : Option Instr :=
  match (opF w).toNat with
  | 0 => if subF w == 0#2 && extF w == 0#3 then some (.add (dF w) (aF w) (bF w)) else none
  | 1 => if subF w == 0#2 && extF w == 0#3 then some (.sub (dF w) (aF w) (bF w)) else none
  | 2 => if subF w == 0#2 && extF w == 0#3 then some (.and (dF w) (aF w) (bF w)) else none
  | 3 => if subF w == 0#2 && extF w == 0#3 then some (.or (dF w) (aF w) (bF w)) else none
  | 4 => if subF w == 0#2 && extF w == 0#3 then some (.xor (dF w) (aF w) (bF w)) else none
  | 5 => if subF w == 0#2 && extF w == 0#3 then some (.sll (dF w) (aF w) (bF w)) else none
  | 6 => if subF w == 0#2 && extF w == 0#3 then some (.srl (dF w) (aF w) (bF w)) else none
  | 7 => if subF w == 0#2 && extF w == 0#3 then some (.sra (dF w) (aF w) (bF w)) else none
  | 8 => if subF w == 0#2 && extF w == 0#3 then some (.rol (dF w) (aF w) (bF w)) else none
  | 9 => if subF w == 0#2 && extF w == 0#3 then some (.ror (dF w) (aF w) (bF w)) else none
  | 10 => if subF w == 0#2 && extF w == 0#3 then some (.slt (dF w) (aF w) (bF w)) else none
  | 11 => if subF w == 0#2 && extF w == 0#3 then some (.sltu (dF w) (aF w) (bF w)) else none
  | 12 => if subF w == 0#2 && extF w == 0#3 then some (.min (dF w) (aF w) (bF w)) else none
  | 13 => if subF w == 0#2 && extF w == 0#3 then some (.max (dF w) (aF w) (bF w)) else none
  | 14 => if subF w == 0#2 && extF w == 0#3 then some (.minu (dF w) (aF w) (bF w)) else none
  | 15 => if subF w == 0#2 && extF w == 0#3 then some (.maxu (dF w) (aF w) (bF w)) else none
  | _ => none

def dec01 (w : BitVec 32) : Option Instr :=
  match (f3I w).toNat with
  | 0 => if dF w == 0#5 && aF w == 0#5 && immI w == 1#12 then some .tyield
    else some (.addi (dF w) (aF w) (immI w))
  | 1 => some (.andi (dF w) (aF w) (immI w))
  | 2 => if dF w == 0#5 && (immI w).extractLsb' 0 2 != 0#2
    then some (.phint (aF w) ((immI w).extractLsb' 2 10) ((immI w).extractLsb' 0 2))
    else some (.ori (dF w) (aF w) (immI w))
  | 3 => some (.xori (dF w) (aF w) (immI w))
  | 4 => some (.slti (dF w) (aF w) (immI w))
  | 5 => some (.sltiu (dF w) (aF w) (immI w))
  | 6 =>
    match ((immI w).extractLsb' 6 6).toNat with
    | 0 => some (.slli (dF w) (aF w) ((immI w).extractLsb' 0 6))
    | 1 => some (.srli (dF w) (aF w) ((immI w).extractLsb' 0 6))
    | 2 => some (.srai (dF w) (aF w) ((immI w).extractLsb' 0 6))
    | 3 => some (.rori (dF w) (aF w) ((immI w).extractLsb' 0 6))
    | _ => none
  | _ => none

def dec02 (w : BitVec 32) : Option Instr :=
  match (opF w).toNat with
  | 0 => if subF w == 0#2 && extF w == 0#3 then some (.addw (dF w) (aF w) (bF w)) else none
  | 1 => if subF w == 0#2 && extF w == 0#3 then some (.subw (dF w) (aF w) (bF w)) else none
  | 5 => if subF w == 0#2 && extF w == 0#3 then some (.sllw (dF w) (aF w) (bF w)) else none
  | 6 => if subF w == 0#2 && extF w == 0#3 then some (.srlw (dF w) (aF w) (bF w)) else none
  | 7 => if subF w == 0#2 && extF w == 0#3 then some (.sraw (dF w) (aF w) (bF w)) else none
  | _ => none

def dec03 (w : BitVec 32) : Option Instr :=
  match (f3I w).toNat with
  | 0 => some (.addiw (dF w) (aF w) (immI w))
  | 6 =>
    match ((immI w).extractLsb' 5 7).toNat with
    | 0 => some (.slliw (dF w) (aF w) ((immI w).extractLsb' 0 5))
    | 2 => some (.srliw (dF w) (aF w) ((immI w).extractLsb' 0 5))
    | 4 => some (.sraiw (dF w) (aF w) ((immI w).extractLsb' 0 5))
    | _ => none
  | _ => none

def dec04 (w : BitVec 32) : Option Instr :=
  match (opF w).toNat with
  | 0 => if subF w == 0#2 && extF w == 0#3 then some (.mul (dF w) (aF w) (bF w)) else none
  | 1 => if subF w == 0#2 && extF w == 0#3 then some (.mulh (dF w) (aF w) (bF w)) else none
  | 2 => if subF w == 0#2 && extF w == 0#3 then some (.mulhu (dF w) (aF w) (bF w)) else none
  | 4 => if subF w == 0#2 && extF w == 0#3 then some (.div (dF w) (aF w) (bF w)) else none
  | 5 => if subF w == 0#2 && extF w == 0#3 then some (.divu (dF w) (aF w) (bF w)) else none
  | 6 => if subF w == 0#2 && extF w == 0#3 then some (.rem (dF w) (aF w) (bF w)) else none
  | 7 => if subF w == 0#2 && extF w == 0#3 then some (.remu (dF w) (aF w) (bF w)) else none
  | 8 => if subF w == 0#2 && extF w == 0#3 then some (.mulw (dF w) (aF w) (bF w)) else none
  | 12 => if subF w == 0#2 && extF w == 0#3 then some (.divw (dF w) (aF w) (bF w)) else none
  | 13 => if subF w == 0#2 && extF w == 0#3 then some (.divuw (dF w) (aF w) (bF w)) else none
  | 14 => if subF w == 0#2 && extF w == 0#3 then some (.remw (dF w) (aF w) (bF w)) else none
  | 15 => if subF w == 0#2 && extF w == 0#3 then some (.remuw (dF w) (aF w) (bF w)) else none
  | _ => none

def dec05 (w : BitVec 32) : Option Instr := some (.lui (dF w) (immU w))

def dec06 (w : BitVec 32) : Option Instr := some (.auipc (dF w) (immU w))

def dec07 (w : BitVec 32) : Option Instr :=
  match (opF w).toNat with
  | 0 => if cF w == 0#5 && bF w == 0#5 then some (.clz (dF w) (aF w)) else none
  | 1 => if cF w == 0#5 && bF w == 0#5 then some (.ctz (dF w) (aF w)) else none
  | 2 => if cF w == 0#5 && bF w == 0#5 then some (.popc (dF w) (aF w)) else none
  | 3 => if cF w == 0#5 && bF w == 0#5 then some (.bswap (dF w) (aF w)) else none
  | 4 => if cF w == 0#5 && bF w == 0#5 then some (.sextI8 (dF w) (aF w)) else none
  | 5 => if cF w == 0#5 && bF w == 0#5 then some (.sextI16 (dF w) (aF w)) else none
  | 6 => if cF w == 0#5 && bF w == 0#5 then some (.sextI32 (dF w) (aF w)) else none
  | 7 => if cF w == 0#5 && bF w == 0#5 then some (.zextN8 (dF w) (aF w)) else none
  | 8 => if cF w == 0#5 && bF w == 0#5 then some (.zextN16 (dF w) (aF w)) else none
  | 9 => if cF w == 0#5 && bF w == 0#5 then some (.zextN32 (dF w) (aF w)) else none
  | 10 => some (.sel (dF w) (aF w) (bF w) (cF w))
  | 11 => if hi3 (cF w) == 0#3 then some (.shadd (dF w) (aF w) (bF w) (lo2 (cF w))) else none
  | 12 => if cF w == 0#5 then some (.mkva (dF w) (aF w) (bF w)) else none
  | 13 => if hi1 (cF w) == 0#1 && bF w == 0#5 then some (.mkvai (dF w) (aF w) (lo4 (cF w))) else none
  | _ => none

def dec08 (w : BitVec 32) : Option Instr :=
  match (extF w).toNat with
  | 0 => some (.beq (aF w) (bF w) (immS w))
  | 1 => some (.bne (aF w) (bF w) (immS w))
  | 4 => some (.blt (aF w) (bF w) (immS w))
  | 5 => some (.bge (aF w) (bF w) (immS w))
  | 6 => some (.bltu (aF w) (bF w) (immS w))
  | 7 => some (.bgeu (aF w) (bF w) (immS w))
  | _ => none

def dec09 (w : BitVec 32) : Option Instr := some (.jal (dF w) (immU w))

def dec0A (w : BitVec 32) : Option Instr :=
  match (f3I w).toNat with
  | 0 => some (.jalr (dF w) (aF w) (immI w))
  | 1 => if immI w == 0#12 && aF w == 0#5 && dF w == 0#5 then some (.fetchb) else none
  | _ => none

def dec0B (w : BitVec 32) : Option Instr :=
  match (f3I w).toNat with
  | 0 => if dF w == 0#5 then some (.loop 0#1 (aF w) (immI w)) else none
  | 1 => if dF w == 0#5 then some (.loop 1#1 (aF w) (immI w)) else none
  | 2 => some (.loopi 0#1 (dF w ++ aF w) (immI w))
  | 3 => some (.loopi 1#1 (dF w ++ aF w) (immI w))
  | _ => none

def dec0C (w : BitVec 32) : Option Instr :=
  match (opF w).toNat with
  | 0 => some (.fadd (subF w) (extF w) (dF w) (aF w) (bF w))
  | 1 => some (.fsub (subF w) (extF w) (dF w) (aF w) (bF w))
  | 2 => some (.fmul (subF w) (extF w) (dF w) (aF w) (bF w))
  | 3 => some (.fdiv (subF w) (extF w) (dF w) (aF w) (bF w))
  | 4 => if bF w == 0#5 then some (.fsqrt (subF w) (extF w) (dF w) (aF w)) else none
  | 5 => if extF w == 0#3 then some (.fmin (subF w) (dF w) (aF w) (bF w)) else none
  | 6 => if extF w == 0#3 then some (.fmax (subF w) (dF w) (aF w) (bF w)) else none
  | 7 => if extF w == 0#3 then some (.fcpsgn (subF w) (dF w) (aF w) (bF w)) else none
  | 8 => if extF w == 0#3 then some (.fxsgn (subF w) (dF w) (aF w) (bF w)) else none
  | 9 => if extF w == 0#3 && bF w == 0#5 then some (.fneg (subF w) (dF w) (aF w)) else none
  | 10 => if extF w == 0#3 && bF w == 0#5 then some (.fabs (subF w) (dF w) (aF w)) else none
  | 11 => if subF w == 0#2 && extF w == 0#3 && bF w == 0#5 then some (.fmov (dF w) (aF w)) else none
  | _ => none

def dec0D (w : BitVec 32) : Option Instr :=
  match ((opF w).extractLsb' 3 2).toNat with
  | 0 => some (.fma ((opF w).extractLsb' 1 2) ((opF w).extractLsb' 0 1) (dF w) (aF w) (bF w) (cF w))
  | 1 => some (.fms ((opF w).extractLsb' 1 2) ((opF w).extractLsb' 0 1) (dF w) (aF w) (bF w) (cF w))
  | 2 => some (.fnma ((opF w).extractLsb' 1 2) ((opF w).extractLsb' 0 1) (dF w) (aF w) (bF w) (cF w))
  | 3 => some (.fnms ((opF w).extractLsb' 1 2) ((opF w).extractLsb' 0 1) (dF w) (aF w) (bF w) (cF w))
  | _ => none

def dec0E (w : BitVec 32) : Option Instr :=
  match (opF w).toNat with
  | 0 => if hi3 (bF w) == 0#3 then some (.fcvtFf (subF w) (extF w) (lo2 (bF w)) (dF w) (aF w)) else none
  | 1 => if hi3 (bF w) == 0#3 then some (.fcvtFInt (subF w) (extF w) (mid1 (bF w)) (lo1 (bF w)) (dF w) (aF w)) else none
  | 2 => if hi3 (bF w) == 0#3 then some (.fcvtIntF (subF w) (extF w) (mid1 (bF w)) (lo1 (bF w)) (dF w) (aF w)) else none
  | 3 => if extF w == 0#3 && bF w == 0#5 then some (.fmvx (subF w) (dF w) (aF w)) else none
  | 4 => if extF w == 0#3 && bF w == 0#5 then some (.fmvf (subF w) (dF w) (aF w)) else none
  | _ => none

def dec0F (w : BitVec 32) : Option Instr :=
  match (opF w).toNat with
  | 0 => if extF w == 0#3 then some (.feq (subF w) (dF w) (aF w) (bF w)) else none
  | 1 => if extF w == 0#3 then some (.flt (subF w) (dF w) (aF w) (bF w)) else none
  | 2 => if extF w == 0#3 then some (.fle (subF w) (dF w) (aF w) (bF w)) else none
  | 3 => if extF w == 0#3 && bF w == 0#5 then some (.fclass (subF w) (dF w) (aF w)) else none
  | _ => none

def dec10 (w : BitVec 32) : Option Instr :=
  match (f3I w).toNat with
  | 0 => some (.ldI8 (dF w) (aF w) (immI w))
  | 1 => some (.ldI16 (dF w) (aF w) (immI w))
  | 2 => some (.ldI32 (dF w) (aF w) (immI w))
  | 3 => some (.ldI64 (dF w) (aF w) (immI w))
  | 4 => some (.ldN8 (dF w) (aF w) (immI w))
  | 5 => some (.ldN16 (dF w) (aF w) (immI w))
  | 6 => some (.ldN32 (dF w) (aF w) (immI w))
  | 7 => some (.pref (dF w) (aF w) (immI w))
  | _ => none

def dec11 (w : BitVec 32) : Option Instr :=
  match (extF w).toNat with
  | 0 => some (.stI8 (aF w) (bF w) (immS w))
  | 1 => some (.stI16 (aF w) (bF w) (immS w))
  | 2 => some (.stI32 (aF w) (bF w) (immS w))
  | 3 => some (.stI64 (aF w) (bF w) (immS w))
  | _ => none

def dec12 (w : BitVec 32) : Option Instr :=
  match (f3I w).toNat with
  | 1 => some (.fldF16 (dF w) (aF w) (immI w))
  | 2 => some (.fldF32 (dF w) (aF w) (immI w))
  | 3 => some (.fldF64 (dF w) (aF w) (immI w))
  | _ => none

def dec13 (w : BitVec 32) : Option Instr :=
  match (extF w).toNat with
  | 1 => some (.fstF16 (aF w) (bF w) (immS w))
  | 2 => some (.fstF32 (aF w) (bF w) (immS w))
  | 3 => some (.fstF64 (aF w) (bF w) (immS w))
  | _ => none

def dec14 (w : BitVec 32) : Option Instr :=
  match (opF w).toNat with
  | 0 => if (subF w).extractLsb' 1 1 == 1#1 && extF w == 0#3 then some (.amoadd ((subF w).extractLsb' 0 1) (dF w) (aF w) (bF w)) else none
  | 1 => if (subF w).extractLsb' 1 1 == 1#1 && extF w == 0#3 then some (.amoswap ((subF w).extractLsb' 0 1) (dF w) (aF w) (bF w)) else none
  | 2 => if (subF w).extractLsb' 1 1 == 1#1 && extF w == 0#3 then some (.amoand ((subF w).extractLsb' 0 1) (dF w) (aF w) (bF w)) else none
  | 3 => if (subF w).extractLsb' 1 1 == 1#1 && extF w == 0#3 then some (.amoor ((subF w).extractLsb' 0 1) (dF w) (aF w) (bF w)) else none
  | 4 => if (subF w).extractLsb' 1 1 == 1#1 && extF w == 0#3 then some (.amoxor ((subF w).extractLsb' 0 1) (dF w) (aF w) (bF w)) else none
  | 5 => if (subF w).extractLsb' 1 1 == 1#1 && extF w == 0#3 then some (.amomin ((subF w).extractLsb' 0 1) (dF w) (aF w) (bF w)) else none
  | 6 => if (subF w).extractLsb' 1 1 == 1#1 && extF w == 0#3 then some (.amomax ((subF w).extractLsb' 0 1) (dF w) (aF w) (bF w)) else none
  | 7 => if (subF w).extractLsb' 1 1 == 1#1 && extF w == 0#3 then some (.amominu ((subF w).extractLsb' 0 1) (dF w) (aF w) (bF w)) else none
  | 8 => if (subF w).extractLsb' 1 1 == 1#1 && extF w == 0#3 then some (.amomaxu ((subF w).extractLsb' 0 1) (dF w) (aF w) (bF w)) else none
  | 9 => if (subF w).extractLsb' 1 1 == 1#1 && extF w == 0#3 then some (.cas ((subF w).extractLsb' 0 1) (dF w) (aF w) (bF w)) else none
  | 10 => if (subF w).extractLsb' 1 1 == 1#1 && extF w == 0#3 && dF w == 0#5 then some (.radd ((subF w).extractLsb' 0 1) (aF w) (bF w)) else none
  | 11 => if (subF w).extractLsb' 1 1 == 1#1 && extF w == 0#3 && dF w == 0#5 then some (.raddF ((subF w).extractLsb' 0 1) (aF w) (bF w)) else none
  | _ => none

def dec15 (w : BitVec 32) : Option Instr :=
  match (opF w).toNat with
  | 0 => if (subF w).extractLsb' 1 1 == 1#1 && (extF w).extractLsb' 0 1 == 0#1 && bF w == 0#5 then some (.ldAcq ((subF w).extractLsb' 0 1) ((extF w).extractLsb' 1 2) (dF w) (aF w)) else none
  | 1 => if (subF w).extractLsb' 1 1 == 1#1 && (extF w).extractLsb' 0 1 == 0#1 && dF w == 0#5 then some (.stRel ((subF w).extractLsb' 0 1) ((extF w).extractLsb' 1 2) (aF w) (bF w)) else none
  | _ => none

def dec16 (w : BitVec 32) : Option Instr :=
  match (opF w).toNat with
  | 0 => if extF w == 0#3 && bF w == 0#5 && aF w == 0#5 && dF w == 0#5 then some (.fence (subF w)) else none
  | 1 => if subF w == 0#2 && extF w == 0#3 && bF w == 0#5 && hi1 (aF w) == 0#1 && dF w == 0#5 then some (.bar (lo4 (aF w))) else none
  | 2 => if subF w == 0#2 && extF w == 0#3 && bF w == 0#5 && hi1 (aF w) == 0#1 && dF w == 0#5 then some (.barwait (lo4 (aF w))) else none
  | 3 => if (subF w).extractLsb' 1 1 == 1#1 && extF w == 0#3 && dF w == 0#5 then some (.waitne ((subF w).extractLsb' 0 1) (aF w) (bF w)) else none
  | 4 => if subF w == 0#2 && extF w == 0#3 && bF w == 0#5 && aF w == 0#5 then some (.sigrd (dF w)) else none
  | 5 => if subF w == 0#2 && extF w == 0#3 && bF w == 0#5 && dF w == 0#5 then some (.sigclr (aF w)) else none
  | 6 => if subF w == 0#2 && extF w == 0#3 && bF w == 0#5 && aF w == 0#5 && dF w == 0#5 then some (.orswait) else none
  | _ => none

def dec17 (w : BitVec 32) : Option Instr :=
  match (opF w).toNat with
  | 0 => if (subF w).extractLsb' 1 1 == 1#1 && extF w == 0#3 && dF w == 0#5 then some (.rst ((subF w).extractLsb' 0 1) (aF w) (bF w)) else none
  | 1 => if (subF w).extractLsb' 1 1 == 1#1 && extF w == 0#3 && dF w == 0#5 then some (.rstRel ((subF w).extractLsb' 0 1) (aF w) (bF w)) else none
  | 2 => if (subF w).extractLsb' 1 1 == 1#1 then some (.ramo ((subF w).extractLsb' 0 1) (extF w) (dF w) (aF w) (bF w)) else none
  | 3 => if (subF w).extractLsb' 1 1 == 1#1 && extF w == 0#3 then some (.rcas ((subF w).extractLsb' 0 1) (dF w) (aF w) (bF w)) else none
  | 4 => if subF w == 0#2 && extF w == 0#3 && bF w == 0#5 && aF w == 0#5 && dF w == 0#5 then some (.rfence) else none
  | _ => none

def dec18 (w : BitVec 32) : Option Instr :=
  match (opF w).toNat with
  | 0 => some (.vadd (subF w) (extF w) (dF w) (aF w) (bF w))
  | 1 => some (.vsub (subF w) (extF w) (dF w) (aF w) (bF w))
  | 2 => some (.vmul (subF w) (extF w) (dF w) (aF w) (bF w))
  | 3 => some (.vmulh (subF w) (extF w) (dF w) (aF w) (bF w))
  | 4 => some (.vmin (subF w) (extF w) (dF w) (aF w) (bF w))
  | 5 => some (.vmax (subF w) (extF w) (dF w) (aF w) (bF w))
  | 6 => some (.vminu (subF w) (extF w) (dF w) (aF w) (bF w))
  | 7 => some (.vmaxu (subF w) (extF w) (dF w) (aF w) (bF w))
  | 8 => some (.vand (subF w) (extF w) (dF w) (aF w) (bF w))
  | 9 => some (.vor (subF w) (extF w) (dF w) (aF w) (bF w))
  | 10 => some (.vxor (subF w) (extF w) (dF w) (aF w) (bF w))
  | 11 => some (.vsll (subF w) (extF w) (dF w) (aF w) (bF w))
  | 12 => some (.vsrl (subF w) (extF w) (dF w) (aF w) (bF w))
  | 13 => some (.vsra (subF w) (extF w) (dF w) (aF w) (bF w))
  | _ => none

def dec19 (w : BitVec 32) : Option Instr :=
  match (opF w).toNat with
  | 0 => some (.vfadd (subF w) (extF w) (dF w) (aF w) (bF w))
  | 1 => some (.vfsub (subF w) (extF w) (dF w) (aF w) (bF w))
  | 2 => some (.vfmul (subF w) (extF w) (dF w) (aF w) (bF w))
  | 3 => some (.vfdiv (subF w) (extF w) (dF w) (aF w) (bF w))
  | 4 => some (.vfmin (subF w) (extF w) (dF w) (aF w) (bF w))
  | 5 => some (.vfmax (subF w) (extF w) (dF w) (aF w) (bF w))
  | 6 => if bF w == 0#5 then some (.vfsqrt (subF w) (extF w) (dF w) (aF w)) else none
  | 7 => if bF w == 0#5 then some (.vfrcp (subF w) (extF w) (dF w) (aF w)) else none
  | 8 => if bF w == 0#5 then some (.vfrsq (subF w) (extF w) (dF w) (aF w)) else none
  | 9 => if bF w == 0#5 then some (.vfexp2 (subF w) (extF w) (dF w) (aF w)) else none
  | _ => none

def dec1A (w : BitVec 32) : Option Instr :=
  match (opF w).toNat with
  | 0 => some (.vfma (subF w) (extF w) (dF w) (aF w) (bF w))
  | 1 => some (.vfms (subF w) (extF w) (dF w) (aF w) (bF w))
  | 2 => some (.vfnma (subF w) (extF w) (dF w) (aF w) (bF w))
  | 3 => some (.vfnms (subF w) (extF w) (dF w) (aF w) (bF w))
  | _ => none

def dec1B (w : BitVec 32) : Option Instr :=
  match (opF w).toNat with
  | 0 => if hi2 (dF w) == 0#2 then some (.vcmpeq (subF w) (extF w) (lo3 (dF w)) (aF w) (bF w)) else none
  | 1 => if hi2 (dF w) == 0#2 then some (.vcmpne (subF w) (extF w) (lo3 (dF w)) (aF w) (bF w)) else none
  | 2 => if hi2 (dF w) == 0#2 then some (.vcmplt (subF w) (extF w) (lo3 (dF w)) (aF w) (bF w)) else none
  | 3 => if hi2 (dF w) == 0#2 then some (.vcmple (subF w) (extF w) (lo3 (dF w)) (aF w) (bF w)) else none
  | 4 => if hi2 (dF w) == 0#2 then some (.vcmpltu (subF w) (extF w) (lo3 (dF w)) (aF w) (bF w)) else none
  | 5 => if hi2 (dF w) == 0#2 then some (.vcmpleu (subF w) (extF w) (lo3 (dF w)) (aF w) (bF w)) else none
  | 8 => if hi2 (dF w) == 0#2 then some (.vfcmpeq (subF w) (extF w) (lo3 (dF w)) (aF w) (bF w)) else none
  | 9 => if hi2 (dF w) == 0#2 then some (.vfcmplt (subF w) (extF w) (lo3 (dF w)) (aF w) (bF w)) else none
  | 10 => if hi2 (dF w) == 0#2 then some (.vfcmple (subF w) (extF w) (lo3 (dF w)) (aF w) (bF w)) else none
  | 16 => some (.vsel (subF w) (extF w) (dF w) (aF w) (bF w))
  | _ => none

def dec1C (w : BitVec 32) : Option Instr :=
  match (opF w).toNat with
  | 0 => if bF w == 0#5 then some (.vbcast (subF w) (extF w) (dF w) (aF w)) else none
  | 1 => if extF w == 0#3 then some (.vextr (subF w) (dF w) (aF w) (bF w)) else none
  | 2 => if extF w == 0#3 then some (.vinsr (subF w) (dF w) (aF w) (bF w)) else none
  | 3 => some (.vperm (subF w) (extF w) (dF w) (aF w) (bF w))
  | 4 => if bF w == 0#5 then some (.vredAdd (subF w) (extF w) (dF w) (aF w)) else none
  | 5 => if bF w == 0#5 then some (.vredMin (subF w) (extF w) (dF w) (aF w)) else none
  | 6 => if bF w == 0#5 then some (.vredMax (subF w) (extF w) (dF w) (aF w)) else none
  | 7 => if bF w == 0#5 then some (.vredMinu (subF w) (extF w) (dF w) (aF w)) else none
  | 8 => if bF w == 0#5 then some (.vredMaxu (subF w) (extF w) (dF w) (aF w)) else none
  | 12 => if bF w == 0#5 then some (.vfredAdd (subF w) (extF w) (dF w) (aF w)) else none
  | 13 => if bF w == 0#5 then some (.vfredMin (subF w) (extF w) (dF w) (aF w)) else none
  | 14 => if bF w == 0#5 then some (.vfredMax (subF w) (extF w) (dF w) (aF w)) else none
  | _ => none

def dec1D (w : BitVec 32) : Option Instr :=
  if hi1 (opF w) == 0#1 then
    if (subF w).extractLsb' 0 1 == 0#1 && hi1 (bF w) == 0#1 then some (.vcvt (lo4 (opF w)) (lo4 (bF w)) ((subF w).extractLsb' 1 1) (extF w) (dF w) (aF w)) else none
  else
  match (opF w).toNat with
  | 16 => if subF w == 0#2 && bF w == 0#5 then some (.vcvtF32I32 (extF w) (dF w) (aF w)) else none
  | 17 => if subF w == 0#2 && bF w == 0#5 then some (.vcvtI32F32 (extF w) (dF w) (aF w)) else none
  | 18 => if subF w == 0#2 && bF w == 0#5 then some (.vcvtF64I64 (extF w) (dF w) (aF w)) else none
  | 19 => if subF w == 0#2 && bF w == 0#5 then some (.vcvtI64F64 (extF w) (dF w) (aF w)) else none
  | _ => none

def dec1E (w : BitVec 32) : Option Instr :=
  match (opF w).toNat with
  | 0 => if bF w == 0#5 then some (.vld (subF w) (extF w) (dF w) (aF w)) else none
  | 1 => if bF w == 0#5 then some (.vst (subF w) (extF w) (dF w) (aF w)) else none
  | 2 => some (.vlds (subF w) (extF w) (dF w) (aF w) (bF w))
  | 3 => some (.vsts (subF w) (extF w) (dF w) (aF w) (bF w))
  | _ => none

def dec1F (w : BitVec 32) : Option Instr :=
  match (opF w).toNat with
  | 0 => some (.vgather (subF w) (extF w) (dF w) (aF w) (bF w))
  | 1 => some (.vscatter (subF w) (extF w) (dF w) (aF w) (bF w))
  | _ => none

def dec20 (w : BitVec 32) : Option Instr :=
  match (f3T w).toNat with
  | 0 => if modT w == 0#3 && fmtT w == 0#4 && hi2 (dF w) == 0#2 then some (.tld (lo3 (dF w)) (aF w) (bF w)) else none
  | 1 => if modT w == 0#3 && fmtT w == 0#4 && hi3 (dF w) == 0#3 then some (.acld (lo2 (dF w)) (aF w) (bF w)) else none
  | 2 => if modT w == 0#3 && fmtT w == 0#4 && bF w == 0#5 && aF w == 0#5 && hi3 (dF w) == 0#3 then some (.aczero (lo2 (dF w))) else none
  | _ => none

def dec21 (w : BitVec 32) : Option Instr :=
  match (f3T w).toNat with
  | 0 => if (modT w).extractLsb' 1 2 == 0#2 && hi3 (dF w) == 0#3 then some (.acst ((modT w).extractLsb' 0 1) (fmtT w) (lo2 (dF w)) (aF w) (bF w)) else none
  | _ => none

def dec22 (w : BitVec 32) : Option Instr :=
  match (f3T w).toNat with
  | 0 => if (modT w).extractLsb' 2 1 == 0#1 && dF w == 0#5 then some (.twld ((modT w).extractLsb' 1 1) ((modT w).extractLsb' 0 1) (fmtT w) (aF w) (bF w)) else none
  | 1 => if modT w == 0#3 && fmtT w == 0#4 && bF w == 0#5 && aF w == 0#5 && dF w == 0#5 then some (.twswap) else none
  | _ => none

def dec23 (w : BitVec 32) : Option Instr :=
  match (f3T w).toNat with
  | 0 => if (modT w).extractLsb' 1 2 == 0#2 && bF w == 0#5 && hi2 (aF w) == 0#2 && hi3 (dF w) == 0#3 then some (.tmma ((modT w).extractLsb' 0 1) (fmtT w) (lo2 (dF w)) (lo3 (aF w))) else none
  | _ => none

def dec24 (w : BitVec 32) : Option Instr :=
  match (f3T w).toNat with
  | 0 => if (modT w).extractLsb' 1 2 == 0#2 && bF w == 0#5 && hi2 (aF w) == 0#2 && hi3 (dF w) == 0#3 then some (.tmmaSp ((modT w).extractLsb' 0 1) (fmtT w) (lo2 (dF w)) (lo3 (aF w))) else none
  | 1 => if (modT w).extractLsb' 1 2 == 0#2 && hi2 (aF w) == 0#2 && hi3 (dF w) == 0#3 then some (.tmmaMx ((modT w).extractLsb' 0 1) (fmtT w) (lo2 (dF w)) (lo3 (aF w)) (bF w)) else none
  | _ => none

def dec25 (w : BitVec 32) : Option Instr :=
  match (f3T w).toNat with
  | 0 => if modT w == 0#3 && bF w == 0#5 && hi2 (dF w) == 0#2 then some (.tmovTv (lo3 (dF w)) (fmtT w) (aF w)) else none
  | 1 => if modT w == 0#3 && bF w == 0#5 && hi2 (aF w) == 0#2 then some (.tmovVt (dF w) (lo3 (aF w)) (fmtT w)) else none
  | 2 => if modT w == 0#3 && (fmtT w).extractLsb' 1 3 == 0#3 && bF w == 0#5 && hi3 (dF w) == 0#3 then some (.acscale ((fmtT w).extractLsb' 0 1) (lo2 (dF w)) (aF w)) else none
  | 3 => if modT w == 0#3 && (fmtT w).extractLsb' 1 3 == 0#3 && bF w == 0#5 && aF w == 0#5 && hi3 (dF w) == 0#3 then some (.accvt ((fmtT w).extractLsb' 0 1) (lo2 (dF w))) else none
  | 7 => if modT w == 0#3 && fmtT w == 0#4 && bF w == 0#5 && aF w == 0#5 && dF w == 0#5 then some (.tsync) else none
  | _ => none

def dec28 (w : BitVec 32) : Option Instr :=
  match ((opF w).extractLsb' 3 2).toNat with
  | 0 => some (.cpy ((opF w).extractLsb' 0 3) (dF w) (aF w) (bF w) (cF w))
  | 1 => some (.cpy2d ((opF w).extractLsb' 0 3) (dF w) (aF w) (bF w) (cF w))
  | 2 => some (.cpyBc ((opF w).extractLsb' 0 3) (dF w) (aF w) (bF w) (cF w))
  | _ => none

def dec29 (w : BitVec 32) : Option Instr :=
  match (f3I w).toNat with
  | 0 => if (immI w).extractLsb' 10 2 == 0#2 && aF w == 0#5 && dF w == 0#5 then some (.cwait ((immI w).extractLsb' 7 3) ((immI w).extractLsb' 0 7)) else none
  | 1 => if (immI w).extractLsb' 10 2 == 0#2 && (immI w).extractLsb' 0 7 == 0#7 && aF w == 0#5 then some (.cpoll (dF w) ((immI w).extractLsb' 7 3)) else none
  | 2 => if (immI w).extractLsb' 10 2 == 0#2 && (immI w).extractLsb' 0 7 == 0#7 && aF w == 0#5 && dF w == 0#5 then some (.ccancel ((immI w).extractLsb' 7 3)) else none
  | _ => none

def dec2A (w : BitVec 32) : Option Instr :=
  if (opF w).extractLsb' 2 3 == 0#3 then
    match ((opF w).extractLsb' 0 2).toNat with
    | 0 => some (.msend 0#1 (dF w) (aF w) (bF w) (cF w))
    | 2 => some (.msend 1#1 (dF w) (aF w) (bF w) (cF w))
    | 1 => some (.mpost (dF w) (aF w) (bF w) (cF w))
    | _ => none
  else none

def dec2C (w : BitVec 32) : Option Instr :=
  if f3I w == 0#3 && aF w == 0#5 && dF w == 0#5 then
    match (immI w).toNat with
    | 0 => some .ecall
    | 1 => some .ebreak
    | 2 => some .eret
    | 3 => some .wfi
    | _ => none
  else none

def dec2D (w : BitVec 32) : Option Instr :=
  match (f3I w).toNat with
  | 0 => if aF w == 0#5 then some (.csrr (dF w) (immI w)) else none
  | 1 => some (.csrw (dF w) (aF w) (immI w))
  | 2 => some (.csrs (dF w) (aF w) (immI w))
  | 3 => some (.csrc (dF w) (aF w) (immI w))
  | _ => none

def dec2E (w : BitVec 32) : Option Instr :=
  match (opF w).toNat with
  | 0 => if subF w == 0#2 && extF w == 0#3 && dF w == 0#5 then some (.tlbi (aF w) (bF w)) else none
  | 1 => if subF w == 0#2 && extF w == 0#3 && bF w == 0#5 && dF w == 0#5 then some (.tlbia (aF w)) else none
  | 2 => if (subF w).extractLsb' 1 1 == 0#1 && extF w == 0#3 && bF w == 0#5 && dF w == 0#5 then some (.icinv ((subF w).extractLsb' 0 1) (aF w)) else none
  | 3 => if (subF w).extractLsb' 1 1 == 0#1 && extF w == 0#3 && bF w == 0#5 && dF w == 0#5 then some (.dcwb ((subF w).extractLsb' 0 1) (aF w)) else none
  | 4 => if (subF w).extractLsb' 1 1 == 0#1 && extF w == 0#3 && bF w == 0#5 && dF w == 0#5 then some (.dcinv ((subF w).extractLsb' 0 1) (aF w)) else none
  | 5 => if (subF w).extractLsb' 1 1 == 0#1 && extF w == 0#3 && bF w == 0#5 && dF w == 0#5 then some (.dcflush ((subF w).extractLsb' 0 1) (aF w)) else none
  | _ => none

def dec2F (w : BitVec 32) : Option Instr :=
  match (opF w).toNat with
  | 0 => if subF w == 0#2 && extF w == 0#3 && bF w == 0#5 && dF w == 0#5 then some (.ctxsave (aF w)) else none
  | 1 => if subF w == 0#2 && extF w == 0#3 && dF w == 0#5 then some (.ctxload (aF w) (bF w)) else none
  | 2 => if subF w == 0#2 && extF w == 0#3 && bF w == 0#5 then some (.kill (dF w) (aF w)) else none
  | 3 => if subF w == 0#2 && extF w == 0#3 then some (.reclaim (dF w) (aF w) (bF w)) else none
  | 4 => if subF w == 0#2 && extF w == 0#3 && bF w == 0#5 then some (.fqpop (dF w) (aF w)) else none
  | 5 => if subF w == 0#2 && extF w == 0#3 && bF w == 0#5 && dF w == 0#5 then some (.replay (aF w)) else none
  | 6 => if subF w == 0#2 && extF w == 0#3 && bF w == 0#5 && aF w == 0#5 && dF w == 0#5 then some (.rgn) else none
  | 7 => if subF w == 0#2 && extF w == 0#3 && bF w == 0#5 && aF w == 0#5 then some (.pair (dF w)) else none
  | 8 => if subF w == 0#2 && extF w == 0#3 && bF w == 0#5 && aF w == 0#5 then some (.unpair (dF w)) else none
  | 9 => if subF w == 0#2 && extF w == 0#3 && bF w == 0#5 && aF w == 0#5 && dF w == 0#5 then some (.cstep) else none
  | 10 => if subF w == 0#2 && extF w == 0#3 && bF w == 0#5 then some (.snaparm (dF w) (aF w)) else none
  | _ => none

/-- R44: the class of a 32-bit word; majors that are not listed are unallocated. -/
def decodeMajor (w : BitVec 32) : Option Instr :=
  match (majF w).toNat with
  | 0 => dec00 w
  | 1 => dec01 w
  | 2 => dec02 w
  | 3 => dec03 w
  | 4 => dec04 w
  | 5 => dec05 w
  | 6 => dec06 w
  | 7 => dec07 w
  | 8 => dec08 w
  | 9 => dec09 w
  | 10 => dec0A w
  | 11 => dec0B w
  | 12 => dec0C w
  | 13 => dec0D w
  | 14 => dec0E w
  | 15 => dec0F w
  | 16 => dec10 w
  | 17 => dec11 w
  | 18 => dec12 w
  | 19 => dec13 w
  | 20 => dec14 w
  | 21 => dec15 w
  | 22 => dec16 w
  | 23 => dec17 w
  | 24 => dec18 w
  | 25 => dec19 w
  | 26 => dec1A w
  | 27 => dec1B w
  | 28 => dec1C w
  | 29 => dec1D w
  | 30 => dec1E w
  | 31 => dec1F w
  | 32 => dec20 w
  | 33 => dec21 w
  | 34 => dec22 w
  | 35 => dec23 w
  | 36 => dec24 w
  | 37 => dec25 w
  | 40 => dec28 w
  | 41 => dec29 w
  | 42 => dec2A w
  | 44 => dec2C w
  | 45 => dec2D w
  | 46 => dec2E w
  | 47 => dec2F w
  | _ => none

/-- A 32-bit word, with the range checks of the tables (R45 step 1). -/
def decodeWord (w : BitVec 32) : Option Instr :=
  match decodeMajor w with
  | some i => if i.wf then some i else none
  | none => none

/-- R60: the compact vector form. -/
noncomputable def decHV (h : BitVec 16) : Option Instr :=
  let b : BitVec 5 := h.extractLsb' 11 5
  let d : BitVec 5 := h.extractLsb' 6 5
  match (h.extractLsb' 2 4).toNat with
  | 0 => some (.hVaddI32 d b)
  | 1 => some (.hVsubI32 d b)
  | 2 => some (.hVaddI64 d b)
  | 3 => some (.hVandN64 d b)
  | 4 => some (.hVorN64 d b)
  | 5 => some (.hVxorN64 d b)
  | 6 => some (.hVminI32 d b)
  | 7 => some (.hVmaxI32 d b)
  | 8 => some (.hVfaddF32 d b)
  | 9 => some (.hVfsubF32 d b)
  | 10 => some (.hVfmulF32 d b)
  | 11 => some (.hVfminF32 d b)
  | 12 => some (.hVfmaxF32 d b)
  | 13 => some (.hVfaddBf16 d b)
  | 14 => some (.hVfmulBf16 d b)
  | 15 => some (.hVmov d b)
  | _ => none

/-- R61: the compact scalar form. -/
noncomputable def decHS (h : BitVec 16) : Option Instr :=
  let hi : BitVec 6 := h.extractLsb' 10 6
  let lo : BitVec 5 := h.extractLsb' 5 5
  match (h.extractLsb' 2 3).toNat with
  | 0 => some (.hAddi lo hi)
  | 1 => if hi.extractLsb' 5 1 == 0#1 then some (.hMove lo (hi.extractLsb' 0 5)) else none
  | 2 => some (.hLds lo hi)
  | 3 => some (.hSts lo hi)
  | 4 => some (.hBz lo hi)
  | 5 => some (.hBnz lo hi)
  | 6 => some (.hJmp (h.extractLsb' 5 11))
  | 7 => if hi.extractLsb' 5 1 == 0#1 then some (.hAdd lo (hi.extractLsb' 0 5)) else none
  | _ => none

/-- R34, R35: a halfword with bit 0 clear.  Bit 1 selects the compact vector or the compact scalar form. -/
noncomputable def decodeHalf (h : BitVec 16) : Option Instr :=
  if h == 0#16 then none
  else if h.extractLsb' 1 1 == 0#1 then decHV h else decHS h

/-- Why no instruction is read from bytes. -/
inductive DecodeError where
  /-- Fewer bytes than R34 asks for. -/
  | truncated
  /-- A halfword that is not an instruction: 0x0000, or a reserved field that is not 0 (R35, R45, R61). -/
  | illegalHalf (h : BitVec 16)
  /-- A word that is not an instruction (R45 step 1). -/
  | illegalWord (w : BitVec 32)
deriving DecidableEq, Repr

/-- R34: bit 0 of the first halfword gives the length. -/
def isWord (h : BitVec 16) : Bool := h.extractLsb' 0 1 == 1#1

/-- Reads one instruction from the front of a list of bytes, little-endian (R3, R34), and returns the bytes after it. -/
noncomputable def decode : List Byte → Except DecodeError (Instr × List Byte)
  | b0 :: b1 :: rest =>
    let h : BitVec 16 := b1 ++ b0
    if isWord h then
      match rest with
      | b2 :: b3 :: rest' =>
        let w : BitVec 32 := b3 ++ b2 ++ b1 ++ b0
        match decodeWord w with
        | some i => .ok (i, rest')
        | none => .error (.illegalWord w)
      | _ => .error .truncated
    else
      match decodeHalf h with
      | some i => .ok (i, rest)
      | none => .error (.illegalHalf h)
  | _ => .error .truncated

/-- The `n` low bytes of a number, the least significant first (R3). -/
def natBytes : Nat → Nat → List Byte
  | 0, _ => []
  | n + 1, w => BitVec.ofNat 8 w :: natBytes n (w / 256)

/-- The instruction that the decoder reads from an instruction whose bits are `w`, the bits above `nbits` being 0. -/
noncomputable def decodeTableWord (nbits w : Nat) : Option Instr :=
  match decode (natBytes 4 (w % 2 ^ nbits)) with
  | .ok (i, _) => some i
  | .error _ => none

/-! ### The encoder -/

/-- A word as its bytes in memory (R3). -/
def wordBytes (w : BitVec 32) : List Byte :=
  [w.extractLsb' 0 8, w.extractLsb' 8 8, w.extractLsb' 16 8, w.extractLsb' 24 8]

def halfBytes (h : BitVec 16) : List Byte := [h.extractLsb' 0 8, h.extractLsb' 8 8]

/-- What encodes an instruction: a word, a halfword, or nothing for a step of the machine that no program encodes. -/
inductive Enc where
  | word (w : BitVec 32)
  | half (h : BitVec 16)
  | event
deriving DecidableEq, Repr

/-- The encoding of an instruction, from the tables R46 to R61. -/
def encode : Instr → Enc
  | .add d a b => .word (packR 0#5 0#2 0#3 b a d 0#6)
  | .sub d a b => .word (packR 1#5 0#2 0#3 b a d 0#6)
  | .and d a b => .word (packR 2#5 0#2 0#3 b a d 0#6)
  | .or d a b => .word (packR 3#5 0#2 0#3 b a d 0#6)
  | .xor d a b => .word (packR 4#5 0#2 0#3 b a d 0#6)
  | .sll d a b => .word (packR 5#5 0#2 0#3 b a d 0#6)
  | .srl d a b => .word (packR 6#5 0#2 0#3 b a d 0#6)
  | .sra d a b => .word (packR 7#5 0#2 0#3 b a d 0#6)
  | .rol d a b => .word (packR 8#5 0#2 0#3 b a d 0#6)
  | .ror d a b => .word (packR 9#5 0#2 0#3 b a d 0#6)
  | .slt d a b => .word (packR 10#5 0#2 0#3 b a d 0#6)
  | .sltu d a b => .word (packR 11#5 0#2 0#3 b a d 0#6)
  | .min d a b => .word (packR 12#5 0#2 0#3 b a d 0#6)
  | .max d a b => .word (packR 13#5 0#2 0#3 b a d 0#6)
  | .minu d a b => .word (packR 14#5 0#2 0#3 b a d 0#6)
  | .maxu d a b => .word (packR 15#5 0#2 0#3 b a d 0#6)
  | .addw d a b => .word (packR 0#5 0#2 0#3 b a d 2#6)
  | .subw d a b => .word (packR 1#5 0#2 0#3 b a d 2#6)
  | .sllw d a b => .word (packR 5#5 0#2 0#3 b a d 2#6)
  | .srlw d a b => .word (packR 6#5 0#2 0#3 b a d 2#6)
  | .sraw d a b => .word (packR 7#5 0#2 0#3 b a d 2#6)
  | .mul d a b => .word (packR 0#5 0#2 0#3 b a d 4#6)
  | .mulh d a b => .word (packR 1#5 0#2 0#3 b a d 4#6)
  | .mulhu d a b => .word (packR 2#5 0#2 0#3 b a d 4#6)
  | .div d a b => .word (packR 4#5 0#2 0#3 b a d 4#6)
  | .divu d a b => .word (packR 5#5 0#2 0#3 b a d 4#6)
  | .rem d a b => .word (packR 6#5 0#2 0#3 b a d 4#6)
  | .remu d a b => .word (packR 7#5 0#2 0#3 b a d 4#6)
  | .mulw d a b => .word (packR 8#5 0#2 0#3 b a d 4#6)
  | .divw d a b => .word (packR 12#5 0#2 0#3 b a d 4#6)
  | .divuw d a b => .word (packR 13#5 0#2 0#3 b a d 4#6)
  | .remw d a b => .word (packR 14#5 0#2 0#3 b a d 4#6)
  | .remuw d a b => .word (packR 15#5 0#2 0#3 b a d 4#6)
  | .addi d a i => .word (packI i 0#3 a d 1#6)
  | .andi d a i => .word (packI i 1#3 a d 1#6)
  | .ori d a i => .word (packI i 2#3 a d 1#6)
  | .xori d a i => .word (packI i 3#3 a d 1#6)
  | .slti d a i => .word (packI i 4#3 a d 1#6)
  | .sltiu d a i => .word (packI i 5#3 a d 1#6)
  | .slli d a h => .word (packI (0#6 ++ h) 6#3 a d 1#6)
  | .srli d a h => .word (packI (1#6 ++ h) 6#3 a d 1#6)
  | .srai d a h => .word (packI (2#6 ++ h) 6#3 a d 1#6)
  | .rori d a h => .word (packI (3#6 ++ h) 6#3 a d 1#6)
  | .addiw d a i => .word (packI i 0#3 a d 3#6)
  | .slliw d a h => .word (packI (0#7 ++ h) 6#3 a d 3#6)
  | .srliw d a h => .word (packI (2#7 ++ h) 6#3 a d 3#6)
  | .sraiw d a h => .word (packI (4#7 ++ h) 6#3 a d 3#6)
  | .tyield => .word (packI 1#12 0#3 0#5 0#5 1#6)
  | .phint a i t => .word (packI (i ++ t) 2#3 a 0#5 1#6)
  | .lui d i => .word (packU i d 5#6)
  | .auipc d i => .word (packU i d 6#6)
  | .clz d a => .word (packQ 0#5 0#5 0#5 a d 7#6)
  | .ctz d a => .word (packQ 1#5 0#5 0#5 a d 7#6)
  | .popc d a => .word (packQ 2#5 0#5 0#5 a d 7#6)
  | .bswap d a => .word (packQ 3#5 0#5 0#5 a d 7#6)
  | .sextI8 d a => .word (packQ 4#5 0#5 0#5 a d 7#6)
  | .sextI16 d a => .word (packQ 5#5 0#5 0#5 a d 7#6)
  | .sextI32 d a => .word (packQ 6#5 0#5 0#5 a d 7#6)
  | .zextN8 d a => .word (packQ 7#5 0#5 0#5 a d 7#6)
  | .zextN16 d a => .word (packQ 8#5 0#5 0#5 a d 7#6)
  | .zextN32 d a => .word (packQ 9#5 0#5 0#5 a d 7#6)
  | .sel d a b c => .word (packQ 10#5 c b a d 7#6)
  | .shadd d a b h => .word (packQ 11#5 (0#3 ++ h) b a d 7#6)
  | .mkva d a b => .word (packQ 12#5 0#5 b a d 7#6)
  | .mkvai d a i => .word (packQ 13#5 (0#1 ++ i) 0#5 a d 7#6)
  | .beq a b i => .word (packS i 0#3 b a 8#6)
  | .bne a b i => .word (packS i 1#3 b a 8#6)
  | .blt a b i => .word (packS i 4#3 b a 8#6)
  | .bge a b i => .word (packS i 5#3 b a 8#6)
  | .bltu a b i => .word (packS i 6#3 b a 8#6)
  | .bgeu a b i => .word (packS i 7#3 b a 8#6)
  | .jal d i => .word (packU i d 9#6)
  | .jalr d a i => .word (packI i 0#3 a d 10#6)
  | .fetchb => .word (packI 0#12 1#3 0#5 0#5 10#6)
  | .loop l a i => .word (packI i (0#2 ++ l) a 0#5 11#6)
  | .loopi l n i => .word (packI i (1#2 ++ l) (n.extractLsb' 0 5) (n.extractLsb' 5 5) 11#6)
  | .fadd s r d a b => .word (packR 0#5 s r b a d 12#6)
  | .fsub s r d a b => .word (packR 1#5 s r b a d 12#6)
  | .fmul s r d a b => .word (packR 2#5 s r b a d 12#6)
  | .fdiv s r d a b => .word (packR 3#5 s r b a d 12#6)
  | .fsqrt s r d a => .word (packR 4#5 s r 0#5 a d 12#6)
  | .fmin s d a b => .word (packR 5#5 s 0#3 b a d 12#6)
  | .fmax s d a b => .word (packR 6#5 s 0#3 b a d 12#6)
  | .fcpsgn s d a b => .word (packR 7#5 s 0#3 b a d 12#6)
  | .fxsgn s d a b => .word (packR 8#5 s 0#3 b a d 12#6)
  | .fneg s d a => .word (packR 9#5 s 0#3 0#5 a d 12#6)
  | .fabs s d a => .word (packR 10#5 s 0#3 0#5 a d 12#6)
  | .fmov d a => .word (packR 11#5 0#2 0#3 0#5 a d 12#6)
  | .fcvtFf s r t d a => .word (packR 0#5 s r (0#3 ++ t) a d 14#6)
  | .fcvtFInt s r n g d a => .word (packR 1#5 s r (0#3 ++ n ++ g) a d 14#6)
  | .fcvtIntF s r n g d a => .word (packR 2#5 s r (0#3 ++ n ++ g) a d 14#6)
  | .fmvx s d a => .word (packR 3#5 s 0#3 0#5 a d 14#6)
  | .fmvf s d a => .word (packR 4#5 s 0#3 0#5 a d 14#6)
  | .feq s d a b => .word (packR 0#5 s 0#3 b a d 15#6)
  | .flt s d a b => .word (packR 1#5 s 0#3 b a d 15#6)
  | .fle s d a b => .word (packR 2#5 s 0#3 b a d 15#6)
  | .fclass s d a => .word (packR 3#5 s 0#3 0#5 a d 15#6)
  | .fma s r d a b c => .word (packQ (0#2 ++ s ++ r) c b a d 13#6)
  | .fms s r d a b c => .word (packQ (1#2 ++ s ++ r) c b a d 13#6)
  | .fnma s r d a b c => .word (packQ (2#2 ++ s ++ r) c b a d 13#6)
  | .fnms s r d a b c => .word (packQ (3#2 ++ s ++ r) c b a d 13#6)
  | .ldI8 d a i => .word (packI i 0#3 a d 16#6)
  | .ldI16 d a i => .word (packI i 1#3 a d 16#6)
  | .ldI32 d a i => .word (packI i 2#3 a d 16#6)
  | .ldI64 d a i => .word (packI i 3#3 a d 16#6)
  | .ldN8 d a i => .word (packI i 4#3 a d 16#6)
  | .ldN16 d a i => .word (packI i 5#3 a d 16#6)
  | .ldN32 d a i => .word (packI i 6#3 a d 16#6)
  | .pref k a i => .word (packI i 7#3 a k 16#6)
  | .stI8 a b i => .word (packS i 0#3 b a 17#6)
  | .stI16 a b i => .word (packS i 1#3 b a 17#6)
  | .stI32 a b i => .word (packS i 2#3 b a 17#6)
  | .stI64 a b i => .word (packS i 3#3 b a 17#6)
  | .fldF16 d a i => .word (packI i 1#3 a d 18#6)
  | .fldF32 d a i => .word (packI i 2#3 a d 18#6)
  | .fldF64 d a i => .word (packI i 3#3 a d 18#6)
  | .fstF16 a b i => .word (packS i 1#3 b a 19#6)
  | .fstF32 a b i => .word (packS i 2#3 b a 19#6)
  | .fstF64 a b i => .word (packS i 3#3 b a 19#6)
  | .amoadd s d a b => .word (packR 0#5 (1#1 ++ s) 0#3 b a d 20#6)
  | .amoswap s d a b => .word (packR 1#5 (1#1 ++ s) 0#3 b a d 20#6)
  | .amoand s d a b => .word (packR 2#5 (1#1 ++ s) 0#3 b a d 20#6)
  | .amoor s d a b => .word (packR 3#5 (1#1 ++ s) 0#3 b a d 20#6)
  | .amoxor s d a b => .word (packR 4#5 (1#1 ++ s) 0#3 b a d 20#6)
  | .amomin s d a b => .word (packR 5#5 (1#1 ++ s) 0#3 b a d 20#6)
  | .amomax s d a b => .word (packR 6#5 (1#1 ++ s) 0#3 b a d 20#6)
  | .amominu s d a b => .word (packR 7#5 (1#1 ++ s) 0#3 b a d 20#6)
  | .amomaxu s d a b => .word (packR 8#5 (1#1 ++ s) 0#3 b a d 20#6)
  | .cas s d a b => .word (packR 9#5 (1#1 ++ s) 0#3 b a d 20#6)
  | .radd s a b => .word (packR 10#5 (1#1 ++ s) 0#3 b a 0#5 20#6)
  | .raddF s a b => .word (packR 11#5 (1#1 ++ s) 0#3 b a 0#5 20#6)
  | .ldAcq s p d a => .word (packR 0#5 (1#1 ++ s) (p ++ 0#1) 0#5 a d 21#6)
  | .stRel s p a b => .word (packR 1#5 (1#1 ++ s) (p ++ 0#1) b a 0#5 21#6)
  | .fence p => .word (packR 0#5 p 0#3 0#5 0#5 0#5 22#6)
  | .bar n => .word (packR 1#5 0#2 0#3 0#5 (0#1 ++ n) 0#5 22#6)
  | .barwait n => .word (packR 2#5 0#2 0#3 0#5 (0#1 ++ n) 0#5 22#6)
  | .waitne s a b => .word (packR 3#5 (1#1 ++ s) 0#3 b a 0#5 22#6)
  | .sigrd d => .word (packR 4#5 0#2 0#3 0#5 0#5 d 22#6)
  | .sigclr a => .word (packR 5#5 0#2 0#3 0#5 a 0#5 22#6)
  | .orswait => .word (packR 6#5 0#2 0#3 0#5 0#5 0#5 22#6)
  | .rst s a b => .word (packR 0#5 (1#1 ++ s) 0#3 b a 0#5 23#6)
  | .rstRel s a b => .word (packR 1#5 (1#1 ++ s) 0#3 b a 0#5 23#6)
  | .ramo s o d a b => .word (packR 2#5 (1#1 ++ s) o b a d 23#6)
  | .rcas s d a b => .word (packR 3#5 (1#1 ++ s) 0#3 b a d 23#6)
  | .rfence => .word (packR 4#5 0#2 0#3 0#5 0#5 0#5 23#6)
  | .vadd w k d a b => .word (packR 0#5 w k b a d 24#6)
  | .vsub w k d a b => .word (packR 1#5 w k b a d 24#6)
  | .vmul w k d a b => .word (packR 2#5 w k b a d 24#6)
  | .vmulh w k d a b => .word (packR 3#5 w k b a d 24#6)
  | .vmin w k d a b => .word (packR 4#5 w k b a d 24#6)
  | .vmax w k d a b => .word (packR 5#5 w k b a d 24#6)
  | .vminu w k d a b => .word (packR 6#5 w k b a d 24#6)
  | .vmaxu w k d a b => .word (packR 7#5 w k b a d 24#6)
  | .vand w k d a b => .word (packR 8#5 w k b a d 24#6)
  | .vor w k d a b => .word (packR 9#5 w k b a d 24#6)
  | .vxor w k d a b => .word (packR 10#5 w k b a d 24#6)
  | .vsll w k d a b => .word (packR 11#5 w k b a d 24#6)
  | .vsrl w k d a b => .word (packR 12#5 w k b a d 24#6)
  | .vsra w k d a b => .word (packR 13#5 w k b a d 24#6)
  | .vfadd w k d a b => .word (packR 0#5 w k b a d 25#6)
  | .vfsub w k d a b => .word (packR 1#5 w k b a d 25#6)
  | .vfmul w k d a b => .word (packR 2#5 w k b a d 25#6)
  | .vfdiv w k d a b => .word (packR 3#5 w k b a d 25#6)
  | .vfmin w k d a b => .word (packR 4#5 w k b a d 25#6)
  | .vfmax w k d a b => .word (packR 5#5 w k b a d 25#6)
  | .vfsqrt w k d a => .word (packR 6#5 w k 0#5 a d 25#6)
  | .vfrcp w k d a => .word (packR 7#5 w k 0#5 a d 25#6)
  | .vfrsq w k d a => .word (packR 8#5 w k 0#5 a d 25#6)
  | .vfexp2 w k d a => .word (packR 9#5 w k 0#5 a d 25#6)
  | .vfma w k d a b => .word (packR 0#5 w k b a d 26#6)
  | .vfms w k d a b => .word (packR 1#5 w k b a d 26#6)
  | .vfnma w k d a b => .word (packR 2#5 w k b a d 26#6)
  | .vfnms w k d a b => .word (packR 3#5 w k b a d 26#6)
  | .vcmpeq w k d a b => .word (packR 0#5 w k b a (0#2 ++ d) 27#6)
  | .vcmpne w k d a b => .word (packR 1#5 w k b a (0#2 ++ d) 27#6)
  | .vcmplt w k d a b => .word (packR 2#5 w k b a (0#2 ++ d) 27#6)
  | .vcmple w k d a b => .word (packR 3#5 w k b a (0#2 ++ d) 27#6)
  | .vcmpltu w k d a b => .word (packR 4#5 w k b a (0#2 ++ d) 27#6)
  | .vcmpleu w k d a b => .word (packR 5#5 w k b a (0#2 ++ d) 27#6)
  | .vfcmpeq w k d a b => .word (packR 8#5 w k b a (0#2 ++ d) 27#6)
  | .vfcmplt w k d a b => .word (packR 9#5 w k b a (0#2 ++ d) 27#6)
  | .vfcmple w k d a b => .word (packR 10#5 w k b a (0#2 ++ d) 27#6)
  | .vsel w k d a b => .word (packR 16#5 w k b a d 27#6)
  | .vbcast w k d a => .word (packR 0#5 w k 0#5 a d 28#6)
  | .vextr w d a b => .word (packR 1#5 w 0#3 b a d 28#6)
  | .vinsr w d a b => .word (packR 2#5 w 0#3 b a d 28#6)
  | .vperm w k d a b => .word (packR 3#5 w k b a d 28#6)
  | .vredAdd w k d a => .word (packR 4#5 w k 0#5 a d 28#6)
  | .vredMin w k d a => .word (packR 5#5 w k 0#5 a d 28#6)
  | .vredMax w k d a => .word (packR 6#5 w k 0#5 a d 28#6)
  | .vredMinu w k d a => .word (packR 7#5 w k 0#5 a d 28#6)
  | .vredMaxu w k d a => .word (packR 8#5 w k 0#5 a d 28#6)
  | .vfredAdd w k d a => .word (packR 12#5 w k 0#5 a d 28#6)
  | .vfredMin w k d a => .word (packR 13#5 w k 0#5 a d 28#6)
  | .vfredMax w k d a => .word (packR 14#5 w k 0#5 a d 28#6)
  | .vcvt t u s k d a => .word (packR (0#1 ++ t) (s ++ 0#1) k (0#1 ++ u) a d 29#6)
  | .vcvtF32I32 k d a => .word (packR 16#5 0#2 k 0#5 a d 29#6)
  | .vcvtI32F32 k d a => .word (packR 17#5 0#2 k 0#5 a d 29#6)
  | .vcvtF64I64 k d a => .word (packR 18#5 0#2 k 0#5 a d 29#6)
  | .vcvtI64F64 k d a => .word (packR 19#5 0#2 k 0#5 a d 29#6)
  | .vld w k d a => .word (packR 0#5 w k 0#5 a d 30#6)
  | .vst w k d a => .word (packR 1#5 w k 0#5 a d 30#6)
  | .vlds w k d a b => .word (packR 2#5 w k b a d 30#6)
  | .vsts w k d a b => .word (packR 3#5 w k b a d 30#6)
  | .vgather w k d a b => .word (packR 0#5 w k b a d 31#6)
  | .vscatter w k d a b => .word (packR 1#5 w k b a d 31#6)
  | .hVaddI32 d b => .half (packHV b d 0#4)
  | .hVsubI32 d b => .half (packHV b d 1#4)
  | .hVaddI64 d b => .half (packHV b d 2#4)
  | .hVandN64 d b => .half (packHV b d 3#4)
  | .hVorN64 d b => .half (packHV b d 4#4)
  | .hVxorN64 d b => .half (packHV b d 5#4)
  | .hVminI32 d b => .half (packHV b d 6#4)
  | .hVmaxI32 d b => .half (packHV b d 7#4)
  | .hVfaddF32 d b => .half (packHV b d 8#4)
  | .hVfsubF32 d b => .half (packHV b d 9#4)
  | .hVfmulF32 d b => .half (packHV b d 10#4)
  | .hVfminF32 d b => .half (packHV b d 11#4)
  | .hVfmaxF32 d b => .half (packHV b d 12#4)
  | .hVfaddBf16 d b => .half (packHV b d 13#4)
  | .hVfmulBf16 d b => .half (packHV b d 14#4)
  | .hVmov d b => .half (packHV b d 15#4)
  | .hAddi d i => .half (packHS i d 0#3)
  | .hMove d a => .half (packHS (0#1 ++ a) d 1#3)
  | .hLds d i => .half (packHS i d 2#3)
  | .hSts b i => .half (packHS i b 3#3)
  | .hBz a i => .half (packHS i a 4#3)
  | .hBnz a i => .half (packHS i a 5#3)
  | .hJmp i => .half (packHJ i 6#3)
  | .hAdd d a => .half (packHS (0#1 ++ a) d 7#3)
  | .tld d a b => .word (packT 0#3 0#3 0#4 b a (0#2 ++ d) 32#6)
  | .acld d a b => .word (packT 0#3 1#3 0#4 b a (0#3 ++ d) 32#6)
  | .aczero d => .word (packT 0#3 2#3 0#4 0#5 0#5 (0#3 ++ d) 32#6)
  | .acst s f d a b => .word (packT (0#2 ++ s) 0#3 f b a (0#3 ++ d) 33#6)
  | .twld x p f a b => .word (packT (0#1 ++ x ++ p) 0#3 f b a 0#5 34#6)
  | .twswap => .word (packT 0#3 1#3 0#4 0#5 0#5 0#5 34#6)
  | .tmma s f d a => .word (packT (0#2 ++ s) 0#3 f 0#5 (0#2 ++ a) (0#3 ++ d) 35#6)
  | .tmmaSp s f d a => .word (packT (0#2 ++ s) 0#3 f 0#5 (0#2 ++ a) (0#3 ++ d) 36#6)
  | .tmmaMx s f d a b => .word (packT (0#2 ++ s) 1#3 f b (0#2 ++ a) (0#3 ++ d) 36#6)
  | .tmovTv d r a => .word (packT 0#3 0#3 r 0#5 a (0#2 ++ d) 37#6)
  | .tmovVt d a r => .word (packT 0#3 1#3 r 0#5 (0#2 ++ a) d 37#6)
  | .acscale f d a => .word (packT 0#3 2#3 (0#3 ++ f) 0#5 a (0#3 ++ d) 37#6)
  | .accvt f d => .word (packT 0#3 3#3 (0#3 ++ f) 0#5 0#5 (0#3 ++ d) 37#6)
  | .tsync => .word (packT 0#3 7#3 0#4 0#5 0#5 0#5 37#6)
  | .cpy g d a b c => .word (packQ (0#2 ++ g) c b a d 40#6)
  | .cpy2d g d a b c => .word (packQ (1#2 ++ g) c b a d 40#6)
  | .cpyBc g d a b c => .word (packQ (2#2 ++ g) c b a d 40#6)
  | .cwait g n => .word (packI (0#2 ++ g ++ n) 0#3 0#5 0#5 41#6)
  | .cpoll d g => .word (packI (0#2 ++ g ++ 0#7) 1#3 0#5 d 41#6)
  | .ccancel g => .word (packI (0#2 ++ g ++ 0#7) 2#3 0#5 0#5 41#6)
  | .msend p d a b c => .word (packQ (0#3 ++ p ++ 0#1) c b a d 42#6)
  | .mpost d a b c => .word (packQ 1#5 c b a d 42#6)
  | .ecall => .word (packI 0#12 0#3 0#5 0#5 44#6)
  | .ebreak => .word (packI 1#12 0#3 0#5 0#5 44#6)
  | .eret => .word (packI 2#12 0#3 0#5 0#5 44#6)
  | .wfi => .word (packI 3#12 0#3 0#5 0#5 44#6)
  | .csrr d i => .word (packI i 0#3 0#5 d 45#6)
  | .csrw d a i => .word (packI i 1#3 a d 45#6)
  | .csrs d a i => .word (packI i 2#3 a d 45#6)
  | .csrc d a i => .word (packI i 3#3 a d 45#6)
  | .tlbi a b => .word (packR 0#5 0#2 0#3 b a 0#5 46#6)
  | .tlbia a => .word (packR 1#5 0#2 0#3 0#5 a 0#5 46#6)
  | .icinv w a => .word (packR 2#5 (0#1 ++ w) 0#3 0#5 a 0#5 46#6)
  | .dcwb w a => .word (packR 3#5 (0#1 ++ w) 0#3 0#5 a 0#5 46#6)
  | .dcinv w a => .word (packR 4#5 (0#1 ++ w) 0#3 0#5 a 0#5 46#6)
  | .dcflush w a => .word (packR 5#5 (0#1 ++ w) 0#3 0#5 a 0#5 46#6)
  | .ctxsave a => .word (packR 0#5 0#2 0#3 0#5 a 0#5 47#6)
  | .ctxload a b => .word (packR 1#5 0#2 0#3 b a 0#5 47#6)
  | .kill d a => .word (packR 2#5 0#2 0#3 0#5 a d 47#6)
  | .reclaim d a b => .word (packR 3#5 0#2 0#3 b a d 47#6)
  | .fqpop d a => .word (packR 4#5 0#2 0#3 0#5 a d 47#6)
  | .replay a => .word (packR 5#5 0#2 0#3 0#5 a 0#5 47#6)
  | .rgn => .word (packR 6#5 0#2 0#3 0#5 0#5 0#5 47#6)
  | .pair d => .word (packR 7#5 0#2 0#3 0#5 0#5 d 47#6)
  | .unpair d => .word (packR 8#5 0#2 0#3 0#5 0#5 d 47#6)
  | .cstep => .word (packR 9#5 0#2 0#3 0#5 0#5 0#5 47#6)
  | .snaparm d a => .word (packR 10#5 0#2 0#3 0#5 a d 47#6)
  | .interruptEntry _ => .event
  | .sliceTimerExpiry _ => .event
  | .waitneRecheck _ => .event
  | .fetchCycle _ => .event
  | .branchMispredict _ _ => .event
  | .teRetire _ _ => .event
  | .arrayArbiterDecision _ => .event
  | .planeLoadComplete _ => .event
  | .arrayOpComplete _ => .event
  | .twldPlaneComplete _ => .event
  | .tileRowArrival _ => .event
  | .engweightWrite _ _ => .event
  | .bardescWrite _ _ _ => .event
  | .sliceWrite _ _ => .event
  | .ctxWrite _ _ => .event
  | .ropeslotWrite _ _ _ => .event
  | .snapctlAbort => .event
  | .remoteRequestArrival _ => .event
  | .retryReissue _ => .event
  | .faultDeferralExpiry _ => .event
  | .remoteStoreAtHome _ => .event
  | .remoteStoreAck _ => .event
  | .remoteStoreDenial _ => .event
  | .raddAtHome _ => .event
  | .combineWindowExpiry _ => .event
  | .mergedFillReturn _ _ => .event
  | .lineFillResponse _ _ => .event
  | .orphanTimeout _ => .event
  | .die9Timeout _ => .event
  | .copyPieceArrivalUpdate _ _ => .event
  | .copyCompletion _ => .event
  | .copyFaultStop _ => .event
  | .messageArrival _ _ _ => .event
  | .messagePlacementTimeout _ => .event
  | .msendCompletion _ _ _ _ => .event
  | .ropeSlotTransmit => .event
  | .ropeVeto _ => .event
  | .ropeOrderedApply => .event
  | .ropeBeatReceive => .event
  | .slotTableTakeForce => .event
  | .barrierSweepToken _ _ _ => .event
  | .barrierRelease _ _ _ => .event
  | .routerPowerGate _ _ => .event
  | .routerWake _ _ => .event
  | .layerWake _ => .event
  | .bdHeldRequest _ => .event
  | .layerFence _ => .event
  | .uncorrectableError _ _ _ _ => .event
  | .correctedError _ _ _ => .event
  | .fingerprintExchange _ => .event
  | .lifetimeHistogramWrite => .event
  | .powerSample _ _ => .event
  | .temperatureSample _ _ => .event
  | .pointChangeComplete _ => .event
  | .cutCloseRound => .event
  | .podClose => .event
  | .controllerWrite _ _ => .event
  | .drainCompletion _ _ => .event
  | .drainSend => .event
  | .hostReqtailWrite _ => .event
  | .startCold => .event
  | .startWarm _ => .event
  | .hostInboundWrite _ _ => .event
  | .hostInboundRead _ _ => .event
  | .hostBar0Access _ _ _ _ => .event
  | .rpcCreateContext _ => .event
  | .rpcLoadCodeObject _ => .event
  | .rpcCreateThread _ _ _ => .event
  | .rpcEndContext => .event
  | .rpcMapWindow => .event
  | .rpcArmSnapshot => .event
  | .rpcManagement => .event
  | .readTableEntry _ _ => .event
  | .writeTableEntry _ _ _ => .event
  | .readLifetimeCounter _ _ _ => .event
  | .readDropCounts _ _ => .event
  | .basecampStart _ => .event
  | .sleepLayer _ => .event
  | .wakeLayer _ => .event
  | .writeBdSlot _ _ => .event
  | .registerLayerSet _ _ => .event
  | .illegalOrReservedEncoding _ => .event
  | .packageReset => .event
  | .hostDevstateRead => .event
  | .outboundReadTimeout _ => .event
  | .hostInboundAtomicop => .event
  | .layerRestart _ => .event

/-- The bytes of an encoded instruction in memory. -/
def Enc.bytes : Enc → List Byte
  | .word w => wordBytes w
  | .half h => halfBytes h
  | .event => []

/-- The length in bytes that an instruction advances pc by (R34); 0 for an event. -/
def Enc.len : Enc → Nat
  | .word _ => 4
  | .half _ => 2
  | .event => 0

/-- "Instruction bits, zero-extended" (R294, causes 0x05 to 0x07). -/
def Enc.bits : Enc → Word
  | .word w => w.setWidth 64
  | .half h => h.setWidth 64
  | .event => 0#64

end Sys2Proof
end

