-- ==== Sys2Proof/Machine/Table.lean ====
section
/-!
DEFINITION. Tables keyed by a number, and memory as a canonical list of cells.
A table lists the keys that have been written, in rising order; a key that is not listed holds the default that the
reader names.  Memory lists no zero byte: a byte that is not listed reads 0 (R390 step 5: a cold start writes zero).
-/

namespace Sys2Proof.Machine

/-- A map from numbers to values, in rising order of its keys. -/
abbrev Table (α : Type) := List (Nat × α)

/-- The value at a key, or the default `d`. -/
def Table.at {α : Type} (d : α) : Table α → Nat → α
  | [], _ => d
  | (k, v) :: r, j => if j = k then v else Table.at d r j

/-- The value at a key, if the key is listed. -/
def Table.find {α : Type} : Table α → Nat → Option α
  | [], _ => none
  | (k, v) :: r, j => if j = k then some v else Table.find r j

/-- Writes the value at a key. -/
def Table.put {α : Type} : Table α → Nat → α → Table α
  | [], j, w => [(j, w)]
  | (k, v) :: r, j, w =>
    if j < k then (j, w) :: (k, v) :: r
    else if j = k then (j, w) :: r
    else (k, v) :: Table.put r j w

/-- Drops a key. -/
def Table.del {α : Type} (t : Table α) (j : Nat) : Table α := t.filter (fun e => e.1 != j)

/-- Applies `f` to every value listed. -/
def Table.mapVals {α β : Type} (f : α → β) (t : Table α) : Table β := t.map (fun e => (e.1, f e.2))

/-- The keys are in rising order. -/
def Table.sorted {α : Type} : Table α → Bool
  | [] => true
  | [_] => true
  | a :: b :: r => decide (a.1 < b.1) && Table.sorted (b :: r)

/-- Bytes by address; an address that is not listed reads 0. -/
abbrev Memory := List Host.Cell

/-- The byte at an address. -/
def Memory.read (m : Memory) (a : Nat) : Byte := Table.at 0#8 m a

/-- Writes a byte, keeping the canonical form: writing 0 removes the entry. -/
def Memory.write (m : Memory) (a : Nat) (b : Byte) : Memory :=
  if b = 0#8 then Table.del m a else Table.put m a b

/-- The canonical form: addresses strictly rising, no entry equal to what an unlisted address reads as. -/
def Memory.wf (m : Memory) : Bool := Table.sorted m && m.all (fun e => e.2 != 0#8)

/-- The bytes at `a`, `a + 1`, … -/
def Memory.readBytes (m : Memory) (a : Nat) : Nat → List Byte
  | 0 => []
  | n + 1 => Memory.read m a :: Memory.readBytes m (a + 1) n

/-- Writes bytes from `a` up. -/
def Memory.writeBytes (m : Memory) (a : Nat) : List Byte → Memory
  | [] => m
  | b :: r => Memory.writeBytes (Memory.write m a b) (a + 1) r

/-- The bytes of a value, the least significant first (R3). -/
def bytesOf : (n : Nat) → Nat → List Byte
  | 0, _ => []
  | n + 1, v => BitVec.ofNat 8 v :: bytesOf n (v / 256)

/-- The value of bytes, the first least significant (R3). -/
def valOf : List Byte → Nat
  | [] => 0
  | b :: r => b.toNat + 256 * valOf r

end Sys2Proof.Machine
end

