-- ==== Sys2Proof/Machine/State.lean ====
section
/-!
DEFINITION. The state of the machine as plain data: threads, cores, clusters, layers and the package (spec/01 to spec/19),
and the machine after package reset.
-/

namespace Sys2Proof.Machine

/-! ### Why a run stops -/

/-- Why the machine stops with a fault. -/
inductive Fault where
  /-- An event names memory outside the 128 GiB of a layer (R254): raised by events whose operand is an address.
  Safe: the hardware has no such place. -/
  | noSuchPlace
deriving DecidableEq, Repr

/-- Why there is no meaning for an instruction or an event. -/
inductive Refusal where
  /-- An arm of `exec` that has no meaning yet.  Safe. -/
  | notModelled (mnemonic : String)
deriving DecidableEq, Repr

/-! ### Small pieces -/

/-- The pair (CTXID, INC) that every request carries (R15, R328). -/
structure Tag where
  ctx : BitVec 12
  inc : BitVec 8
deriving DecidableEq, Repr

/-- The pair (0x000, 0) of items that act for no context (R309). -/
def Tag.zero : Tag := ⟨0#12, 0#8⟩

/-- R19, R171: a loaded weight plane: latched format, the block of a TWLD, sparsity metadata and block scales. -/
structure Plane where
  fmt : BitVec 4
  sp : Bool
  mx : Bool
  w : BitVec 32768
  keep : BitVec 8192
  scale : BitVec 2048
deriving DecidableEq, Repr

/-- The kind of an access (R125, and EINFO.KIND of R298). -/
inductive AKind where
  | fetch | load | store | amo | acq | rel
deriving DecidableEq, Repr

/-- Why a hardware thread is parked (R277, R266, R268). -/
inductive Park where
  | bar (n : Nat) (phase : Nat)
  | barwait (n : Nat) (phase : Nat)
  | cwait (g n : Nat)
  | waitne | orswait | wfi
  /-- A RECLAIM of a pair (R221). -/
  | reclaim (g : Tag)
  /-- A WAITNE of `n` bytes that hold `old`: of memory (0), the own replica of the Rope window (1) or the BD (2). -/
  | watch (space a n old : Nat)
  /-- A not-present fault in fault group `g` of a layer; layer 9 is a home in another package (R264). -/
  | group (layer g : Nat)
  /-- A not-present fault that found the group table full (R268). -/
  | deferral (layer : Nat)
deriving DecidableEq, Repr

/-- The first deferred denial of a thread (R128). -/
structure Denial where
  cause : Nat
  kind : AKind
  va : Word
  unit : Nat
  more : Nat
deriving DecidableEq, Repr

/-- A copy record (R200) with the counter its copy holds. -/
structure CopyRec where
  tag : Tag
  cg : Nat
  fva : Word
  data : Line
deriving DecidableEq, Repr

/-- A pending 0x16 (R301). -/
structure Irq16 where
  count : Nat
  host : Bool
  queue : Nat
  /-- Arrivals among them that are host RPCs, which nothing loses. -/
  rpcs : Nat
deriving DecidableEq, Repr

/-- What a thread's oldest instruction has been answered by a remote home. -/
structure Answer where
  /-- The number of the request. -/
  id : Nat
  /-- The line or word address asked for, and the kind of access. -/
  va : Nat
  kind : AKind
  /-- 0, or the cause that the home answered with. -/
  cause : Nat
  /-- EINFO of that cause. -/
  einfo : Word
  /-- The poisoned sectors of a line; any for another answer (R344). -/
  poison : BitVec 4
  data : BitVec 1024
  /-- The memory type of the page (R253). -/
  mt : Nat
  /-- The request is held at its home for this layer and fault group (R266): 9 is another package. -/
  held : Option (Nat × Nat)
deriving DecidableEq, Repr

/-- Where an access goes once the checks at its core have passed. -/
inductive Target where
  /-- Own-layer memory: the key of the first byte, and the memory type. -/
  | mem (key mt : Nat)
  /-- The BD: the offset in its region, and the memory type. -/
  | bd (pa mt : Nat)
  | rope (off : Nat)
  /-- Another layer or another package: translated there. -/
  | away
deriving DecidableEq, Repr

/-- What a trap entry has replaced, until the fingerprints have been exchanged for it (R349): the trap CSRs, and the interrupts that were
pending. -/
structure TrapEntry where
  status : Word
  epc : Word
  ecause : Word
  eva : Word
  einfo : Word
  irq16 : Option Irq16
  irq17 : Option Bool
deriving DecidableEq, Repr

/-- A checkpoint of a thread's rename map, taken at a branch (R280): the number of the next tile instruction, and the planes. -/
structure Checkpoint where
  seq : Nat
  plane0 : Nat
  plane1 : Nat
deriving DecidableEq, Repr

/-- KEEP and SCALE of a plane that is empty: CTXLOAD loads and keeps them apart from the plane (R215, R219). -/
structure Side where
  keep : BitVec 8192
  scale : BitVec 2048
deriving DecidableEq, Repr

def Side.zero : Side := ⟨0, 0⟩

/-- A tile instruction in a core's TE queue (R278). -/
structure TeEntry where
  /-- Its place in the decode order of its core, which both threads share. -/
  seq : Nat
  /-- 0 a multiply, 1 TWSWAP, 2 TYIELD, 3 another tile instruction. -/
  op : Nat
  /-- Occupancy in ec (R283); 0 for other entries. -/
  occ : Nat
  tag : Tag
  /-- The physical plane that a multiply reads and the accumulator that it writes; for a TWSWAP the planes of wp1 and wp0 before it. -/
  plane : Nat
  other : Nat
  /-- The physical registers that this instruction took, until the TE learns of its retirement (R279): tiles, accumulators, planes. -/
  tiles : Nat
  accs : Nat
  planes : Nat
  started : Bool
  done : Bool
deriving DecidableEq, Repr

/-- The instruction word or halfword at pc (R34). -/
inductive Fetched where
  | word (w : BitVec 32)
  | half (h : BitVec 16)
deriving DecidableEq, Repr

/-! ### Threads -/

/-- What one hardware thread holds (R19, R23, and the state that other rules name). -/
structure Thread where
  resident : Bool
  /-- Which of the package's threads it is: a number that it keeps over CTXSAVE and CTXLOAD (R301). -/
  who : Nat
  pc : Word
  x : Table Word
  f : Table Word
  v : Table Line
  /-- k1 to k7; k0 is all ones and not written. -/
  k : Table Word
  /-- Row r of tile n has key 16 n + r. -/
  t : Table Line
  /-- Row r of accumulator n has key 16 n + r. -/
  a : Table (BitVec 2048)
  wp0 : Option Plane
  wp1 : Option Plane
  spare0 : Side
  spare1 : Side
  lc0 : BitVec 32
  lc1 : BitVec 32
  lbeg0 : Word
  lend0 : Word
  lbeg1 : Word
  lend1 : Word
  cg : Table (BitVec 7)
  psig : Line
  ors : Nat
  prg : BitVec 7
  fcsr : Word
  tag : Tag
  instret : Word
  step : Word
  fullAcq : BitVec 16
  selInv : BitVec 16
  status : Word
  epc : Word
  ecause : Word
  eva : Word
  einfo : Word
  evec : Word
  kscratch : Table Word
  slice : BitVec 32
  /-- e of R305, and whether it counts. -/
  sliceE : Nat
  sliceRun : Bool
  /-- cc of the last CTXSAVE and the last CTXLOAD, and SWITCHCOST (R219). -/
  saveCost : Nat
  switchCost : BitVec 32
  clampCnt : BitVec 32
  /-- The region doubleword of R345, and the instructions retired since the region entry (R351). -/
  region : Word
  regionCount : Nat
  irq16 : Option Irq16
  /-- A pending 0x17, with CLAMPED. -/
  irq17 : Option Bool
  copyRecs : List CopyRec
  denial : Option Denial
  /-- This thread's CSTEP has reached S of the armed cut (R359). -/
  flipped : Bool
  parked : Option Park
  /-- Requests that the oldest instruction waits for, and the answers it has. -/
  reqs : List Nat
  answers : List Answer
  /-- The oldest instruction has sent a write it cannot withdraw (R300). -/
  sent : Bool
  /-- The oldest instruction was tried and waits: it has not completed, and runs again. -/
  waiting : Bool
  /-- The bits of the oldest instruction, once they have been fetched: one that waits is not fetched again (R276). -/
  bits : Option Fetched
  /-- Elements or lines of the oldest store that have been checked and not performed: the number of each, and where it goes (R21, R167). -/
  plan : List (Nat × Target)
  /-- Elements, rows or lines that the oldest load has read, while it waits for others (R164, R174); for a store of elements that has
waited in the middle, at 0, the number from which its requests begin. -/
  got : Table Nat
  /-- The oldest instruction is an MSEND that holds a slot of its core (R205). -/
  sending : Bool
  /-- The record that the oldest FQPOP has taken and is writing on another layer (R222). -/
  popped : Option Line
  /-- R280: checkpoints of branches that have not resolved, the oldest first. -/
  checkpoints : List Checkpoint
  /-- The hardware thread stopped on a trap loop (R295). -/
  looped : Bool
  /-- The next fetch is at a vector address (R295). -/
  atVector : Bool
  /-- This hardware thread runs the shadow of a Belay pair (R349). -/
  shadow : Bool
  /-- R275: cc since the thread was last fetched, and since it was last decoded. -/
  fetchAge : Nat
  decodeAge : Nat
  /-- Instructions in the fetch buffer (R275), and instructions decoded and not retired (R276); their bytes are not kept. -/
  buffered : Nat
  ahead : Nat
  /-- Of those, the ones that have not issued (R275). -/
  unissued : Nat
  /-- R350: the CRC-64 of the core and of its shadow, and whether an exchange is due. -/
  crc : Word
  shadowCrc : Word
  sinceExchange : Nat
  exchangeDue : Bool
  /-- The trap entry whose exchange is due (R349). -/
  entered : Option TrapEntry
  /-- TDUP at the PAIR (R348). -/
  tdup : Bool
  /-- Registers that consume poison when read: 0–7 tiles, 8–11 accumulators, 12–13 planes (R344). -/
  poisoned : List Nat
  /-- The thread's tile instructions in the TE (R278), and the physical planes of wp0 and wp1 (R285). -/
  te : List TeEntry
  /-- R328: the pair of each tile register, numbered as in `poisoned`, that an instruction wrote under another pair than the present CTX. -/
  pairs : Table Tag
  plane0 : Nat
  plane1 : Nat
  teSeq : Nat
deriving DecidableEq, Repr

/-- STATUS at package reset: SV = 1, PSV = 1, the rest 0 (R18). -/
def Thread.resetStatus : Word := 9#64

/-- A thread at package reset (R19, R23); the fields without a reset value in the spec are 0 or empty (log 3). -/
def Thread.reset : Thread where
  resident := false
  who := 0
  pc := 0
  x := []
  f := []
  v := []
  k := []
  t := []
  a := []
  wp0 := none
  wp1 := none
  spare0 := Side.zero
  spare1 := Side.zero
  lc0 := 0
  lc1 := 0
  lbeg0 := 0
  lend0 := 0
  lbeg1 := 0
  lend1 := 0
  cg := []
  psig := 0
  ors := 0
  prg := 0
  fcsr := 0
  tag := Tag.zero
  instret := 0
  step := 0
  fullAcq := 0
  selInv := 0
  status := Thread.resetStatus
  epc := 0
  ecause := 0
  eva := 0
  einfo := 0
  evec := 0
  kscratch := []
  slice := 0
  sliceE := 0
  sliceRun := true
  saveCost := 0
  switchCost := 0
  clampCnt := 0
  region := 0
  regionCount := 0
  irq16 := none
  irq17 := none
  copyRecs := []
  denial := none
  flipped := false
  parked := none
  reqs := []
  answers := []
  sent := false
  waiting := false
  bits := none
  plan := []
  got := []
  sending := false
  popped := none
  checkpoints := []
  looped := false
  atVector := false
  shadow := false
  fetchAge := 0
  decodeAge := 0
  buffered := 0
  ahead := 0
  unissued := 0
  crc := 0
  shadowCrc := 0
  sinceExchange := 0
  exchangeDue := false
  entered := none
  tdup := true
  poisoned := []
  te := []
  pairs := []
  plane0 := 0
  plane1 := 0
  teSeq := 0

/-! ### Caches and translations -/

/-- A dirty 16-byte sector (R250) with the core that owns it and its colour (R359). -/
structure Dirty where
  data : BitVec 128
  owner : Nat
  colour : Bool
deriving DecidableEq, Repr

/-- A code line in an L1I (R249). -/
structure CodeLine where
  core : Nat
  va : Nat
  tag : Tag
  sup : Bool
  /-- Its poisoned sectors (R344). -/
  poison : BitVec 4
  data : Line
deriving DecidableEq, Repr

/-- An RDC line (R249, R252, R262). -/
structure RdcLine where
  /-- layer * 16 + cluster. -/
  cl : Nat
  va : Nat
  tag : Tag
  sup : Bool
  /-- Its poisoned sectors (R344). -/
  poison : BitVec 4
  data : Line
  /-- The cores of the cluster whose L1D holds it too (R252). -/
  cores : BitVec 8
deriving DecidableEq, Repr

/-- A translation held by a core's TLBs or by an HS's MTLB (R249, R261). -/
structure TlbEntry where
  /-- Core number for a core's TLBs; 1024 + 16 * layer + HS for an MTLB. -/
  agent : Nat
  layer : Nat
  tag : Tag
  /-- Die field, and first byte of the page within it. -/
  die : Nat
  base : Nat
  /-- log2 of the page size. -/
  bits : Nat
  pte : Word
deriving DecidableEq, Repr

/-- A pointer entry in a walker cache (R261). -/
structure WalkEntry where
  agent : Nat
  layer : Nat
  tag : Tag
  root : Nat
  die : Nat
  base : Nat
  level : Nat
  next : Nat
deriving DecidableEq, Repr

/-- CUR and PEND of one CTXID (R329). -/
structure IncEntry where
  cur : BitVec 8
  pend : Bool
deriving DecidableEq, Repr

def IncEntry.reset : IncEntry := ⟨0#8, false⟩

/-- An outstanding fault group (R267). -/
structure FaultGroup where
  tag : Tag
  die : Nat
  page : Nat
deriving DecidableEq, Repr

/-! ### Requests and Rope items -/

/-- What a remote request asks for. -/
inductive PktKind where
  | load | fetch | store | line
  | amo (op : Nat) | cas
  | radd (fp : Bool)
  | acq | rel | sigclr | waitne
  /-- Checks that write nothing: those of a release (R139), or of a posted write that is misaligned (R9). -/
  | probe (kind : AKind)
  /-- A PHINT: fills the RDC, and is dropped where it would fault (R46). -/
  | hint (target : BitVec 2)
  /-- A PREF of kind 0 to 2, whose causes come back (R131). -/
  | pref (kind : Nat)
  /-- A line write that its instruction waits for (FQPOP, R222). -/
  | put
deriving DecidableEq, Repr

/-- Where a request is. -/
inductive Stage where
  /-- Waiting in the cluster's combining node (R292). -/
  | combining
  /-- On its way to the home layer, tile or other line reads joined to it included. -/
  | toHome
  /-- Held at the home HS for REPLAY of a group (R266). -/
  | held (group : Nat)
  /-- A retry response is on its way back. -/
  | turned
  /-- Answered by a retry response; reissued after 1,024 cc (R268, R270, R326). -/
  | retry
  /-- Held at the BD for a sleeping layer (R326). -/
  | bdHeld
  /-- Translated, on its way to the home HS of the PA (R262 step 4). -/
  | atHome (pa : Nat)
  /-- Performed; the acknowledgement or the data is on its way back. -/
  | done
  /-- Denied at the home, with its cause (R128). -/
  | denied (cause : Nat)
  /-- Refused at the home: the cause of a request that waits is on its way back, and whether its context is pinned (R262). -/
  | failed (cause : Nat) (pin : Bool)
deriving DecidableEq, Repr

/-- The route of a request, which its response takes too (R322). -/
inductive Path where
  /-- Within the layer, over the pair bridge, or by the riser port for DIE 8 and 9. -/
  | direct
  | rope
  /-- Through the BD, which holds it while its layer sleeps (R326). -/
  | bd
deriving DecidableEq, Repr

/-- A request that has left a core, until its response is taken. -/
structure Packet where
  id : Nat
  kind : PktKind
  /-- The hardware thread it acts for. -/
  src : Nat
  tag : Tag
  sup : Bool
  colour : Bool
  unit : Nat
  va : Word
  n : Nat
  data : Line
  /-- The bytes of `data` that are written, for line writes; the expected value of a CAS is in `data2`. -/
  mask : Word
  data2 : Line
  /-- The old value or the line read, filled in at the home. -/
  reply : BitVec 1024
  /-- The poisoned sectors of the line read, and of SIG's line for a release (R344). -/
  poison : BitVec 4
  poison2 : BitVec 4
  /-- ors counts it this many times. -/
  counted : Nat
  /-- Hardware threads whose reads joined this one, or the second thread of a merged RADD. -/
  joined : List Nat
  /-- The copies whose source reads it carries (R292). -/
  copies : List Nat
  /-- The pair has gone stale: an orphan (R334). -/
  orphan : Bool
  /-- The alignment that the home checks after translation (R125 step 5), and the memory type it found. -/
  align : Nat
  mt : Nat
  /-- The physical address, once known. -/
  pa : Nat
  path : Path
  /-- It waits for, or is on, the Rope (R322). -/
  wire : Bool
  /-- Its home has found the page privileged (R257). -/
  priv : Bool
  /-- The line it brings is not to fill the RDC: a drop of that line has come after the read (R231, R237). -/
  noFill : Bool
  /-- It asks for a check or a line only: the page-table entries stay as they are (R131). -/
  mute : Bool
  /-- A check of a line, which a device page is not read for: its elements are read one by one (R164, R174). -/
  look : Bool
  /-- The agent that consumes the request, chosen when it is injected (R361, R388). -/
  agent : Nat
  /-- Its beat stands in the request buffer of the home's Rope station (R318). -/
  boxed : Bool
  /-- R271: the router (16 × layer + cluster) where it is, and that at which it entered the layer's mesh. -/
  pos : Nat
  entry : Nat
  stage : Stage
deriving DecidableEq, Repr

/-- What an item on the Rope does (R308). -/
inductive RopeOp where
  | rst | rstRel | ramo (op : Nat) | rcas | sigclr
  | barrier (n parity layer : Nat)
  | kill | reclaim
  | slotNotice (n : Nat) (v : Word)
  | sleep (layer : Nat) | wake (layer : Nat) | fence (layer : Nat)
  /-- Class 1 and 2: a request, and its response. -/
  | request (id : Nat) | response (id : Nat)
  /-- Class 3: up to a line of copy data, at a byte of a piece of a copy; its bytes are `sig` and `n`, and `off` is the layer that it
goes to, or 8 for every layer (R308). -/
  | bulk (copy piece at_ : Nat)
deriving DecidableEq, Repr

/-- An item on the Rope (R309). -/
structure Item where
  op : RopeOp
  id : Nat
  src : Nat
  tag : Tag
  off : Nat
  n : Nat
  val : Word
  expect : Word
  sig : Line
  /-- The colour of the write that an ordered item carries, which Cairn counts (R359, R405); an item that writes for no thread has none. -/
  colour : Option Bool
deriving DecidableEq, Repr

/-- A transmission on the Rope (R307). -/
structure Transmission where
  /-- The slot counter at which it was sent. -/
  slot : Nat
  tx : Nat
  cls : Nat
  items : List Item
  vetoed : Bool
deriving DecidableEq, Repr

/-! ### Cores, clusters and layers -/

structure Core where
  /-- cc of the core beyond those that its island has had in the slots since reset (R24, R275). -/
  cycle : Word
  /-- PAIRCTL (R348): MISCNT, TDUP, EN. -/
  misCnt : BitVec 16
  tdup : Bool
  en : Bool
deriving DecidableEq, Repr

/-- R24, R348. -/
def Core.reset : Core := ⟨0#64, 0#16, true, true⟩

structure Cluster where
  engweight : BitVec 32
  /-- R284: cur, last, used. -/
  cur : Option Nat
  last : Nat
  used : Nat
  /-- R284: the array's operation, with its thread and sequence number, and the plane load before it. -/
  running : Option (Nat × Nat)
  loading : Option (Nat × Nat)
  /-- R399: the operation whose plane load has just ended. -/
  loaded : Option (Nat × Nat)
  /-- R285: physical planes in the active and staging slots. -/
  active : Option Nat
  staging : Option Nat
  /-- R182: physical planes that are being expanded: the thread, the plane, the thread's wp0 when its TWLD was issued (R285), and the pair
of the TWLD (R328). -/
  twld : List (Nat × Nat × Nat × Tag)
  /-- R274: the router is power-gated. -/
  gated : Bool
  nextPlane : Nat
  /-- R293: the core (0 to 7) that the copy engine served last. -/
  ceLast : Nat
  /-- The copy and the piece that the engine serves now: one piece a turn (R293). -/
  ceNow : Option (Nat × Nat)
deriving DecidableEq, Repr

/-- R23: ENGWEIGHT resets to 0x1111_1111; R284: last is 7 at reset. -/
def Cluster.reset : Cluster where
  engweight := 0x11111111#32
  cur := none
  last := 7
  used := 0
  running := none
  loading := none
  loaded := none
  active := none
  staging := none
  twld := []
  gated := false
  nextPlane := 1
  ceLast := 7
  ceNow := none

/-- The barrier state of one descriptor at one cluster (R288, R290). -/
structure BarCluster where
  /-- Arrivals of the open phase, and beyond NTHR. -/
  cur : Nat
  next : Nat
  /-- Phases that have released here. -/
  phase : Nat
  /-- Tokens received from the east and from the south in the open phase. -/
  east : Bool
  south : Bool
  /-- This cluster has sent its row token, and its column token. -/
  sentRow : Bool
  sentCol : Bool
deriving DecidableEq, Repr

def BarCluster.reset : BarCluster := ⟨0, 0, 0, false, false, false, false⟩

/-- The barrier state of one descriptor at a layer (R288, R289). -/
structure BarLayer where
  /-- Layers whose beat has been applied, by parity; the open phase is layer-complete and has been announced; the release has started for phases below `released`. -/
  even : BitVec 8
  odd : BitVec 8
  sent : Bool
  released : Nat
deriving DecidableEq, Repr

def BarLayer.reset : BarLayer := ⟨0#8, 0#8, false, 0⟩

/-- A layer's power state (R324 to R327, R353). -/
inductive Power where
  | awake
  | asleep
  /-- R327: the step of the wake sequence that has been done; 6 for a layer that restarts (R353). -/
  | waking (step : Nat)
  | fenced
deriving DecidableEq, Repr

/-- R370: what a cut record holds: S, CTXID, LMASK, STATE, EPOCH, and the STAGE that places it. -/
structure CutRecord where
  s : Word
  ctx : BitVec 12
  lmask : BitVec 8
  state : Nat
  epoch : Bool
  stage : BitVec 4
  /-- The granules sent before: SEQ goes on over a warm start. -/
  seq : Nat
deriving DecidableEq, Repr

/-- R364: a staging copy of a granule, with a flag for each poisoned sector.  Its slot's bytes in HBM are written when the slot is freed. -/
structure Staged where
  data : BitVec 32768
  poison : BitVec 256
  /-- The slot that holds it (R363). -/
  slot : Nat
deriving DecidableEq, Repr

structure Layer where
  bardesc : Table Word
  /-- Key 16 n + cluster. -/
  barCl : Table BarCluster
  bars : Table BarLayer
  /-- The layer's copy of the slot table, where it differs from R312. -/
  ropeslot : Table Word
  multiHit : Nat
  /-- Fault records in the queue, records of open groups that wait for space, groups, next number, records ever queued (R267, R269). -/
  fq : List Line
  fqWaiting : List Line
  groups : Table FaultGroup
  nextGroup : Nat
  queued : Word
  deferrals : Nat
  /-- Drop counts by class (R338). -/
  drops : Table Nat
  inc : Table IncEntry
  /-- Items that wait for a slot, by class, in the order they reached the station (R310); vetoed transmissions that go first (R315). -/
  queue : Table (List Item)
  retrans : Table (List Item)
  /-- Vetoes in a row of the transmission that goes again, by class (R318). -/
  vetoes : Table Nat
  /-- Class 1 and 3 space reserved for a transmitter (R317): the transmitter and the class. -/
  reserved : List (Nat × Nat)
  /-- Bulk data that the station has received and not passed on, with its transmitter, the oldest first (R318). -/
  bulkIn : List (Nat × Item)
  power : Power
  /-- Ordered items buffered while waking (R327). -/
  buffered : List Item
  /-- R363, R364: granules not yet drained (listed as drained), staging copies. -/
  drained : List Nat
  staged : Table Staged
  /-- R370: the cut record in the staging region. -/
  cutRecord : Option CutRecord
  /-- R352: retired ways, lines and rows. -/
  retired : List (Nat × Nat)
deriving DecidableEq, Repr

def Layer.reset : Layer where
  bardesc := []
  barCl := []
  bars := []
  ropeslot := []
  multiHit := 0
  fq := []
  fqWaiting := []
  groups := []
  nextGroup := 1
  queued := 0
  deferrals := 0
  drops := []
  inc := []
  queue := []
  retrans := []
  vetoes := []
  reserved := []
  bulkIn := []
  power := .awake
  buffered := []
  drained := []
  staged := []
  cutRecord := none
  retired := []

/-! ### Copies and messages -/

/-- A source line that has come for a copy, or the cause that came instead (R199, R292). -/
structure CopyRead where
  line : Nat
  cause : Nat
  poison : Bool
  data : Line
deriving DecidableEq, Repr

/-- A copy in flight (R190 to R199). -/
structure Copy where
  id : Nat
  src : Nat
  tag : Tag
  sup : Bool
  colour : Bool
  cg : Nat
  /-- 0 CPY, 1 CPY.2D, 2 CPY.BC. -/
  form : Nat
  dst : Word
  from_ : Word
  len : Word
  strides : Word
  arr : Word
  /-- rs3 is not x0: there is an arrival word (R190). -/
  hasArr : Bool
  /-- The piece that makes the next arrival update, by range (R192). -/
  next : Table Nat
  /-- Pieces performed ahead of their turn. -/
  ahead : List Nat
  /-- Pieces under way: bytes of each that have been read and written or sent, and lines on the Rope (piece, first byte): of a CPY.BC, for each
range. -/
  moved : Table Nat
  flying : List (Nat × Nat)
  /-- Source lines of other layers and packages that have come and are not yet written. -/
  reads : List CopyRead
  /-- Signature of the destination lines written. -/
  sig : Line
  /-- Bytes added to the arrival word. -/
  doneBytes : Nat
  /-- The agent that consumes the copy, chosen when it is issued (R361, R388). -/
  agent : Nat
deriving DecidableEq, Repr

/-- A message that a thread of this package has sent (R205, R206). -/
structure Message where
  id : Nat
  src : Nat
  tag : Tag
  sup : Bool
  colour : Bool
  persist : Bool
  endpoint : Word
  data : List Byte
  comp : Word
  /-- The agent that consumes the message, chosen when it is sent (R361, R388). -/
  agent : Nat
  /-- STATUS, DETAIL and LENGTH, once the target has answered. -/
  answer : Option (Nat × Nat × Nat)
deriving DecidableEq, Repr

/-- A buffer posted by MPOST (R203). -/
structure Posted where
  src : Nat
  who : Nat
  tag : Tag
  sup : Bool
  va : Word
  len : Nat
  status : Word
deriving DecidableEq, Repr

/-- A message that waits at the port for a buffer or for a page (R207). -/
structure Inbound where
  id : Nat
  queue : Nat
  sender : Nat
  data : List Byte
  /-- The buffer that it has consumed (R203). -/
  buf : Option Posted
  /-- The layer and fault group it waits for, if it waits for a page. -/
  group : Option (Nat × Nat)
  /-- What a message from outside the package brought: the pair of the packet that carried it, its colour, and the agent that injected it
(R359, R361, R387). -/
  brought : Option (Tag × Bool × Nat)
deriving DecidableEq, Repr

/-! ### Cairn, the host port and Basecamp -/

/-- A granule on its way to storage (R367): header and data. -/
structure Drain where
  /-- The drain endpoint of Basecamp's tables, to which the message goes. -/
  endpoint : Word
  layer : Nat
  granule : Nat
  seq : Nat
  header : Line
  data : BitVec 32768
deriving DecidableEq, Repr

/-- What a package of a pod reports up the tree (R362): its parent, whether it and every package below it have met step 1, its totals, and the
Ridge traffic with pod members of its subtree, injected and consumed. -/
structure PodReport where
  parent : Nat
  met : Bool
  totals : Nat × Nat
  ridge : Nat × Nat
deriving DecidableEq, Repr

/-- Cairn (R356 to R370). -/
structure Cairn where
  ctx : BitVec 12
  lmask : BitVec 8
  stage : BitVec 4
  pod : Bool
  state : Nat
  epoch : Bool
  nmember : Nat
  s : Word
  /-- A drain that a warm start has resumed: every thread has colour ~E (R370). -/
  resumed : Bool
  flips : Nat
  /-- Packets of colour E injected and consumed, by agent: a layer, 8 the BD, 9 + a Ridge port, 41 + one for traffic with pod members (R361,
R362); what the last round read. -/
  injected : Table Nat
  consumed : Table Nat
  lastRound : Option (Nat × Nat)
  rounds : Nat
  /-- The last round met step 1 of R361; what was last reported up the tree, and the totals that the root last collected (R362). -/
  met : Bool
  reported : Option PodReport
  collected : Option (Nat × Nat)
  /-- CLOSE has come, and the child packages that it was sent on to (R362). -/
  podClosed : Bool
  closedTo : List Nat
  seq : Nat
  /-- Granules whose messages are in flight. -/
  flying : List Drain
  /-- A granule that a stalled write waits for (R365). -/
  wanted : List (Nat × Nat)
  /-- Sectors whose write-back has stalled (R365). -/
  stalled : List Nat
deriving DecidableEq, Repr

def Cairn.reset : Cairn where
  ctx := 0
  lmask := 0
  stage := 0
  pod := false
  state := 0
  epoch := false
  nmember := 0
  s := 0
  resumed := false
  flips := 0
  injected := []
  consumed := []
  lastRound := none
  rounds := 0
  met := false
  reported := none
  collected := none
  podClosed := false
  closedTo := []
  seq := 0
  flying := []
  wanted := []
  stalled := []

/-- A record that Basecamp sends (R354). -/
structure Record where
  severity : Nat
  struct : Nat
  action : Nat
  place : Nat
  addr : Nat
  ctx : Nat
  inc : Nat
  count : Nat
  /-- Time: seconds and nanoseconds. -/
  sec : Nat
  nsec : Nat
deriving DecidableEq, Repr

/-- Basecamp (R352 to R355, R377, R378, R390 to R394). -/
structure Basecamp where
  thresholds : Table Word
  plimit : Nat
  drain : Word
  routes : Table (BitVec 18)
  tree : Table Word
  pkg : BitVec 12
  /-- The IEEE 1588 clock as it was last set, in nanoseconds, and the slot in which that was. -/
  clock : Nat
  setAt : Nat
  /-- Corrected errors of structures and lines, each with the slot in which it was counted (R352). -/
  errors : List (Nat × Nat)
  /-- Records not yet sent, and records lost since the last that was (R354). -/
  records : List Record
  lost : Nat
  /-- Bodies of the messages sent over MCTP, the oldest first: records, and replies to commands that came so (R354, R377). -/
  mctp : List (List Byte)
  /-- R355: histograms by kind and bin, and the copy in flash. -/
  hist : Table Nat
  flash : Table Nat
  /-- The slot in which the flash was last written. -/
  flashedAt : Nat
  /-- R353: the layer set of each context, and contexts whose KILL found PEND = 1 and is sent again. -/
  layerSets : Table (BitVec 8)
  again : List Nat
  /-- R392: the point of each island, 100 µs samples below 95 % of PLIMIT, and samples at 115 °C or above, by island. -/
  points : Table Nat
  moving : List Nat
  /-- Twelfths of a cc of an island until its last point change, and the slot of that change (R7, R392). -/
  ccBase : Table (Nat × Nat)
  below : Nat
  hot : Table Nat
  /-- R390: results of HBM training are in flash. -/
  trained : Bool
deriving DecidableEq, Repr

/-- R393: PLIMIT 4.2 kW; the thresholds of R352 are defaults of `Ops`. -/
def Basecamp.reset : Basecamp where
  thresholds := []
  plimit := 4200
  drain := 0
  routes := []
  tree := []
  pkg := 0
  clock := 0
  setAt := 0
  errors := []
  records := []
  lost := 0
  mctp := []
  hist := []
  flash := []
  flashedAt := 0
  layerSets := []
  again := []
  points := []
  moving := []
  ccBase := []
  below := 0
  hot := []
  trained := false

/-! ### The machine -/

structure State where
  /-- The hardware thread (PLACE[10:0], R13) whose instruction the next step runs (log 1). -/
  cur : Nat
  /-- Hardware events that are performed before the next instruction, in order (log 1). -/
  agenda : List Instr
  /-- What the free values are drawn with (log 2). -/
  free : Nat
  /-- The number that the next request, copy or message gets (log 1). -/
  nextId : Nat
  threads : Table Thread
  cores : Table Core
  clusters : Table Cluster
  layers : Table Layer
  /-- HBM; the key of a byte is layer * 2^48 + PA (R254). -/
  hbm : Memory
  /-- Dirty sectors of the L1Ds and of the HSs; the key is (layer * 2^48 + PA) / 16 (R249 to R251). -/
  l1d : Table Dirty
  hs : Table Dirty
  /-- Poisoned 16-byte sectors as coherent reads see them (R344); and those whose copy in HBM is poisoned under a dirty copy. -/
  poison : List Nat
  hbmPoison : List Nat
  /-- Sectors whose copy in the HS is poisoned under one that an L1D holds dirty. -/
  hsPoison : List Nat
  l1i : List CodeLine
  rdc : List RdcLine
  tlb : List TlbEntry
  walkers : List WalkEntry
  /-- Context-table entries that walkers have cached (R255): agent, CTXID, the 32 bytes. -/
  ctxCache : List (Nat × Nat × BitVec 256)
  /-- The Rope-window replicas; the key is station * 65536 + offset; station 8 is the mirror (R319, R321). -/
  rope : Memory
  /-- Incarnations in the mirror (R321). -/
  mirrorInc : Table IncEntry
  /-- Rope slots since reset (R307). -/
  slot : Nat
  air : List Transmission
  /-- R314: the table in force, and changes (frame of their notice, slot, entry) that take force after that frame. -/
  inForce : Table Word
  changes : List (Nat × Nat × Word)
  bdQueue : List Item
  bdRetrans : List Item
  /-- Rope lanes that are not retired (R307, R352). -/
  lanes : Nat
  packets : List Packet
  copies : List Copy
  messages : List Message
  posted : Table (List Posted)
  /-- The threads that save areas hold, by the place of the area (R301). -/
  saved : Table Nat
  inbound : List Inbound
  /-- Requests to another package whose timeout has freed their entry: number and layer; a late response meets none (R334, R389). -/
  timedOut : List (Nat × Nat)
  /-- The ordered item that the kernel's answer to a host request waits for, with its result once it has been applied (R376). -/
  rpcItem : Option (Nat × Option Nat)
  /-- Frames (layer, page number) that the loader has given to code objects (R75). -/
  frames : List (Nat × Nat)
  /-- BD memory: the mailbox at 0, the inbound window table at 0x10_0000 (R379). -/
  bd : Memory
  /-- Lines of BD memory that the HSs of a layer hold for pages that are no device's (R249, R253); key layer * 2^40 + line. -/
  bdLines : Table Line
  isig : Line
  /-- Outbound PCIe writes in the order sent: host bus address and data (R385). -/
  outbound : List (Nat × List Byte)
  /-- Outbound PCIe reads in the order sent: host bus address and bytes (R385). -/
  outReads : List (Nat × Nat)
  /-- Completions of the host's reads, of its AtomicOps, and of accesses that BAR0 does not take, the oldest first: Unsupported Request, or the
data and the poisoned-data indication (R371, R372, R380, R383). -/
  hostReads : List (Option (List Byte × Bool))
  /-- MSI-X vectors raised and not yet taken (R375, R386). -/
  msix : List Nat
  devState : Nat
  startStep : Nat
  refused : Bool
  kept : Bool
  cold : Bool
  /-- The start in progress was asked for with WARM, KEEP (R391). -/
  warm : Bool
  keep : Bool
  cairn : Cairn
  basecamp : Basecamp
deriving DecidableEq, Repr

/-- The machine right after package reset: DEVSTATE STARTING at step 1 (R374), nothing resident, memory with nothing listed. -/
def State.reset : State where
  cur := 0
  agenda := []
  free := 0
  nextId := 0
  threads := []
  cores := []
  clusters := []
  layers := []
  hbm := []
  l1d := []
  hs := []
  poison := []
  hbmPoison := []
  hsPoison := []
  l1i := []
  rdc := []
  tlb := []
  walkers := []
  ctxCache := []
  rope := []
  mirrorInc := []
  slot := 0
  air := []
  inForce := []
  changes := []
  bdQueue := []
  bdRetrans := []
  lanes := 32
  packets := []
  copies := []
  messages := []
  posted := []
  saved := []
  inbound := []
  timedOut := []
  rpcItem := none
  frames := []
  bd := []
  bdLines := []
  isig := 0
  outbound := []
  outReads := []
  hostReads := []
  msix := []
  devState := 1
  startStep := 1
  refused := false
  kept := false
  cold := true
  warm := false
  keep := false
  cairn := Cairn.reset
  basecamp := Basecamp.reset

/-- What a step or a meaning answers. -/
abbrev Out := Host.Outcome State Fault Refusal

end Sys2Proof.Machine
end

