-- ==== Sys2Proof/Machine/Ops.lean ====
section
/-!
DEFINITION. Named operations over the state: agents, registers, completion of an instruction, taking an exception and
returning from one.
-/

namespace Sys2Proof.Machine

/-! ### Agents (R12, R13) -/

/-- The layer, cluster and core of a hardware thread. -/
def layerOf (p : Nat) : Nat := p / 256
def clusterOf (p : Nat) : Nat := p / 16
def coreOf (p : Nat) : Nat := p / 2

/-- The hardware thread of the same number on the partner core (R349). -/
def pairOf (p : Nat) : Nat := p ^^^ 2

def State.thread (s : State) (p : Nat) : Thread := Table.at Thread.reset s.threads p
def State.setThread (s : State) (p : Nat) (t : Thread) : State := { s with threads := Table.put s.threads p t }
/-- The thread whose instruction runs. -/
def State.th (s : State) : Thread := s.thread s.cur
def State.setTh (s : State) (t : Thread) : State := s.setThread s.cur t
/-- Its layer, cluster (layer * 16 + cluster) and core. -/
def State.myLayer (s : State) : Nat := layerOf s.cur
def State.myCluster (s : State) : Nat := clusterOf s.cur
def State.myCore (s : State) : Nat := coreOf s.cur
def State.core (s : State) (c : Nat) : Core := Table.at Core.reset s.cores c
def State.setCore (s : State) (c : Nat) (v : Core) : State := { s with cores := Table.put s.cores c v }
def State.cluster (s : State) (c : Nat) : Cluster := Table.at Cluster.reset s.clusters c
def State.setCluster (s : State) (c : Nat) (v : Cluster) : State := { s with clusters := Table.put s.clusters c v }
def State.layer (s : State) (l : Nat) : Layer := Table.at Layer.reset s.layers l
def State.setLayer (s : State) (l : Nat) (v : Layer) : State := { s with layers := Table.put s.layers l v }

/-! ### STATUS (R18) -/

def svBit : Nat := 0
def ieBit : Nat := 1
def pieBit : Nat := 2
def psvBit : Nat := 3
def fenBit : Nat := 4
def venBit : Nat := 5
def tenBit : Nat := 6
def pairedBit : Nat := 10
def pinnedBit : Nat := 11
def fdirtyBit : Nat := 25
def vdirtyBit : Nat := 26
def wdirtyBit : Nat := 27
def adirtyBit : Nat := 28
def tdirtyBit : Nat := 32

/-- The word with only bit `i` set. -/
def oneBit (i : Nat) : Word := 1#64 <<< i

/-- Bit `i` set to `b`. -/
def putBit (w : Word) (i : Nat) (b : Bool) : Word := if b then w ||| oneBit i else w &&& ~~~ oneBit i

def Thread.sbit (t : Thread) (i : Nat) : Bool := t.status.getLsbD i
def Thread.sv (t : Thread) : Bool := t.sbit svBit
def Thread.paired (t : Thread) : Bool := t.sbit pairedBit
def Thread.setStatus (t : Thread) (w : Word) : Thread := { t with status := w }
def Thread.dirty (t : Thread) (i : Nat) : Thread := { t with status := t.status ||| oneBit i }

/-! ### The Belay fingerprint (R350) -/

/-- One bit of the ECMA-182 CRC-64, not reflected. -/
def crcShift (c : Word) : Word :=
  if c.getLsbD 63 then (c <<< 1) ^^^ 0x42F0E1EBA9EA3693#64 else c <<< 1

def crcByte (c : Word) (b : Byte) : Word :=
  let c0 := c ^^^ (b.setWidth 64 <<< 56)
  crcShift (crcShift (crcShift (crcShift (crcShift (crcShift (crcShift (crcShift c0)))))))

def crcBytes (c : Word) (bs : List Byte) : Word := bs.foldl crcByte c

/-- A register write or a store of a paired thread folds its bytes into the CRC of both cores. -/
def Thread.fold (t : Thread) (bs : List Byte) : Thread :=
  if t.paired then { t with crc := crcBytes t.crc bs, shadowCrc := crcBytes t.shadowCrc bs } else t

def Thread.foldReg (t : Thread) (tag n v : Nat) : Thread :=
  if t.paired then t.fold (BitVec.ofNat 8 tag :: bytesOf n v) else t

/-! ### Registers (R19) -/

/-- x0 reads 0. -/
def Thread.rx (t : Thread) (r : Reg) : Word := if r = 0#5 then 0#64 else Table.at 0#64 t.x r.toNat

/-- A write to x0 is discarded (R76). -/
def Thread.wx (t : Thread) (r : Reg) (v : Word) : Thread :=
  if r = 0#5 then t
  else
    let t := t.foldReg r.toNat 8 v.toNat
    { t with x := Table.put t.x r.toNat v }

def Thread.rf (t : Thread) (r : Reg) : Word := Table.at 0#64 t.f r.toNat

/-- A write of an f register sets FDIRTY (R18). -/
def Thread.wf (t : Thread) (r : Reg) (v : Word) : Thread :=
  let t := (t.foldReg (0x20 + r.toNat) 8 v.toNat).dirty fdirtyBit
  { t with f := Table.put t.f r.toNat v }

def Thread.rv (t : Thread) (r : Reg) : Line := Table.at 0#512 t.v r.toNat

/-- A write of a v register sets VDIRTY (R18). -/
def Thread.wv (t : Thread) (r : Reg) (v : Line) : Thread :=
  let t := (t.foldReg (0x40 + r.toNat) 64 v.toNat).dirty vdirtyBit
  { t with v := Table.put t.v r.toNat v }

/-- k0 reads all ones (R19). -/
def Thread.rk (t : Thread) (r : BitVec 3) : Word :=
  if r = 0#3 then BitVec.allOnes 64 else Table.at 0#64 t.k r.toNat

/-- A write naming k0 is discarded (R19). -/
def Thread.wk (t : Thread) (r : BitVec 3) (v : Word) : Thread :=
  if r = 0#3 then t
  else
    let t := (t.foldReg (0x60 + r.toNat) 8 v.toNat).dirty vdirtyBit
    { t with k := Table.put t.k r.toNat v }

/-- The rows of a tile or accumulator. -/
def Thread.row (t : Thread) (n : BitVec 3) (r : Nat) : Line := Table.at 0#512 t.t (16 * n.toNat + r)
def Thread.arow (t : Thread) (n : BitVec 2) (r : Nat) : BitVec 2048 := Table.at 0#2048 t.a (16 * n.toNat + r)

def putRows {α : Type} (tb : Table α) (k : Nat) : List α → Table α
  | [] => tb
  | v :: r => putRows (Table.put tb k v) (k + 1) r

/-- A register written whole is no longer poisoned (R344). -/
def Thread.cure (t : Thread) (k : Nat) : Thread := { t with poisoned := t.poisoned.filter (· != k) }

/-- Register `k` is written under the present CTX (R328). -/
def Thread.own (t : Thread) (k : Nat) : Thread := { t with pairs := t.pairs.filter fun e => e.1 != k }

/-- CTX becomes `g`; the tile registers keep the pair of the instructions that wrote them (R15, R328). -/
def Thread.retag (t : Thread) (g : Tag) : Thread :=
  { t with
    tag := g
    pairs := ((List.range 14).map fun k => (k, (Table.find t.pairs k).getD t.tag)).filter fun e => !decide (e.2 = g) }

/-- The mark of an array operation of the thread that has failed twice (R344). -/
def poisonArray : Nat := 15

/-- Rows `from_`, `from_ + 1`, … of a tile; sets its TDIRTY bit (R18). -/
def Thread.wRows (t : Thread) (n : BitVec 3) (from_ : Nat) (rows : List Line) : Thread :=
  ({ t with t := putRows t.t (16 * n.toNat + from_) rows }.own n.toNat).dirty (tdirtyBit + n.toNat)

/-- Rows of an accumulator; sets its ADIRTY bit (R18). -/
def Thread.waRows (t : Thread) (n : BitVec 2) (from_ : Nat) (rows : List (BitVec 2048)) : Thread :=
  ({ t with a := putRows t.a (16 * n.toNat + from_) rows }.own (8 + n.toNat)).dirty (adirtyBit + n.toNat)

/-- The whole of a tile or accumulator is folded into the fingerprint when an instruction that wrote it retires. -/
def Thread.foldTile (t : Thread) (n : BitVec 3) : Thread :=
  if t.paired then
    t.fold (BitVec.ofNat 8 (0x90 + n.toNat) :: (List.range 16).flatMap (fun r => bytesOf 64 (t.row n r).toNat))
  else t
def Thread.foldAcc (t : Thread) (n : BitVec 2) : Thread :=
  if t.paired then
    t.fold (BitVec.ofNat 8 (0x80 + n.toNat) :: (List.range 16).flatMap (fun r => bytesOf 256 (t.arow n r).toNat))
  else t

/-! ### Completion of an instruction (R91) -/

/-- The loop-end test: the next pc, and the thread with the counters it leaves. -/
def Thread.loopEnd (t : Thread) (next : Word) : Thread :=
  if t.lc1 ≠ 0 ∧ next = t.lend1 ∧ 1#32 < t.lc1 then { t with lc1 := t.lc1 - 1, pc := t.lbeg1 }
  else
    let t := if t.lc1 ≠ 0 ∧ next = t.lend1 then { t with lc1 := 0 } else t
    if t.lc0 ≠ 0 ∧ next = t.lend0 then
      if 1#32 < t.lc0 then { t with lc0 := t.lc0 - 1, pc := t.lbeg0 } else { t with lc0 := 0, pc := next }
    else { t with pc := next }

/-- What every retirement does: INSTRET (R24), the counts of R350 (from the PAIR on, log 113) and R351, and nothing is waited for any longer. -/
def Thread.retire (t : Thread) : Thread :=
  { t with
    instret := t.instret + 1
    regionCount := t.regionCount + 1
    ahead := t.ahead - 1
    unissued := min t.unissued (t.ahead - 1)
    buffered := if t.ahead = 0 then t.buffered - 1 else t.buffered
    sinceExchange := t.sinceExchange + 1
    exchangeDue := t.exchangeDue || (t.paired && (t.sinceExchange + 1) % 4096 == 0)
    parked := none
    reqs := []
    answers := []
    sent := false
    atVector := false
    plan := []
    got := []
    sending := false
    popped := none
    waiting := false }

/-- An instruction of `len` bytes completes without transferring control. -/
def Thread.complete (t : Thread) (len : Nat) : Thread := (t.retire).loopEnd (t.pc + BitVec.ofNat 64 len)

/-- An instruction completes and transfers control. -/
def Thread.jump (t : Thread) (target : Word) : Thread := { t.retire with pc := target }

/-! ### Taking an exception (R294 to R298), and returning (R210) -/

/-- The class of a cause code (R294). -/
def causeClass (code : Nat) : Nat :=
  if code = 0x05 ∨ code = 0x06 ∨ code = 0x07 then 1
  else if code = 0x11 ∨ code = 0x1A then 2
  else if code = 0x12 ∨ code = 0x13 then 3
  else if code = 0x10 ∨ code = 0x15 then 4
  else if code = 0x14 ∨ code = 0x16 ∨ code = 0x17 then 5
  else 0

/-- Where a trap of a class enters (R295). -/
def Thread.vector (t : Thread) (cls : Nat) : Word :=
  (t.evec &&& ~~~ 0xFFF#64) + BitVec.ofNat 64 (0x100 * cls)

/-- What trap entry makes of STATUS (R296). -/
def trapStatus (st : Word) : Word :=
  let st := putBit (putBit st psvBit (st.getLsbD svBit)) pieBit (st.getLsbD ieBit)
  putBit (putBit st svBit true) ieBit false

/-- What a trap entry is about to replace. -/
def Thread.before (t : Thread) : TrapEntry := ⟨t.status, t.epc, t.ecause, t.eva, t.einfo, t.irq16, t.irq17⟩

/-- Trap entry (R296), as one step.  The work of the thread that has not retired is discarded, what has been fetched ahead with
it (R281, R300). -/
def Thread.trap (t : Thread) (code : Nat) (intr : Bool) (epc eva einfo : Word) : Thread :=
  { t with
    epc := epc
    ecause := putBit (BitVec.ofNat 64 code) 63 intr
    eva := eva
    einfo := einfo
    status := trapStatus t.status
    pc := t.vector (causeClass code)
    exchangeDue := t.exchangeDue || t.paired
    entered := if t.paired then some t.before else t.entered
    parked := none
    reqs := []
    answers := []
    sent := false
    atVector := true
    plan := []
    got := []
    sending := false
    popped := none
    ahead := 0
    unissued := 0
    buffered := 0
    waiting := false }

/-- A synchronous cause of the current instruction: EPC names it (R294). -/
def raise (code : Nat) (eva einfo : Word) (s : State) : State :=
  s.setTh (s.th.trap code false s.th.pc eva einfo)

/-- What ERET makes of STATUS (R210). -/
def eretStatus (st : Word) : Word :=
  let st := putBit (putBit st svBit (st.getLsbD psvBit)) ieBit (st.getLsbD pieBit)
  putBit (putBit st psvBit false) pieBit true

/-- ERET (R210): no loop-end test (R91). -/
def Thread.eret (t : Thread) : Thread :=
  { t.retire with pc := t.epc &&& ~~~ 1#64, status := eretStatus t.status }

/-! ### Interrupts (R300, R301) -/

/-- The interrupts that are pending, in the order 0x14, 0x16, 0x17. -/
def Thread.pending (t : Thread) : Option Nat :=
  if t.copyRecs ≠ [] then some 0x14
  else if t.irq16 ≠ none then some 0x16
  else if t.irq17 ≠ none then some 0x17
  else none

/-- EINFO of a pending 0x16 (R301). -/
def Irq16.einfo (i : Irq16) : Word :=
  (BitVec.ofNat 64 (min i.count 255) <<< 24) ||| (if i.host then 0x1000#64 else BitVec.ofNat 64 (i.queue % 4096))

/-- An interrupt is taken with EPC naming the instruction at pc. -/
def Thread.interrupt (t : Thread) : Thread :=
  match t.copyRecs, t.irq16, t.irq17 with
  | r :: rs, _, _ => t.trap 0x14 true t.pc r.fva (BitVec.ofNat 64 (min (rs.length + 1) 127))
  | [], some i, _ => { t.trap 0x16 true t.pc 0#64 i.einfo with irq16 := none }
  | [], none, some c => { t.trap 0x17 true t.pc 0#64 (if c then 1#64 else 0#64) with irq17 := none }
  | [], none, none => t

/-- A BAR that has arrived leaves 2 + parity in prg when it is interrupted (R143, R303). -/
def Thread.leavePark (t : Thread) : Thread :=
  match t.parked with
  | some (.bar _ ph) => { t with prg := BitVec.ofNat 7 (2 + ph % 2) }
  | _ => t

/-- R300: an interrupt is taken when one is pending, IE = 1 and no irrevocable write is under way; a thread parked on
WFI completes it first (R211). -/
def Thread.takesInterrupt (t : Thread) : Bool :=
  t.pending.isSome && t.sbit ieBit && !t.sent && t.parked != some .wfi

def Thread.takeInterrupt (t : Thread) : Thread := t.leavePark.interrupt

/-! ### Regions and poison (R345, R346) -/

def regionIrrev : Nat := 62
def regionRetried : Nat := 63

/-- ADDR of the region doubleword. -/
def Thread.regionAddr (t : Thread) : Word := t.region &&& 0x00FFFFFFFFFFFFFE#64

/-- An irrevocable instruction retires (R345). -/
def Thread.irrev (t : Thread) : Thread := { t with region := putBit t.region regionIrrev true }

/-- R345: RGN and PAIR. -/
def Thread.setRegion (t : Thread) (a : Word) : Thread :=
  { t with region := a &&& 0x00FFFFFFFFFFFFFE#64, regionCount := 0 }

/-- The region can be restarted (R346). -/
def Thread.restartable (t : Thread) : Bool :=
  t.regionAddr != 0#64 && !t.region.getLsbD regionIrrev && !t.region.getLsbD regionRetried

/-- The restart: prg, RETRIED and pc change, nothing else (R346). -/
def Thread.restart (t : Thread) : Thread :=
  { t with
    pc := t.regionAddr, prg := 0, region := putBit t.region regionRetried true
    parked := none, reqs := [], answers := [], sent := false, waiting := false, atVector := false, ahead := 0, unissued := 0, buffered := 0
    plan := [], got := [], sending := false, popped := none }

/-! ### Records of Basecamp (R354) -/

/-- The IEEE 1588 clock in nanoseconds (R354, R378): three slots a nanosecond. -/
def State.clockNs (s : State) : Nat := s.basecamp.clock + (s.slot - s.basecamp.setAt) / 3

/-! ### Points and cycles (R7, R392) -/

def State.point (s : State) (i : Nat) : Nat := Table.at 0 s.basecamp.points i

/-- Twelfths of a cc that an island has had by a slot: at P0 a slot is a cc, and each lower point takes a twelfth off. -/
def State.ccTwelfths (s : State) (i slot : Nat) : Nat :=
  let (acc, since) := Table.at (0, 0) s.basecamp.ccBase i
  acc + (slot - since) * (12 - s.point i)

/-- CYCLE of a core (R24). -/
def State.cycles (s : State) (core : Nat) : Word := (s.core core).cycle + BitVec.ofNat 64 (s.ccTwelfths (core / 8) s.slot / 12)

/-- The island has a cc in the slot that begins. -/
def State.hasCc (s : State) (i : Nat) : Bool := s.ccTwelfths i s.slot / 12 != s.ccTwelfths i (s.slot + 1) / 12

/-- An island's count so far is kept while its point changes. -/
def State.rebase (s : State) (i : Nat) (tb : Table (Nat × Nat)) : Table (Nat × Nat) := Table.put tb i (s.ccTwelfths i s.slot, s.slot)

/-- Every island is at P0 again (R390 step 2). -/
def State.nominal (s : State) : Basecamp :=
  { s.basecamp with
    points := [], moving := [], ccBase := s.basecamp.points.foldl (fun tb e => s.rebase e.1 tb) s.basecamp.ccBase }

/-- R352: count and window in seconds of a structure, by default. -/
def thresholdDefault (st : Nat) : Word :=
  let w (n sec : Nat) : Word := BitVec.ofNat 64 (n + sec * 2 ^ 32)
  if st = 9 then w 4 3600
  else if st = 73 then w 1 0
  else if st = 10 then w 16 0
  else if 11 ≤ st ∧ st ≤ 13 then w 1024 1
  else w 3 86400

def State.threshold (s : State) (st : Nat) : Word := Table.at (thresholdDefault st) s.basecamp.thresholds st

/-- A bin of a lifetime histogram: 0 temperature, 1 voltage, 2 errors, 3 actions. -/
def histKey (h u bin : Nat) : Nat := h * 2 ^ 48 + u * 2 ^ 24 + bin

def Basecamp.bump (b : Basecamp) (h u bin : Nat) : Basecamp :=
  { b with hist := Table.put b.hist (histKey h u bin) (Table.at 0 b.hist (histKey h u bin) + 1) }

def State.bump (s : State) (h u bin : Nat) : State := { s with basecamp := s.basecamp.bump h u bin }

/-- Slots in a second (R307). -/
def slotsPerSecond : Nat := 3000000000

/-- What a window counts: `kind` is a STRUCT, plus 64 for uncorrectable errors, plus 128 for records of a region restarted or a cause raised
(R354, R378); `index` a line, row or lane of the layer. -/
def errorKey (kind layer index : Nat) : Nat := (kind * 16 + layer) * 2 ^ 48 + index

/-- Events of a kind in the current window; a window of 0 counts those that nothing has ended (R352, R378). -/
def State.inWindow (s : State) (kind layer index : Nat) : Nat :=
  let window := (s.threshold (kind % 128)).toNat / 2 ^ 32 * slotsPerSecond
  (s.basecamp.errors.filter fun e => e.1 == errorKey kind layer index && (window == 0 || decide (s.slot < e.2 + window))).length

/-- With the one that happens now. -/
def State.recent (s : State) (kind layer index : Nat) : Nat := s.inWindow kind layer index + 1

/-- An event enters its window. -/
def State.countError (s : State) (kind layer index : Nat) : State :=
  { s with basecamp := { s.basecamp with errors := s.basecamp.errors ++ [(errorKey kind layer index, s.slot)] } }

/-- Basecamp queues a record, and counts its action in the lifetime histograms (R355).  A full queue keeps the newest 256 and counts the
lost. -/
def State.record (s : State) (r : Record) : State :=
  let b := s.basecamp.bump 3 0 r.action
  let r := { r with sec := s.clockNs / 10 ^ 9 % 2 ^ 48, nsec := s.clockNs % 10 ^ 9 }
  if b.records.length < 256 then { s with basecamp := { b with records := b.records ++ [r] } }
  else { s with basecamp := { b with records := b.records.drop 1 ++ [r], lost := b.lost + 1 } }

/-- The kind of a record's event, for its window. -/
def Record.kind (r : Record) : Nat := r.struct + (if 2 ≤ r.severity then 64 else 0) + if r.action = 4 ∨ r.action = 5 then 128 else 0

/-- A record of an event that enters its window: COUNT is the events of its kind there (R354). -/
def State.note (s : State) (r : Record) : State :=
  (s.countError r.kind (r.place % 16) (r.place / 4096)).record { r with count := s.recent r.kind (r.place % 16) (r.place / 4096) }

/-- The lifetime counters of errors: by STRUCT and layer, corrected or not (R355). -/
def State.tally (s : State) (sev st layer : Nat) : State := s.bump 2 st (2 * layer + if 2 ≤ sev then 1 else 0)

/-- An error, with its record. -/
def State.recordError (s : State) (r : Record) : State := (s.tally r.severity r.struct (r.place % 16)).note r

/-- The 64 bytes of a record, with the records lost before it (R354). -/
def Record.bytes (r : Record) (lost : Nat) : List Byte :=
  bytesOf 1 1 ++ bytesOf 1 r.severity ++ bytesOf 1 r.struct ++ bytesOf 1 r.action ++ bytesOf 4 r.place ++ bytesOf 8 r.addr ++
    bytesOf 2 r.ctx ++ bytesOf 1 r.inc ++ bytesOf 1 (min lost 255) ++ bytesOf 4 (min r.count (2 ^ 32 - 1)) ++ bytesOf 6 r.sec ++
    bytesOf 4 r.nsec ++ List.replicate 30 0#8

/-- A message leaves over MCTP. -/
def State.sendMctp (s : State) (bs : List Byte) : State := { s with basecamp := { s.basecamp with mctp := s.basecamp.mctp ++ [bs] } }

/-- Basecamp sends its oldest record over I3C (R354). -/
def State.sendRecord (s : State) : Option State :=
  match s.basecamp.records with
  | [] => none
  | r :: rest => some ({ s with basecamp := { s.basecamp with records := rest, lost := 0 } }.sendMctp (r.bytes s.basecamp.lost))

/-- A record about a hardware thread: PLACE names its layer, cluster, core and thread. -/
def recordOf (sev st act p : Nat) (addr : Nat) (g : Tag) : Record where
  severity := sev
  struct := st
  action := act
  place := layerOf p + 16 * (clusterOf p % 16) + 256 * (coreOf p % 8) + 2048 * (p % 2)
  addr := addr
  ctx := g.ctx.toNat
  inc := g.inc.toNat
  count := 1
  sec := 0
  nsec := 0

/-- Consumed poison restarts the region or raises 0x10 with the address of the line (R294, R346); Basecamp records either. -/
def consumePoison (va einfo : Word) (s : State) : State :=
  let t := s.th
  let eva := va &&& ~~~ 63#64
  if t.restartable then
    (s.setTh t.restart).note (recordOf 2 2 4 s.cur 0 t.tag)
  else (raise 0x10 eva einfo s).note (recordOf 2 2 5 s.cur 0 t.tag)

/-! ### How a meaning ends -/

/-- Part of a meaning: it goes on with a value, or the instruction stops here (a cause was raised, or it waits). -/
inductive Res (α : Type) where
  | ok (a : α) (s : State)
  | stop (s : State)

def Res.bind {α β : Type} : Res α → (α → State → Res β) → Res β
  | .ok a s, k => k a s
  | .stop s, _ => .stop s

/-- The next state. -/
def Res.out {α : Type} : Res α → Out
  | .ok _ s => .next s
  | .stop s => .next s

def Res.state {α : Type} : Res α → State
  | .ok _ s => s
  | .stop s => s

/-- The instruction waits: it has not completed and runs again. -/
def State.await (s : State) : State := s.setTh { s.th with waiting := true }
/-- The instruction parks (R277): what is younger is discarded. -/
def State.parkOn (s : State) (k : Park) : State := s.setTh { s.th with parked := some k, waiting := true, ahead := 0, unissued := 0, buffered := 0 }

/-- The current thread is replaced by `f` of it, and the instruction of `len` bytes completes. -/
def finish (len : Nat) (s : State) (f : Thread → Thread) : Out := .next (s.setTh ((f s.th).complete len))

/-- Decode causes of R45: the enables an instruction needs ([2] TEN, [1] VEN, [0] FEN); cause 0x07 marks those clear (R306). -/
def Thread.missing (t : Thread) (m : BitVec 3) : BitVec 3 := m &&& ~~~ t.status.extractLsb' 4 3

def illegal (bits : Word) (s : State) : Out := .next (raise 0x05 bits 0#64 s)

/-- Runs `k` if the enables `m` are set. -/
def needs (m : BitVec 3) (bits : Word) (s : State) (k : Out) : Out :=
  if s.th.missing m = 0#3 then k else .next (raise 0x07 bits ((s.th.missing m).setWidth 64) s)

/-- Runs `k` at supervisor level (R208). -/
def priv (bits : Word) (s : State) (k : Out) : Out :=
  if s.th.sv then k else .next (raise 0x06 bits 0#64 s)

/-- Runs `k` if the operands pass the range checks of the tables (R45 step 1). -/
def legal (i : Instr) (s : State) (k : Out) : Out :=
  if i.wf then k else illegal (encode i).bits s

end Sys2Proof.Machine
end

