-- ==== Sys2Proof/Machine/Caches.lean ====
section
/-!
DEFINITION. The memory of a layer through its caches (R249 to R253), the memory controllers with Cairn's copy-on-write
(R363 to R366), poison (R344), and the BD's memory.
The key of a byte of a layer's memory is layer * 2^48 + PA; the key of a sector is that divided by 16.
-/

namespace Sys2Proof.Machine

def physKey (layer pa : Nat) : Nat := layer * 2 ^ 48 + pa
def layerOfKey (k : Nat) : Nat := k / 2 ^ 48
def paOfKey (k : Nat) : Nat := k % 2 ^ 48

/-- A byte of a sector, and a sector with a byte replaced. -/
def sectorByte (d : BitVec 128) (i : Nat) : Byte := d.extractLsb' (8 * i) 8
def sectorSet (d : BitVec 128) (i : Nat) (b : Byte) : BitVec 128 :=
  (d &&& ~~~ (0xFF#128 <<< (8 * i))) ||| (b.setWidth 128 <<< (8 * i))

/-- What the controllers hold: 16 bytes of HBM. -/
def State.hbmSector (s : State) (k : Nat) : BitVec 128 := BitVec.ofNat 128 (valOf (Memory.readBytes s.hbm (16 * k) 16))

/-- What an HS holds: a dirty sector, else HBM. -/
def State.hsSector (s : State) (k : Nat) : BitVec 128 :=
  match Table.find s.hs k with
  | some d => d.data
  | none => s.hbmSector k

/-- A line as the HS holds it. -/
def State.hsLine (s : State) (key : Nat) : Line :=
  s.hsSector (key / 16 + 3) ++ s.hsSector (key / 16 + 2) ++ s.hsSector (key / 16 + 1) ++ s.hsSector (key / 16)

/-- The coherent value of a sector: an L1D that holds it dirty, else the HS (R251). -/
def State.sector (s : State) (k : Nat) : BitVec 128 :=
  match Table.find s.l1d k with
  | some d => d.data
  | none => s.hsSector k

/-- One byte of a layer's memory as every coherent read sees it. -/
def State.peek (s : State) (key : Nat) : Byte := sectorByte (s.sector (key / 16)) (key % 16)

def State.peekBytes (s : State) (key : Nat) : Nat → List Byte
  | 0 => []
  | n + 1 => s.peek key :: s.peekBytes (key + 1) n

/-- A little-endian value in memory (R3). -/
def State.peekNat (s : State) (key n : Nat) : Nat := valOf (s.peekBytes key n)

/-! ### Colours (R357, R359) -/

/-- A cut is armed, closing or draining. -/
def Cairn.active (c : Cairn) : Bool := c.state == 1 || c.state == 2 || c.state == 3

/-- The colour of a thread (R359). -/
def State.colour (s : State) (t : Thread) : Bool :=
  if s.cairn.active then
    if s.cairn.resumed then !s.cairn.epoch
    else if t.tag.ctx = s.cairn.ctx then (if t.flipped then !s.cairn.epoch else s.cairn.epoch) else !s.cairn.epoch
  else s.cairn.epoch

/-- The colour of a write that the device makes of its own, and of an inbound write. -/
def State.devColour (s : State) : Bool := if s.cairn.active then !s.cairn.epoch else s.cairn.epoch

/-- One more packet at an agent. -/
def oneMore (tb : Table Nat) (agent : Nat) : Table Nat := Table.put tb agent (Table.at 0 tb agent + 1)

/-- An agent (a layer, 8 the BD, 9 + a Ridge port or, for traffic with pod members, 41 + a port) counts a packet of colour E as injected or consumed (R361). -/
def State.inject (s : State) (agent : Nat) (colour : Bool) : State :=
  if s.cairn.active && colour == s.cairn.epoch then { s with cairn := { s.cairn with injected := oneMore s.cairn.injected agent } } else s
def State.consume (s : State) (agent : Nat) (colour : Bool) : State :=
  if s.cairn.active && colour == s.cairn.epoch then { s with cairn := { s.cairn with consumed := oneMore s.cairn.consumed agent } } else s

/-- A write-back of a line in one colour, on its way from its layer to a memory controller beyond the riser (R405). -/
def State.countBack (s : State) (layer : Nat) (colour : Bool) : State := (s.inject layer colour).consume 8 colour

/-! ### The memory controllers (R363 to R365) -/

/-- Bytes of the staging region of a layer, and its slots. -/
def Cairn.stagingBase (c : Cairn) : Nat := 2 ^ 37 - (c.stage.toNat + 1) * 2 ^ 30
def Cairn.slots (c : Cairn) : Nat := ((c.stage.toNat + 1) * 2 ^ 30 - 2 ^ 26) / 4096

/-- The granule is in the image of the cut (R363). -/
def Cairn.inImage (c : Cairn) (layer pa : Nat) : Bool := c.lmask.getLsbD layer && decide (pa < c.stagingBase)

/-- A granule of HBM. -/
def State.granule (s : State) (layer g : Nat) : BitVec 32768 :=
  BitVec.ofNat 32768 (valOf (Memory.readBytes s.hbm (physKey layer (4096 * g)) 4096))

/-- A granule with the 16 bytes at byte `o` replaced. -/
def granuleSet (g : BitVec 32768) (o : Nat) (d : BitVec 128) : BitVec 32768 :=
  (g &&& ~~~ ((BitVec.allOnes 128).setWidth 32768 <<< (8 * o))) ||| (d.setWidth 32768 <<< (8 * o))

def State.writeHbm (s : State) (k : Nat) (d : BitVec 128) : State :=
  { s with hbm := Memory.writeBytes s.hbm (16 * k) (bytesOf 16 d.toNat) }

/-- A sector is dirty in a cache of its layer. -/
def State.isDirty (s : State) (k : Nat) : Bool := (Table.find s.l1d k).isSome || (Table.find s.hs k).isSome

/-- The copy of a sector in the HS is poisoned (R344): that which an L1D has not made dirty is what coherent reads see. -/
def State.hsBad (s : State) (k : Nat) : Bool := if (Table.find s.l1d k).isSome then s.hsPoison.contains k else s.poison.contains k

/-- The copy of a sector in HBM is poisoned (R344). -/
def State.hbmBad (s : State) (k : Nat) : Bool := s.hbmPoison.contains k || (s.poison.contains k && !s.isDirty k)

/-- Bit i: sector i of a granule is poisoned in HBM. -/
def State.granulePoison (s : State) (layer g : Nat) : BitVec 256 :=
  (List.range 256).foldl (fun n i => if s.hbmBad (physKey layer (4096 * g) / 16 + i) then n ||| (1#256 <<< i) else n) 0#256

/-- A write of 16 bytes at sector `k` stalls at the controller: its granule would be copied, and no slot is free (R364, R365). -/
def State.stallsAt (s : State) (k : Nat) (colour : Bool) : Bool :=
  let layer := layerOfKey (16 * k)
  let pa := paOfKey (16 * k)
  let y := s.layer layer
  s.cairn.active && s.cairn.inImage layer pa && !y.drained.contains (pa / 4096) && (Table.find y.staged (pa / 4096)).isNone &&
    colour != s.cairn.epoch && decide (s.cairn.slots ≤ y.staged.length)

/-- Cairn drains next the granule that a stalled write waits on; a write-back of a sector is remembered (R365). -/
def State.want (s : State) (k : Nat) (back : Bool) : State :=
  let g := (layerOfKey (16 * k), paOfKey (16 * k) / 4096)
  let c := s.cairn
  { s with cairn := { c with
      wanted := if c.wanted.contains g then c.wanted else c.wanted ++ [g]
      stalled := if back && !c.stalled.contains k then c.stalled ++ [k] else c.stalled } }

/-- The lowest free slot (log 100). -/
def freeSlot (tb : Table Staged) : Nat := ((List.range (tb.length + 1)).find? fun i => !tb.any fun e => e.2.slot == i).getD 0

/-- R364: what a write of 16 bytes at sector `k` does at the controller; false if it stalls for a slot (R365). -/
def State.ctrlWrite (s : State) (k : Nat) (d : BitVec 128) (colour : Bool) : State × Bool :=
  let layer := layerOfKey (16 * k)
  let pa := paOfKey (16 * k)
  let g := pa / 4096
  let y := s.layer layer
  if s.cairn.active && s.cairn.inImage layer pa && !y.drained.contains g then
    match Table.find y.staged g with
    | some copy =>
      let s1 := s.writeHbm k d
      if colour == s.cairn.epoch then
        let bit : BitVec 256 := 1#256 <<< (pa % 4096 / 16)
        let flags := if s.hsBad k then copy.poison ||| bit else copy.poison &&& ~~~ bit
        (s1.setLayer layer { y with staged := Table.put y.staged g ⟨granuleSet copy.data (pa % 4096) d, flags, copy.slot⟩ }, true)
      else (s1, true)
    | none =>
      if colour == s.cairn.epoch then (s.writeHbm k d, true)
      else if y.staged.length < s.cairn.slots then
        ((s.setLayer layer { y with staged := Table.put y.staged g ⟨s.granule layer g, s.granulePoison layer g, freeSlot y.staged⟩ }).writeHbm k d, true)
      else (s.want k true, false)
  else (s.writeHbm k d, true)

/-- An image write (R366): bytes of colour E that met a line dirty in the other colour. -/
def State.imageWrite (s : State) (k : Nat) (i : Nat) (b : Byte) : State :=
  let layer := layerOfKey (16 * k)
  let pa := paOfKey (16 * k)
  let g := pa / 4096
  let y := s.layer layer
  if s.cairn.active && s.cairn.inImage layer pa && !y.drained.contains g then
    match Table.find y.staged g with
    | some copy =>
      let old : BitVec 128 := copy.data.extractLsb' (8 * (pa % 4096)) 128
      s.setLayer layer { y with staged := Table.put y.staged g { copy with data := granuleSet copy.data (pa % 4096) (sectorSet old i b) } }
    | none => s.writeHbm k (sectorSet (s.hbmSector k) i b)
  else s

/-! ### Write-backs -/

/-- A dirty sector of an L1D goes to the HS (R250). -/
def State.wbL1d (s : State) (k : Nat) : State :=
  match Table.find s.l1d k with
  | some d => { s with l1d := Table.del s.l1d k, hs := Table.put s.hs k d, hsPoison := s.hsPoison.filter (· != k) }
  | none => s

/-- A dirty sector of an HS goes to the controller; a write that stalls leaves it dirty. -/
def State.wbHs (s : State) (k : Nat) : State :=
  match Table.find s.hs k with
  | some d =>
    match s.ctrlWrite k d.data d.colour with
    | (s1, true) =>
      { s1 with
        hs := Table.del s1.hs k
        hbmPoison := s1.hbmPoison.filter (· != k) ++ (if (Table.find s1.l1d k).isSome && s1.hsPoison.contains k then [k] else []) }
    | (s1, false) => s1
  | none => s

/-- A sector goes all the way to memory. -/
def State.wbAll (s : State) (k : Nat) : State := (s.wbL1d k).wbHs k

/-- The colour in which a sector is dirty. -/
def State.dirtyColour (s : State) (k : Nat) : Option Bool :=
  match Table.find s.l1d k with
  | some d => some d.colour
  | none => (Table.find s.hs k).map (·.colour)

/-- The four sectors of a line whose first is `k`. -/
def lineSectors (k : Nat) : List Nat := [k, k + 1, k + 2, k + 3]

/-- A write-back of the sectors of a line that are dirty in one colour. -/
def State.wbColour (s : State) (line : Nat) (c : Bool) : State :=
  let ks := (lineSectors (4 * line)).filter fun k => s.dirtyColour k == some c
  if ks.isEmpty then s else (ks.foldl State.wbAll s).countBack (layerOfKey (64 * line)) c

/-- A line goes to its controller: first the sectors of colour E, then the others (R404). -/
def State.wbLine (s : State) (line : Nat) : State := (s.wbColour line s.cairn.epoch).wbColour line (!s.cairn.epoch)

/-- R361: a store of colour ~E to a sector dirty in colour E first writes the old sector back, at any time. -/
def State.beforeStore (s : State) (k : Nat) (colour : Bool) : State :=
  if colour != s.cairn.epoch && s.dirtyColour k == some s.cairn.epoch then (s.wbAll k).countBack (layerOfKey (16 * k)) s.cairn.epoch else s

/-- R366: a write of colour E meets a line that is held dirty in colour ~E, at a sector that is not dirty in colour E itself: that one goes
to the image with its own write-back. -/
def State.meetsLate (s : State) (k : Nat) (colour : Bool) : Bool :=
  s.cairn.active && colour == s.cairn.epoch && s.dirtyColour k != some s.cairn.epoch &&
    (lineSectors (k / 4 * 4)).any fun j => s.dirtyColour j == some (!s.cairn.epoch)

/-- Where a store is performed. -/
inductive Level where
  /-- The L1D of a core, which holds the line exclusive. -/
  | l1d (core : Nat)
  /-- The HS: write-through and uncached pages, and stores from elsewhere. -/
  | hs
  /-- Memory itself: pages of memory type device. -/
  | mem
deriving DecidableEq, Repr

/-- One byte is written at a level with a colour. -/
def State.pokeByte (s : State) (lv : Level) (colour : Bool) (key : Nat) (b : Byte) : State :=
  let k := key / 16
  let s := s.beforeStore k colour
  let late := s.meetsLate k colour
  let keep := if late then !s.cairn.epoch else colour
  let d := sectorSet (s.sector k) (key % 16) b
  let s := if late then s.imageWrite k (key % 16) b else s
  match lv with
  | .l1d c => { s with l1d := Table.put s.l1d k ⟨d, c, keep⟩ }
  | .hs => { s with l1d := Table.del s.l1d k, hs := Table.put s.hs k ⟨d, 0, keep⟩ }
  | .mem => { s with l1d := Table.del s.l1d k, hs := Table.put s.hs k ⟨d, 0, keep⟩ }.wbHs k

def State.pokeBytes (s : State) (lv : Level) (colour : Bool) (key : Nat) : List Byte → State
  | [] => s
  | b :: r => (s.pokeByte lv colour key b).pokeBytes lv colour (key + 1) r

/-! ### Poison (R344) -/

/-- Whether any sector of `n` bytes from `key` is poisoned. -/
def State.isPoisoned (s : State) (key n : Nat) : Bool :=
  s.poison.any (fun k => decide (key / 16 ≤ k ∧ 16 * k < key + n))

/-- The poisoned sectors of a line. -/
def State.linePoison (s : State) (key : Nat) : BitVec 4 :=
  (List.range 4).foldl (fun p i => if s.poison.contains (key / 64 * 4 + i) then p ||| (1#4 <<< i) else p) 0#4

/-- Those of the line as the HS holds it. -/
def State.hsLinePoison (s : State) (key : Nat) : BitVec 4 :=
  (List.range 4).foldl (fun p i => if s.hsBad (key / 64 * 4 + i) then p ||| (1#4 <<< i) else p) 0#4

/-- A write that covers a whole poisoned sector clears its flag. -/
def State.curePoison (s : State) (key n : Nat) : State :=
  if s.poison.isEmpty then s
  else { s with poison := s.poison.filter (fun k => !decide (key ≤ 16 * k ∧ 16 * k + 16 ≤ key + n)) }

/-- The sectors of `n` bytes from `key` become poisoned. -/
def State.makePoison (s : State) (key n : Nat) : State :=
  let ks := (List.range ((key + n + 15) / 16 - key / 16)).map (· + key / 16)
  { s with poison := s.poison.filter (fun k => !ks.contains k) ++ ks }

/-- Poisoned sectors that a write of `n` bytes from `key` makes dirty: their copy in HBM stays poisoned under it, and, under what an L1D
writes, that in the HS. -/
def State.keepPoison (s : State) (lv : Level) (key n : Nat) : State :=
  if s.poison.isEmpty && s.hsPoison.isEmpty then s
  else
    let at_ (k : Nat) : Bool := decide (key / 16 ≤ k ∧ 16 * k < key + n)
    let below := s.poison.filter fun k => at_ k && !s.isDirty k && !s.hbmPoison.contains k
    let under := s.poison.filter fun k => at_ k && (Table.find s.l1d k).isNone
    { s with
      hbmPoison := below ++ s.hbmPoison
      hsPoison := (match lv with | .l1d _ => under ++ s.hsPoison | _ => s.hsPoison.filter fun k => !at_ k) }

/-- A dirty copy of a sector has been lost without a write-back: what stood under it is seen again. -/
def State.bare (s : State) (k : Nat) : State :=
  { s with
    poison := s.poison.filter (· != k) ++ (if s.hbmPoison.contains k then [k] else [])
    hbmPoison := s.hbmPoison.filter (· != k)
    hsPoison := s.hsPoison.filter (· != k) }

/-! ### Room in caches and translation buffers (R249, R261) -/

/-- An entry for which the structure has no room replaces one of its set; which one is a free value, and so is the set (log 13). -/
def State.room {α : Type} [DecidableEq α] (s : State) (ways : Nat) (mine : α → Bool) (set : α → Nat) (e : α) (l : List α) :
    List α × State :=
  if (l.filter mine).length < ways then (l, s)
  else
    let peers := l.filter fun x => mine x && set x == set e
    if peers.length < ways then (l, s)
    else
      (match peers[(Config.freeWord s.free).toNat % peers.length]? with
       | some v => (l.erase v, { s with free := s.free + 1 })
       | none => (l, s))

/-- R263: the home HS of a physical address. -/
def hsOf (pa : Nat) : Nat := (List.range 8).foldl (fun h j => h ^^^ (pa % 2 ^ 37 / 2 ^ (6 + 4 * j) % 16)) 0

/-- A set of a structure's unit, as the retired ways name it (R352). -/
def wayKey (unit set : Nat) : Nat := unit * 2 ^ 20 + set

/-- The ways of a set that are left of `full`: those retired are no longer allocated (R352). -/
def State.waysLeft (s : State) (layer st unit set full : Nat) : Nat :=
  full - ((s.layer layer).retired.filter fun e => e == (st, wayKey unit set)).length

/-- The set of a line in an HS of 4 MiB and in an L1D of 64 KiB (R249). -/
def hsSet (line : Nat) : Nat := Config.cacheSet 5 line % 4096

/-- A line that an L1D holds: one of its own layer with dirty sectors, by its key, or one of another home, by its address and pair (R249). -/
inductive L1dLine where
  | own (line : Nat)
  | remote (va : Nat) (tag : Tag)
deriving DecidableEq, Repr

def l1dSet : L1dLine → Nat
  | .own line => Config.cacheSet 4 line % 128
  | .remote va _ => Config.cacheSet 4 (va / 64) % 128

/-- The lines of a cache's set that hold dirty sectors. -/
def dirtyLines (tb : Table Dirty) (p : Nat → Dirty → Bool) : List Nat := ((tb.filter fun e => p e.1 e.2).map fun e => e.1 / 4).eraseDups

/-- One of more lines `ls` of a cache than the set of `line` holds, other than that line: which one is a free value (log 13). -/
def State.victim {α : Type} [DecidableEq α] (s : State) (ways : Nat) (line : α) (set : α → Nat) (ls : List α) : Option α × State :=
  if ls.length ≤ ways then (none, s)
  else
    let peers := ls.filter fun l => set l == set line
    if peers.length ≤ ways then (none, s)
    else
      let others := peers.filter (· != line)
      (others[(Config.freeWord s.free).toNat % others.length]?, { s with free := s.free + 1 })

/-- The HS of a line, which is one of the 16 of its layer (R263). -/
def hsHome (line : Nat) : Nat × Nat := (layerOfKey (64 * line), hsOf (paOfKey (64 * line)))

/-- The lines that an HS of a layer holds with dirty sectors there or in an L1D: it is inclusive of those (R249). -/
def State.hsLines (s : State) (home : Nat × Nat) : List Nat :=
  let at_ (k : Nat) (_ : Dirty) : Bool := hsHome (k / 4) == home
  (dirtyLines s.hs at_ ++ dirtyLines s.l1d at_).eraseDups

/-- A line that an HS of 16 ways has no room for evicts another, with its L1D copies (R249, R251). -/
def State.spillHs (s : State) (line : Nat) : State :=
  let (layer, hs) := hsHome line
  match s.victim (s.waysLeft layer 2 hs (hsSet line) 16) line hsSet (s.hsLines (layer, hs)) with
  | (some v, s) => s.wbLine v
  | (none, s) => s

/-- A core's L1D holds an RDC line of its cluster too (R252). -/
def RdcLine.inL1d (l : RdcLine) (core : Nat) : Bool := l.cl == core / 8 && l.cores.getLsbD (core % 8)

/-- The lines that an L1D holds: its dirty lines of the own layer, and lines of other homes. -/
def State.l1dLines (s : State) (core : Nat) : List L1dLine :=
  (dirtyLines s.l1d fun _ d => d.owner == core).map .own ++ (s.rdc.filter (·.inL1d core)).map fun l => .remote l.va l.tag

/-- A line leaves an L1D: to its HS; one of another home stays in the RDC. -/
def State.leaveL1d (s : State) (core : Nat) : L1dLine → State
  | .own line => (lineSectors (4 * line)).foldl State.wbL1d s
  | .remote va g =>
    { s with rdc := s.rdc.map fun l =>
        if l.inL1d core && l.va == va && decide (l.tag = g) then { l with cores := l.cores &&& ~~~ (1#8 <<< (core % 8)) } else l }

/-- A line that an L1D of 8 ways has no room for evicts another (R249). -/
def State.spillL1d (s : State) (core : Nat) (line : L1dLine) : State :=
  match s.victim (s.waysLeft (core / 128) 1 (core % 128) (l1dSet line) 8) line l1dSet (s.l1dLines core) with
  | (some v, s) => s.leaveL1d core v
  | (none, s) => s

/-- Room for what a store has written at a level; what goes to memory itself is a write to a controller (R405). -/
def State.spill (s : State) (lv : Level) (colour : Bool) (key : Nat) : State :=
  match lv with
  | .l1d core => (s.spillL1d core (.own (key / 64))).spillHs (key / 64)
  | .hs => s.spillHs (key / 64)
  | .mem => s.countBack (layerOfKey key) colour

/-- A sector that another core's L1D holds dirty goes to the HS. -/
def State.yieldSector (s : State) (core k : Nat) : State :=
  match Table.find s.l1d k with
  | some d => if d.owner = core then s else s.wbL1d k
  | none => s

/-- A store takes its line: one in an L1D first sends to the HS the sectors that another core's L1D holds dirty (R251), one at the HS
recalls every modified copy (R400). -/
def State.claim (s : State) (lv : Level) (key : Nat) : State :=
  match lv with
  | .l1d core => (lineSectors (key / 64 * 4)).foldl (fun s k => s.yieldSector core k) s
  | _ => (lineSectors (key / 64 * 4)).foldl State.wbL1d s

/-- A write of bytes that takes in what stood there, so that the flags of poisoned sectors stay. -/
def State.update (s : State) (lv : Level) (colour : Bool) (key : Nat) (bs : List Byte) : State :=
  (((s.claim lv key).keepPoison lv key bs.length).pokeBytes lv colour key bs).spill lv colour key

/-- A write of bytes of one line with everything it does. -/
def State.store (s : State) (lv : Level) (colour : Bool) (key : Nat) (bs : List Byte) : State :=
  ((((s.claim lv key).keepPoison lv key bs.length).curePoison key bs.length).pokeBytes lv colour key bs).spill lv colour key

/-! ### The BD's memory (R373, R379) -/

/-- The registers of the mailbox that are not rings read as the machine holds them. -/
def State.devstateWord (s : State) : Nat :=
  s.startStep * 256 + (if s.refused then 32 else 0) + (if s.kept then 16 else 0) + (if s.cold then 8 else 0) + s.devState

/-- What a device or host read of BD memory sees at an offset; DEVSTATE and START are not memory. -/
def State.bdRead (s : State) (o : Nat) : Byte :=
  if 0x8020 ≤ o ∧ o < 0x8028 then BitVec.ofNat 8 (s.devstateWord / 256 ^ (o - 0x8020))
  else if 0x8028 ≤ o ∧ o < 0x8030 then 0#8
  else if 0x8040 ≤ o ∧ o < 0xC000 then 0#8
  else Memory.read s.bd o

/-- A read that takes in DEVSTATE.REFUSED clears it (R374). -/
def State.bdTake (s : State) (o n : Nat) : State :=
  if o ≤ 0x8020 ∧ 0x8020 < o + n then { s with refused := false } else s

def State.bdReads (s : State) (o : Nat) : Nat → List Byte
  | 0 => []
  | n + 1 => s.bdRead o :: s.bdReads (o + 1) n

/-- The copy of a line of BD memory that the HSs of a layer may hold. -/
def bdLineKey (layer o : Nat) : Nat := layer * 2 ^ 40 + o / 64

/-- What a layer's access to BD memory reads: a device access the BD's own bytes; under any other type the line that an HS holds, which may be
older than a host write (R379), or the BD's again, as a free value says, and the HS holds it then. -/
def State.bdSee (s : State) (layer o n mt : Nat) : Nat × State :=
  if mt = 3 then (valOf (s.bdReads o n), s.bdTake o n)
  else
    let key := bdLineKey layer o
    let base := o / 64 * 64
    let fresh (s : State) : Nat × State :=
      let v := valOf (s.bdReads base 64)
      (v / 2 ^ (8 * (o % 64)) % 2 ^ (8 * n), ({ s with bdLines := Table.put s.bdLines key (BitVec.ofNat 512 v) } : State).bdTake base 64)
    match Table.find s.bdLines key with
    | none => fresh s
    | some l =>
      let s' : State := { s with free := s.free + 1 }
      if (Config.freeWord s.free).getLsbD 0 then (l.toNat / 2 ^ (8 * (o % 64)) % 2 ^ (8 * n), s') else fresh s'

/-- A write of the layer to BD memory, or an atomic access there, drops the copies of the lines of `n` bytes. -/
def State.bdForget (s : State) (layer o n : Nat) : State :=
  { s with bdLines := s.bdLines.filter fun e => !decide (bdLineKey layer o ≤ e.1 ∧ e.1 ≤ bdLineKey layer (o + n - 1)) }

end Sys2Proof.Machine
end

