-- ==== Sys2Proof/Machine/Translate.lean ====
section
/-!
DEFINITION. Virtual addresses (R28 to R30), page tables and TLBs (R254 to R265), and the fault queue (R266 to R269).
-/

namespace Sys2Proof.Machine

/-! ### Virtual addresses -/

def dieOf (va : Word) : Nat := (va.extractLsb' 52 4).toNat
def offOf (va : Word) : Nat := (va.extractLsb' 0 52).toNat

/-- The package that a DIE 9 address names (R30). -/
def pkgOf (va : Word) : Nat := (va.extractLsb' 40 12).toNat

/-- Step 1 of R125: the form of an address. -/
def State.formOk (s : State) (va : Word) : Bool :=
  let d := dieOf va
  va.extractLsb' 56 8 == 0#8 && !(10 ≤ d && d ≤ 13) && !(d == 14 && 0x10000 ≤ offOf va) &&
    !(d == 9 && (pkgOf va == s.basecamp.pkg.toNat || Table.at 0#18 s.basecamp.routes (pkgOf va) == 0#18))

/-- The access is local (R128): its DIE is the thread's own layer or 15. -/
def isLocal (layer : Nat) (va : Word) : Bool := dieOf va == layer || dieOf va == 15

/-! ### Incarnations (R329, R330) -/

def State.incOf (s : State) (layer : Nat) (c : BitVec 12) : IncEntry := Table.at IncEntry.reset (s.layer layer).inc c.toNat
/-- A pair is current at a layer. -/
def State.current (s : State) (layer : Nat) (g : Tag) : Bool := (s.incOf layer g.ctx).cur == g.inc

/-! ### Page-table entries (R257, R258) -/

def pteFrame (p : Word) : Nat := (p.extractLsb' 12 36).toNat * 4096
def pteType (p : Word) : Nat := (p.extractLsb' 9 3).toNat
def pteV (p : Word) : Bool := p.getLsbD 0
def pteR (p : Word) : Bool := p.getLsbD 1
def pteW (p : Word) : Bool := p.getLsbD 2
def pteX (p : Word) : Bool := p.getLsbD 3
def pteA (p : Word) : Bool := p.getLsbD 4
def pteP (p : Word) : Bool := p.getLsbD 5
def pteG (p : Word) : Bool := p.getLsbD 6
def pteD (p : Word) : Bool := p.getLsbD 7
def pteAC (p : Word) : Bool := p.getLsbD 8
def pteC (p : Word) : Bool := p.getLsbD 48

def hbmEnd : Nat := 0x2000000000
def bdBase : Nat := 0x10000000000
def bdEnd : Nat := 0x20000000000

/-- FRAME lies in R254's ranges; a BD-region frame only from ROOT_BD. -/
def frameOk (bd : Bool) (f : Nat) : Bool := decide (f < hbmEnd) || (bd && decide (bdBase ≤ f ∧ f < bdEnd))

/-- A pointer entry: V = 1 and R = W = X = 0. -/
def pteIsPtr (p : Word) : Bool := pteV p && !pteR p && !pteW p && !pteX p

/-- A pointer with non-zero reserved bits, or outside the layer's memory, is malformed. -/
def ptrOk (p : Word) : Bool :=
  (p &&& 0x00FF000000000EFE#64) == 0#64 && decide (pteFrame p < hbmEnd)

/-- The size of the page that a leaf at a level maps, as a power of two. -/
def leafBits (lvl : Nat) (p : Word) : Nat :=
  match lvl with
  | 0 => if pteC p then 16 else 12
  | 1 => 21
  | 2 => 30
  | _ => 39

/-- A leaf that is not malformed (R258).  Of 16 entries that together map 64 KiB any one translates the page (R260). -/
def leafOk (bd : Bool) (lvl : Nat) (p : Word) : Bool :=
  lvl < 3 && pteType p < 4 && frameOk bd (pteFrame p) &&
    (lvl == 0 || (!pteC p && pteFrame p % 2 ^ leafBits lvl p == 0))

/-! ### The walk (R256) -/

/-- What a walk finds. -/
inductive Walk where
  /-- A leaf at PA `at_`, the table entries passed through, and the page's size. -/
  | leaf (pte : Word) (at_ : Nat) (ptrs : List Nat) (bits : Nat) (lvl : Nat)
  /-- Not present: malformed or not, and the level at which the walk stopped. -/
  | absent (malf : Bool) (lvl : Nat)
deriving DecidableEq, Repr

/-- A pointer that the agent's walker cache holds for this level and address. -/
def State.cachedPtr (s : State) (agent layer : Nat) (g : Tag) (die root lvl off : Nat) : Option Nat :=
  ((s.walkers.find? (fun w => w.agent == agent && w.layer == layer && decide (w.tag = g) && w.root == root && w.die == die &&
      w.level == lvl && w.base == off / 2 ^ (12 + 9 * lvl))).map (·.next))

/-- Walks from `table`; a level is counted down to 0.  Answers what was found and the pointers read, for the walker cache. -/
def State.walkFrom (s : State) (agent layer : Nat) (g : Tag) (die root : Nat) (bd : Bool) (off : Nat) :
    Nat → Nat → List Nat → List WalkEntry → Walk × List WalkEntry
  | lvl, table, ptrs, seen =>
    let idx := off / 2 ^ (12 + 9 * lvl) % 512
    let at_ := table + 8 * idx
    let pte : Word := BitVec.ofNat 64 (s.peekNat (physKey layer at_) 8)
    let stop : Walk :=
      if !pteV pte then .absent false lvl
      else if pteIsPtr pte then .absent true lvl
      else if leafOk bd lvl pte then .leaf pte at_ ptrs (leafBits lvl pte) lvl
      else .absent true lvl
    match lvl with
    | 0 => (stop, seen)
    | l + 1 =>
      match s.cachedPtr agent layer g die root (l + 1) off with
      | some next => s.walkFrom agent layer g die root bd off l next ptrs seen
      | none =>
        if pteIsPtr pte then
          if ptrOk pte then
            s.walkFrom agent layer g die root bd off l (pteFrame pte) (at_ :: ptrs)
              (⟨agent, layer, g, root, die, off / 2 ^ (12 + 9 * (l + 1)), l + 1, pteFrame pte⟩ :: seen)
          else (.absent true (l + 1), seen)
        else (stop, seen)

/-- The context-table entry c of a layer (R255), as the agent's walker holds it or as memory holds it. -/
def State.ctxEntry (s : State) (agent layer c : Nat) : BitVec 256 :=
  match s.ctxCache.find? (fun e => e.1 == agent && e.2.1 == c) with
  | some e => e.2.2
  | none => BitVec.ofNat 256 (s.peekNat (physKey layer (32 * c)) 32)

def State.cacheCtx (s : State) (agent c : Nat) (e : BitVec 256) : State :=
  if s.ctxCache.any (fun f => f.1 == agent && f.2.1 == c) then s else { s with ctxCache := (agent, c, e) :: s.ctxCache }

/-- FLAGS of a context-table entry. -/
def ctxV (e : BitVec 256) : Bool := e.getLsbD 192
def ctxPinned (e : BitVec 256) : Bool := e.getLsbD 193

/-- The root that a die field uses: the layer's own field, DIE 15, or DIE 8 (R255). -/
def ctxRoot (e : BitVec 256) (die : Nat) : Word :=
  if die = 15 then e.extractLsb' 64 64 else if die = 8 then e.extractLsb' 128 64 else e.extractLsb' 0 64

/-! ### Translation -/

/-- What translating an access answers. -/
inductive Xlat where
  | ok (pa mt : Nat)
  /-- A permission or privilege cause. -/
  | deny (cause : Nat)
  /-- V = 0 in the context table (R255). -/
  | noCtx
  /-- Not present (R256, R258). -/
  | absent (pinned malf : Bool) (lvl : Nat)
deriving DecidableEq, Repr

/-- Steps 3 and 4 of R125, or of R87 for a fetch; 0 if the access passes. -/
def permCause (kind : AKind) (sup : Bool) (p : Word) : Nat :=
  let perm : Nat :=
    match kind with
    | .fetch => if !pteX p || pteType p == 3 then 0x02 else 0
    | .load | .acq => if !pteR p then 0x09 else 0
    | .store | .rel => if !pteW p then 0x0B else 0
    | .amo => if !pteR p then 0x09 else if !pteW p then 0x0B else if !pteA p || pteType p == 3 then 0x0C else 0
  if perm ≠ 0 then perm
  else if pteP p && !sup then (match kind with | .fetch => 0x03 | _ => 0x0D)
  else 0

def AKind.writes : AKind → Bool
  | .store | .amo | .rel => true
  | _ => false

/-- Causes when the context's entry has V = 0 (R255). -/
def noCtxCause : AKind → Nat
  | .fetch => 0x02
  | .load | .acq | .amo => 0x09
  | .store | .rel => 0x0B

/-- An agent below 1024 is a core: its L1 TLB bears that number, and its L2 TLB 4096 more (R261). -/
def isCoreAgent (agent : Nat) : Bool := decide (agent < 1024)
def l2Of (agent : Nat) : Nat := agent + 4096

/-- The agent number of an MTLB. -/
def mtlb (layer hs : Nat) : Nat := 1024 + 16 * layer + hs

/-- TLB entries of an agent that match; the smallest page decides (R265). -/
def State.tlbHits (s : State) (agent layer : Nat) (g : Tag) (die off : Nat) : List TlbEntry :=
  s.tlb.filter (fun e => (e.agent == agent || (isCoreAgent agent && e.agent == l2Of agent)) && e.layer == layer && e.die == die && decide (e.base ≤ off ∧ off < e.base + 2 ^ e.bits) &&
    (decide (e.tag = g) || pteG e.pte) && s.current layer e.tag)

def smallest (es : List TlbEntry) : Option TlbEntry :=
  es.foldl (fun a e => match a with | none => some e | some b => if e.bits < b.bits then some e else a) none

/-- A page's physical address. -/
def pagePa (p : Word) (bits off : Nat) : Nat := pteFrame p / 2 ^ bits * 2 ^ bits + off % 2 ^ bits

/-- DIE 8: the codes 000 and 001 act as 010 (R253). -/
def typeOn (die : Nat) (p : Word) : Nat := if die = 8 ∧ pteType p < 2 then 2 else pteType p

/-- The device writes 8 bytes of a layer's memory at the HS, in its own colour (R259, R269). -/
def State.devWrite (s : State) (layer pa : Nat) (v : Word) : State :=
  s.store .hs s.devColour (physKey layer pa) (bytesOf 8 v.toNat)

/-- Reserved bits of a leaf, which the device writes as zero (R5, R257). -/
def pteReserved : Word := 0x00FE000000000000#64

/-- Sets AC in the pointers passed through, and AC and D in the leaf (R259). -/
def State.setAcD (s : State) (layer : Nat) (ptrs : List Nat) (at_ : Nat) (pte pte' : Word) : State :=
  let s := ptrs.foldl (fun s a =>
    let w : Word := BitVec.ofNat 64 (s.peekNat (physKey layer a) 8)
    if pteAC w then s else s.devWrite layer a (w ||| oneBit 8)) s
  if pte' = pte then s else s.devWrite layer at_ (pte' &&& ~~~ pteReserved)

/-- Little-endian fields of a 64-byte record: (byte, value). -/
def recordLine (fs : List (Nat × Nat)) : Line := BitVec.ofNat 512 (fs.foldl (fun a f => a + f.2 * 256 ^ f.1) 0)

/-- Puts a record in the layer's fault queue and writes the doorbell, or keeps it for later (R267, R269). -/
def State.queueRecord (s : State) (layer : Nat) (r : Line) : State :=
  let y := s.layer layer
  if y.fq.length < 1024 ∧ y.fqWaiting = [] then
    (s.setLayer layer { y with fq := y.fq ++ [r], queued := y.queued + 1 }).devWrite layer 0x20000 (y.queued + 1)
  else s.setLayer layer { y with fqWaiting := y.fqWaiting ++ [r] }

/-- Records that go on waiting, before any that comes. -/
def State.waitRecords (s : State) (layer : Nat) (rs : List Line) : State :=
  let y := s.layer layer
  s.setLayer layer { y with fqWaiting := y.fqWaiting ++ rs }

/-- KIND of a fault record (R267). -/
def AKind.recKind : AKind → Nat
  | .fetch => 0
  | .load | .acq => 1
  | .store | .rel => 2
  | .amo => 3

/-- ORIGIN of a record about an access by a core, or by an MTLB for the layer of a PLACE (R267). -/
def originOf (agent place : Nat) : Nat := place / 256 % 8 + (if isCoreAgent agent then 0 else 8)

/-- A multi-hit (R265): the count, and a TYPE 3 notice that names the address and the larger page's size. -/
def State.multiHitNotice (s : State) (agent layer : Nat) (g : Tag) (kind : AKind) (va : Nat) (place : Nat) (bits : Nat) : State :=
  let y := s.layer layer
  let n := y.multiHit + 1
  let size := if bits = 16 then 1 else if bits = 21 then 2 else if bits = 30 then 3 else 0
  (s.setLayer layer { y with multiHit := n }).queueRecord layer
    (recordLine [(0, 3), (2, kind.recKind), (3, originOf agent place), (8, va), (16, g.ctx.toNat), (18, g.inc.toNat), (19, size * 8), (20, place), (24, n)])

/-- An entry goes into a translation buffer; one of equal size that would match with it is replaced (R265). -/
def State.putTlb (s : State) (agent ways sets : Nat) (e : TlbEntry) : State :=
  let e := { e with agent := agent }
  let rest := s.tlb.filter (fun f => !(f.agent == agent && f.layer == e.layer && f.die == e.die && f.base == e.base &&
    f.bits == e.bits && (decide (f.tag = e.tag) || pteG f.pte || pteG e.pte)))
  let (rest, s) := s.room ways (fun f => f.agent == agent) (fun f => Config.cacheSet 2 (f.base / 2 ^ f.bits) % sets) e rest
  { s with tlb := e :: rest }

/-- R249, R261: a core's L1 TLB has 64 entries and its L2 TLB 2,048 in 8 ways; an MTLB has 512 in 4 ways. -/
def State.install (s : State) (agent : Nat) (e : TlbEntry) : State :=
  if isCoreAgent agent then (s.putTlb (l2Of agent) 8 256 e).putTlb agent 64 1 e else s.putTlb agent 4 128 e

/-- A walker cache holds 64 pointer entries (R261). -/
def State.putWalker (s : State) (w : WalkEntry) : State :=
  let (rest, s) := s.room 64 (fun f => f.agent == w.agent) (fun _ => 0) w s.walkers
  { s with walkers := w :: rest }

/-- Translates an access at `layer` by `agent` (a core, or an MTLB): TLBs first, then a walk that installs an entry.  DEDUCED: a root whose PA
lies outside the layer's HBM is walked as memory that reads 0 (log 23).  DESIGN CHOICE: without a walk the level in DETAIL is 3 (log 111). -/
def State.translate (s : State) (agent layer : Nat) (g : Tag) (sup : Bool) (kind : AKind) (va : Word) (place : Nat) : Xlat × State :=
  let die := dieOf va
  let off := offOf va
  let hits := s.tlbHits agent layer g die off
  let large := hits.foldl (fun a e => max a e.bits) 0
  let s := if hits.any (fun e => decide (e.bits < large)) then s.multiHitNotice agent layer g kind va.toNat place large else s
  let hit := match smallest hits with
    | some e => if kind.writes && !pteD e.pte then none else some e
    | none => none
  match hit with
  | some e =>
    let s := if isCoreAgent agent && e.agent != agent then s.putTlb agent 64 1 e else s
    let c := permCause kind sup e.pte
    if c ≠ 0 then (.deny c, s) else (.ok (pagePa e.pte e.bits off) (typeOn die e.pte), s)
  | none =>
    let ce := s.ctxEntry agent layer g.ctx.toNat
    if !ctxV ce then (.noCtx, s)
    else
      let s := s.cacheCtx agent g.ctx.toNat ce
      let pinned := ctxPinned ce || g.ctx == 0#12
      let root := ctxRoot ce die
      if !root.getLsbD 0 || 2 ^ 48 ≤ off then (.absent pinned false 3, s)
      else
        match s.walkFrom agent layer g die (pteFrame root) (die == 8) off 3 (pteFrame root) [] [] with
        | (.absent malf lvl, _) => (.absent pinned malf lvl, s)
        | (.leaf pte at_ ptrs bits _, seen) =>
          let c := permCause kind sup pte
          if c ≠ 0 then (.deny c, s)
          else
            let pte' := pte ||| oneBit 8 ||| (if kind.writes && pteW pte then oneBit 7 else 0#64)
            let s := s.setAcD layer ptrs at_ pte pte'
            let e : TlbEntry := ⟨agent, layer, g, die, off / 2 ^ bits * 2 ^ bits, bits, pte'⟩
            let s := (seen.foldl State.putWalker s).install agent e
            (.ok (pagePa pte' bits off) (typeOn die pte'), s)

/-! ### Fault groups (R267, R268) -/

/-- The next free group number from `n`, in 1 to 0xFFFF with wrap. -/
def freeGroup (used : Table FaultGroup) : Nat → Nat → Nat
  | 0, n => n
  | fuel + 1, n =>
    let n := if n = 0 ∨ 0xFFFF < n then 1 else n
    if (Table.find used n).isSome then freeGroup used fuel (n + 1) else n

/-- A not-present fault joins or opens a group at a layer; none if the table is full. -/
def State.joinGroup (s : State) (layer : Nat) (g : Tag) (va : Word) (cause kind origin detail place : Nat) : Option Nat × State :=
  let y := s.layer layer
  let fg : FaultGroup := ⟨g, dieOf va, offOf va / 4096⟩
  match y.groups.find? (fun e => decide (e.2 = fg)) with
  | some e => (some e.1, s)
  | none =>
    if 4096 ≤ y.groups.length then (none, s.setLayer layer { y with deferrals := y.deferrals + 1 })
    else
      let n := freeGroup y.groups 4097 y.nextGroup
      let s := s.setLayer layer { y with groups := Table.put y.groups n fg, nextGroup := n % 0xFFFF + 1 }
      (some n, s.queueRecord layer (recordLine
        [(0, 1), (1, cause), (2, kind), (3, origin), (4, n), (8, va.toNat), (16, g.ctx.toNat), (18, g.inc.toNat),
         (19, detail), (20, place)]))

/-- EINFO.KIND (R298). -/
def AKind.code : AKind → Nat
  | .fetch => 0 | .load => 1 | .store => 2 | .amo => 3 | .acq => 4 | .rel => 5

/-- EINFO of causes 0x01 to 0x03 and 0x08 to 0x10 (R298). -/
def memInfo (half pin defd rem : Bool) (kind : AKind) (unit : Nat) (dcount : Nat) : Word :=
  BitVec.ofNat 64 (min dcount 0xFFFF * 2 ^ 48 + (if half then 512 else 0) + (if pin then 256 else 0) + (if defd then 128 else 0) +
    (if rem then 64 else 0) + kind.code * 8 + unit)

/-- The not-present cause of a kind (R125, R87). -/
def absentCause : AKind → Nat
  | .fetch => 0x01
  | .load | .acq => 0x08
  | .store | .rel | .amo => 0x0A

/-- PLACE of a hardware thread (R13). -/
def State.place (s : State) (p : Nat) : Nat := s.basecamp.pkg.toNat * 2 ^ 16 + p

/-- The thread parks with EPC, ECAUSE, EVA and EINFO as for a trap, without entering its handler (R266). -/
def Thread.parkFault (t : Thread) (cause : Nat) (eva einfo : Word) (k : Park) : Thread :=
  { t with
    epc := t.pc, ecause := BitVec.ofNat 64 cause, eva := eva, einfo := einfo, parked := some k, waiting := true, ahead := 0, unissued := 0, buffered := 0
    sent := false, plan := [], got := [], answers := [] }

/-- The request is a read, whose reader may depart (R398). -/
def State.isRead (s : State) (id : Nat) : Bool := s.packets.any fun q => q.id == id && (decide (q.kind = .load) || decide (q.kind = .fetch))

/-- A not-present fault of the current thread on its own layer, 8 or 15 (R266): traps if pinned, else parks, and drops out of the fills that its
instruction has joined (R398). -/
def State.localAbsent (s : State) (kind : AKind) (unit : Nat) (half pinned malf : Bool) (lvl : Nat) (va : Word) (epcAdj : Word) : State :=
  let t := s.th
  let layer := s.myLayer
  let cause := absentCause kind
  if pinned then s.setTh (t.trap cause false epcAdj va (memInfo half true false false kind unit 0))
  else
    let detail := (if malf then 1 else 0) + lvl * 2
    let (g, s) := s.joinGroup layer t.tag va cause kind.recKind layer detail (s.place s.cur)
    let k := match g with | some n => Park.group layer n | none => Park.deferral layer
    s.setTh { t.parkFault cause va (memInfo half false false false kind unit 0) k with epc := epcAdj, reqs := t.reqs.filter fun id => !s.isRead id }

end Sys2Proof.Machine
end

