-- ==== Sys2Proof/Machine/Access.lean ====
section
/-!
DEFINITION. One access of the current thread: its checks (R125 to R127), where it is served (R128), the RDC (R252), the
requests that leave a core (R262, R322), and write signatures (R129, R239).
-/

namespace Sys2Proof.Machine

/-! ### Write signatures (R239) -/

def rot9 (c : Nat) (k : Nat) : Nat := (c * 2 ^ k % 512) + c / 2 ^ (9 - k)

/-- The three hash indices of the line at a virtual address. -/
def sigIndices (va : Nat) : Nat × Nat × Nat :=
  let a := va / 64 % 2 ^ 50
  let c (i : Nat) : Nat := a / 2 ^ (9 * i) % (if i = 5 then 32 else 512)
  (c 0 ^^^ c 1 ^^^ c 2 ^^^ c 3 ^^^ c 4 ^^^ c 5,
   c 0 ^^^ rot9 (c 1) 1 ^^^ rot9 (c 2) 2 ^^^ rot9 (c 3) 3 ^^^ rot9 (c 4) 4 ^^^ rot9 (c 5) 5,
   rot9 (c 0) 4 ^^^ c 1 ^^^ rot9 (c 2) 7 ^^^ rot9 (c 3) 1 ^^^ rot9 (c 4) 5 ^^^ rot9 (c 5) 2)

def sigOf (va : Nat) : Line :=
  let (a, b, c) := sigIndices va
  (1#512 <<< a) ||| (1#512 <<< b) ||| (1#512 <<< c)

def sigHit (sig : Line) (va : Nat) : Bool :=
  let (a, b, c) := sigIndices va
  sig.getLsbD a && sig.getLsbD b && sig.getLsbD c

def popcount {w : Nat} (v : BitVec w) : Nat := (List.range w).foldl (fun n i => if v.getLsbD i then n + 1 else n) 0

/-- A write to DIE 0 to 9 sets its line's bits in psig (R129). -/
def Thread.sign (t : Thread) (va : Word) : Thread :=
  if dieOf va ≤ 9 then { t with psig := t.psig ||| sigOf va.toNat } else t

/-! ### Requests that leave a core -/

def Packet.blank : Packet where
  id := 0
  kind := .load
  src := 0
  tag := Tag.zero
  sup := false
  colour := false
  unit := 0
  va := 0
  n := 0
  data := 0
  mask := 0
  data2 := 0
  reply := 0
  poison := 0
  poison2 := 0
  counted := 0
  joined := []
  orphan := false
  align := 1
  mt := 0
  pa := 0
  path := .direct
  wire := false
  priv := false
  copies := []
  noFill := false
  mute := false
  look := false
  agent := 0
  boxed := false
  pos := 0
  entry := 0
  stage := .toHome

/-- The pair partner of a layer (R323). -/
def partner (l : Nat) : Nat := l ^^^ 1

/-- An item joins a class queue of a layer's station (R310). -/
def State.enqueue (s : State) (layer cls : Nat) (i : Item) : State :=
  let y := s.layer layer
  s.setLayer layer { y with queue := Table.put y.queue cls (Table.at [] y.queue cls ++ [i]) }

def Item.blank : Item := ⟨.rst, 0, 0, Tag.zero, 0, 0, 0#64, 0#64, 0#512, none⟩

/-- R388: the Ridge port of a flow from a cluster to a layer of a package: the hash picks one of those that its mask names. -/
def State.ridgePort (s : State) (cl pkg layer : Nat) : Nat :=
  let ports := (List.range 18).filter (Table.at 0#18 s.basecamp.routes pkg).getLsbD
  ports.getD (Config.flowHash (s.basecamp.pkg.toNat * 128 + cl) (pkg * 8 + layer) % ports.length) 0

/-- The tree that Basecamp's tables set up: this package is the root; its parent; its children (R362, R378). -/
def State.isRoot (s : State) : Bool := (Table.at 0#64 s.basecamp.tree 0).getLsbD 12
def State.parent (s : State) : Nat := ((Table.at 0#64 s.basecamp.tree 0).extractLsb' 0 12).toNat
def State.children (s : State) : List Nat :=
  (((List.range 18).map fun i => Table.at 0#64 s.basecamp.tree (i + 1)).filter fun w => w.getLsbD 12).map fun w => (w.extractLsb' 0 12).toNat

/-- A package is of the pod: a neighbour in the tree, or one that the tables of other packages make a member (log 76). -/
def State.inPod (s : State) (pkg : Nat) : Bool := s.children.contains pkg || (!s.isRoot && s.parent == pkg) || Config.podMember pkg

/-- A Ridge port as an agent (R361), which counts the traffic with pod members apart (R362). -/
def State.ridgeAgent (s : State) (pkg port : Nat) : Nat := port + if s.cairn.pod && s.inPod pkg then 41 else 9

/-- The agent that consumes traffic of a hardware thread to an address, if it is injected now: the home layer, the BD, or the Ridge port by
which it leaves. -/
def State.agentTo (s : State) (src : Nat) (va : Word) : Nat :=
  if dieOf va < 8 then dieOf va
  else if dieOf va = 8 then 8
  else if dieOf va = 9 then s.ridgeAgent (pkgOf va) (s.ridgePort (clusterOf src) (pkgOf va) (va.extractLsb' 37 3).toNat)
  else layerOf src

/-- An ordered item that carries a thread's write counts once as injected at its station, and once as consumed when the BD mirror applies it
or drops it (R405). -/
def State.injectItem (s : State) (i : Item) : State := match i.colour with | some c => s.inject (layerOf i.src) c | none => s
def State.consumeItem (s : State) (i : Item) : State := match i.colour with | some c => s.consume 8 c | none => s

/-- A drop is counted (R338): 0 request, 1 response, 2 ordered, 3 bulk, 4 engine. -/
def State.countDrop (s : State) (layer cls : Nat) : State :=
  let y := s.layer layer
  s.setLayer layer { y with drops := Table.put y.drops cls (Table.at 0 y.drops cls + 1) }

def State.mirrorEntry (s : State) (c : Nat) : IncEntry := Table.at IncEntry.reset s.mirrorInc c

/-- A pair is current in the mirror, which every awake station's table equals. -/
def State.currentNow (s : State) (g : Tag) : Bool := (s.mirrorEntry g.ctx.toNat).cur == g.inc

/-- The layer is asleep as stations judge it (R322). -/
def State.isAsleep (s : State) (l : Nat) : Bool :=
  match (s.layer l).power with
  | .asleep => true
  | .waking _ => true
  | _ => false

/-- The HS whose MTLB translates a remote request (R262). -/
def tsOf (va : Word) : Nat := (List.range 10).foldl (fun t j => t ^^^ (va.toNat / 2 ^ (12 + 4 * j) % 16)) 0

/-- The layer that translates an access of a thread of `layer`: the die named, else its own. -/
def homeOf (layer : Nat) (va : Word) : Nat := if dieOf va < 8 then dieOf va else layer

/-- Requests that the BD holds for a layer (R326). -/
def State.heldFor (s : State) (l : Nat) : List Packet := s.packets.filter (fun p => decide (p.stage = .bdHeld) && dieOf p.va == l)

/-- What the BD holds of stale pairs for a layer goes, and is counted at the layers that sent it (R333, R338). -/
def State.dropHeld (s : State) (l : Nat) : State :=
  let stale := (s.heldFor l).filter fun p => !s.currentNow p.tag
  stale.foldl (fun s p => (s.countDrop (layerOf p.src) 0).consume 8 p.colour)
    { s with packets := s.packets.filter fun p => !(stale.any fun q => q.id == p.id) }

/-- The home can take a request: it is awake, or its wake has reached step 4 (R327). -/
def State.serves (s : State) (l : Nat) : Bool :=
  match (s.layer l).power with
  | .awake | .fenced => true
  | .waking n => decide (4 ≤ n)
  | .asleep => false

/-- The BD forwards a request to the HS that translates it (R327 step 4). -/
def Packet.forwarded (p : Packet) : Packet :=
  { p with stage := .toHome, wire := false, pos := 16 * dieOf p.va + tsOf p.va, entry := 16 * dieOf p.va + tsOf p.va }

/-- A request to a layer goes through the BD: the layer is asleep as the stations judge it, or one of the same cluster to it has gone
that way and has not been acknowledged (R322, R326). -/
def State.hasAtBd (s : State) (cl die : Nat) : Bool :=
  s.isAsleep die || s.packets.any fun q => decide (q.path = .bd) && dieOf q.va == die && clusterOf q.src == cl
def State.viaBd (s : State) (p : Packet) : Bool := s.hasAtBd (clusterOf p.src) (dieOf p.va)

/-- Puts a request on its route (R322): through the BD for a sleeping layer, on the Rope to a layer that is no partner. -/
def State.route (s : State) (p : Packet) : State :=
  let from_ := layerOf p.src
  let die := dieOf p.va
  let send (p : Packet) : State := { s with packets := s.packets ++ [p] }
  if die < 8 ∧ die ≠ from_ then
    if s.viaBd p then
      let p := { p with path := .bd, wire := false }
      if s.serves die then send p.forwarded
      else
        let s := if (s.heldFor die).length < 256 then s else s.dropHeld die
        { s with packets := s.packets ++ [{ p with stage := if (s.heldFor die).length < 256 then .bdHeld else .retry }] }
    else if die = partner from_ then send { p with stage := .toHome, wire := false, path := .direct }
    else
      (send { p with stage := .toHome, wire := true, path := .rope }).enqueue from_ 1
        { Item.blank with op := .request p.id, id := p.id, src := p.src, tag := p.tag }
  else send { p with stage := .toHome, wire := false, path := .direct }

/-- A request of the current thread, with its tag, privilege and colour; answers the state and the number it got. -/
def State.sendNow (s : State) (p : Packet) : State :=
  let t := s.th
  let p := { p with
    id := s.nextId, src := s.cur, tag := t.tag, sup := t.sv, colour := s.colour t, agent := s.agentTo s.cur p.va
    pos := s.myCluster, entry := s.myCluster }
  ({ s with nextId := s.nextId + 1 }.inject (layerOf p.src) p.colour).route p

/-- A request that first waits in the cluster's combining node (R292). -/
def State.sendCombining (s : State) (p : Packet) : State :=
  let t := s.th
  let p := { p with
    id := s.nextId, src := s.cur, tag := t.tag, sup := t.sv, colour := s.colour t, agent := s.agentTo s.cur p.va
    pos := s.myCluster, entry := s.myCluster, stage := .combining }
  { s with nextId := s.nextId + 1, packets := s.packets ++ [p] }.inject (layerOf p.src) p.colour

/-- A request that the oldest instruction waits for. -/
def State.ask (s : State) (p : Packet) : State :=
  let id := s.nextId
  let s := s.sendNow p
  s.setTh { s.th with reqs := s.th.reqs ++ [id], waiting := true }

def State.setPacket (s : State) (p : Packet) : State :=
  { s with packets := s.packets.map (fun q => if q.id == p.id then p else q) }
def State.dropPacket (s : State) (id : Nat) : State := { s with packets := s.packets.filter (fun q => q.id != id) }
def State.packet (s : State) (id : Nat) : Option Packet := s.packets.find? (fun q => q.id == id)

def lineVa (va : Word) : Nat := va.toNat / 64 * 64

/-! ### What of the thread's own is still in flight -/

/-- The request has not been performed yet. -/
def Packet.pending (p : Packet) : Bool :=
  match p.stage with
  | .done | .denied _ | .failed _ _ => false
  | _ => true

/-- A response is on its way: the request has been answered at its home, denied or turned back there. -/
def Packet.answered (p : Packet) : Bool := !p.pending || p.stage == .turned

/-- A request is consumed at its home, a response at the layer that asked (R361). -/
def State.consumePacket (s : State) (p : Packet) : State := s.consume (if p.answered then layerOf p.src else p.agent) p.colour

/-- Posted requests count in ors and are answered by an acknowledgement or a denial (R128). -/
def PktKind.posted : PktKind → Bool
  | .store | .line | .sigclr | .radd _ => true
  | _ => false

/-- A PHINT's prefetch, which is dropped where it would fault (R46). -/
def PktKind.isHint : PktKind → Bool
  | .hint _ => true
  | _ => false

/-- A PREF asks the home for its checks, and for the line of a page that caches hold (R131). -/
def PktKind.isPref : PktKind → Bool
  | .pref _ => true
  | _ => false

/-- A whole line comes back and fills the RDC (R252). -/
def PktKind.fills : PktKind → Bool
  | .load | .fetch | .hint _ | .pref _ => true
  | _ => false

def Packet.isStore (p : Packet) : Bool :=
  match p.kind with
  | .store | .line => true
  | _ => false

def Packet.isRadd (p : Packet) : Bool :=
  match p.kind with
  | .radd _ => true
  | _ => false

/-- Bytes of a sync object at `o` that a SIGCLR writes, FULL and SIG, overlap `n` bytes from `va` (R141, R406). -/
def clearCovers (o va n : Nat) : Bool :=
  decide (o + 8 < va + n ∧ va < o + 9) || decide (o + 64 < va + n ∧ va < o + 128)

/-- The bytes that a request writes overlap `n` bytes from `va`. -/
def Packet.covers (p : Packet) (va n : Nat) : Bool :=
  match p.kind with
  | .sigclr => clearCovers p.va.toNat va n
  | _ => decide (p.va.toNat < va + n ∧ va < p.va.toNat + p.n)

/-- The thread's requests in flight. -/
def State.mine (s : State) : List Packet := s.packets.filter (fun p => p.src == s.cur || p.joined.contains s.cur)

/-- A pending RADD or SIGCLR of the thread that overlaps the bytes: a read waits for it (R128, R135, R141). -/
def State.mustWait (s : State) (va n : Nat) : Bool :=
  s.mine.any (fun p => p.pending && (p.isRadd || p.kind == .sigclr) && p.covers va n)

/-- A RADD on the memory of the thread's own layer, through whichever page: it does not count in ors (R135). -/
def Packet.ownRadd (p : Packet) : Bool := p.isRadd && p.counted == 0

/-- Every earlier own-layer write of the thread has been performed: none waits at a home of its own layer. -/
def State.localDone (s : State) : Bool := !(s.mine.any (fun p => p.pending && (isLocal s.myLayer p.va || p.ownRadd)))

/-- The thread's stores to the BD that have not been performed (R232: device accesses are in program order). -/
def State.bdPending (s : State) : Bool := s.mine.any (fun p => p.pending && dieOf p.va == 8)

/-- A write that is under way may be to a device page: the page is one, or its home has not said (R127). -/
def Packet.maybeDevice (p : Packet) : Bool :=
  p.pending && p.kind.posted && (p.mt == 3 || (match p.stage with | .atHome _ => false | _ => !p.isRadd && dieOf p.va != 8))

/-- An access to a device page of the own layer waits for the thread's earlier writes to device pages (R127, R232). -/
def State.deviceWaits (s : State) (mt : Nat) : Bool := mt == 3 && s.mine.any Packet.maybeDevice

/-- A write or a release on the own layer waits for the thread's RADDs to the lines it writes (R135, R232). -/
def State.raddWaits (s : State) (key n : Nat) : Bool :=
  s.mine.any fun p => p.pending && p.ownRadd &&
    decide (key / 64 ≤ physKey s.myLayer p.pa / 64 ∧ physKey s.myLayer p.pa / 64 * 64 < key + n)

/-! ### The thread's Rope writes in flight (R145 to R148, R406) -/

def RopeOp.isWrite : RopeOp → Bool
  | .rst | .rstRel | .ramo _ | .rcas | .sigclr => true
  | _ => false

/-- Bytes of the window that an item writes. -/
def Item.covers (i : Item) (off n : Nat) : Bool :=
  match i.op with
  | .rst | .ramo _ | .rcas => decide (i.off < off + n ∧ off < i.off + i.n)
  | .rstRel => decide (i.off < off + n ∧ off < i.off + 128)
  | .sigclr => clearCovers i.off off n
  | _ => false

/-- Ordered items of a layer that no replica has applied. -/
def State.orderedItems (s : State) (layer : Nat) : List Item :=
  let y := s.layer layer
  Table.at [] y.retrans 0 ++ Table.at [] y.queue 0 ++
    (s.air.filter (fun x => x.tx == layer && x.cls == 0)).flatMap (·.items)

def State.myRope (s : State) : List Item := (s.orderedItems s.myLayer).filter (fun i => i.op.isWrite && i.src == s.cur)

/-! ### The Rope window (R319, R320) -/

def ropeKey (station off : Nat) : Nat := station * 65536 + off
def State.ropeRead (s : State) (station off n : Nat) : Nat := valOf (Memory.readBytes s.rope (ropeKey station off) n)

/-- The grant check that stands for step 3 of R125 on DIE 14 (R320). -/
def State.grantedAt (s : State) (layer : Nat) (c : BitVec 12) (off n : Nat) : Bool :=
  if c = 0#12 then true
  else
    let e := s.ropeRead layer (4 * c.toNat) 4
    let first := e % 1024
    let count := e / 1024 % 2048
    decide (e / 2 ^ 31 = 1 ∧ 256 ≤ first ∧ first + count ≤ 1024 ∧ first * 64 ≤ off ∧ off + n ≤ (first + count) * 64)

def State.granted (s : State) (c : BitVec 12) (off n : Nat) : Bool := s.grantedAt s.myLayer c off n

/-! ### Checking an access of the current thread -/

/-- A memory cause of the current instruction. -/
def memTrap (code : Nat) (kind : AKind) (unit : Nat) (va : Word) (s : State) : State :=
  raise code va (memInfo false false false false kind unit 0) s

/-- R125 step 3 on DIE 14: an address outside the grant fails as if R, W or A were clear. -/
def grantCause : AKind → Nat
  | .fetch | .load | .acq => 0x09
  | .store | .rel => 0x0B
  | .amo => 0x09

/-- Steps 1 to 5 of R125 for `n` bytes at `va`.  `rope` is the cause that R127 gives the instruction on DIE 14 (0: allowed),
`noCtx` replaces the cause of R255 for posted atomics (0: none). -/
def State.check (s : State) (unit : Nat) (kind : AKind) (va : Word) (n align rope noCtx : Nat) : Res Target :=
  if !s.formOk va then .stop (memTrap 0x0F kind unit va s)
  else if dieOf va = 14 then
    if rope ≠ 0 then .stop (memTrap rope kind unit va s)
    else if !s.granted s.th.tag.ctx (offOf va) n then .stop (memTrap (grantCause kind) kind unit va s)
    else if va.toNat % align ≠ 0 then .stop (memTrap 0x0E kind unit va s)
    else .ok (.rope (offOf va)) s
  else if isLocal s.myLayer va || dieOf va == 8 then
    let t := s.th
    match s.translate s.myCore s.myLayer t.tag t.sv kind va (s.place s.cur) with
    | (.absent pinned malf lvl, s) => .stop (s.localAbsent kind unit false pinned malf lvl va s.th.pc)
    | (.noCtx, s) => .stop (memTrap (if noCtx ≠ 0 then noCtx else noCtxCause kind) kind unit va s)
    | (.deny c, s) => .stop (memTrap c kind unit va s)
    | (.ok pa mt, s) =>
      if va.toNat % align ≠ 0 then .stop (memTrap 0x0E kind unit va s)
      else if pa < hbmEnd then .ok (.mem (physKey s.myLayer pa) mt) s
      else .ok (.bd (pa - bdBase) mt) s
  else .ok .away s

/-! ### The RDC (R249, R252, R262) -/

/-- An RDC line that serves the current thread's plain read. -/
def State.rdcHit (s : State) (va : Word) : Option RdcLine :=
  let t := s.th
  s.rdc.find? (fun l => l.cl == s.myCluster && l.va == lineVa va && decide (l.tag = t.tag) && s.current s.myLayer l.tag &&
    (t.sv || !l.sup))

/-- Lines on their way to a cluster that its homes have read do not fill its RDC: a drop has come after the read (R231, R237). -/
def State.stopFills (s : State) (cl : Nat) (f : Packet → Nat → Bool) : State :=
  { s with packets := s.packets.map fun p =>
      if !p.pending && clusterOf p.src == cl && p.kind.fills && f p (lineVa p.va) then { p with noFill := true } else p }

/-- An RDC line is that of a cluster, an address and a pair (R249). -/
def RdcLine.isAt (l : RdcLine) (cl va : Nat) (g : Tag) : Bool := l.cl == cl && l.va == va && decide (l.tag = g)

/-- Drops a line of a pair from a cluster's RDC, and with it from the L1Ds of the cluster (R252). -/
def State.rdcDrop (s : State) (cl : Nat) (g : Tag) (va : Nat) : State :=
  { s with rdc := s.rdc.filter fun l => !l.isAt cl va g }.stopFills cl fun p line => line == va && decide (p.tag = g)

/-- Each core whose L1D holds an RDC line makes room for it there (R249). -/
def State.makeL1dRoom (s : State) (l : RdcLine) : State :=
  (List.range 8).foldl (fun s i => if l.cores.getLsbD i then s.spillL1d (8 * l.cl + i) (.remote l.va l.tag) else s) s

/-- The RDC holds 1 MiB in 16 ways (R249); the L1Ds that hold the line already keep it. -/
def State.rdcFill (s : State) (l : RdcLine) : State :=
  let same (m : RdcLine) : Bool := m.isAt l.cl l.va l.tag
  let l := { l with cores := (s.rdc.filter same).foldl (fun c m => c ||| m.cores) l.cores }
  let set (m : RdcLine) : Nat := Config.cacheSet 1 (m.va / 64) % 1024
  let (rest, s) := s.room (s.waysLeft (l.cl / 16) 4 (l.cl % 16) (set l) 16) (fun m => m.cl == l.cl) set l (s.rdc.filter fun m => !same m)
  { s with rdc := l :: rest }.makeL1dRoom l

/-- A prefetch into the L1D of a line that the RDC holds (R46, R131). -/
def State.l1dFill (s : State) (va : Word) : State :=
  match s.rdcHit va with
  | some l =>
    let l' := { l with cores := l.cores ||| (1#8 <<< (s.myCore % 8)) }
    { s with rdc := s.rdc.map fun m => if m = l then l' else m }.makeL1dRoom { l' with cores := 1#8 <<< (s.myCore % 8) }
  | none => s

/-- Bits [8 o, 8 o + 8 n) of a line replaced. -/
def lineSet (d : Line) (o n v : Nat) : Line :=
  let m : Line := ((BitVec.ofNat 512 (2 ^ (8 * n) - 1)) <<< (8 * o))
  (d &&& ~~~ m) ||| ((BitVec.ofNat 512 (v % 2 ^ (8 * n))) <<< (8 * o))

def lineGet (d : Line) (o n : Nat) : Nat := d.toNat / 2 ^ (8 * o) % 2 ^ (8 * n)

/-- A line write: the bytes of `v` whose mask bit is set. -/
def lineMerge (d v : Line) (mask : Word) : Line :=
  (List.range 64).foldl (fun d i => if mask.getLsbD i then lineSet d i 1 (lineGet v i 1) else d) d

/-- The sectors of a line that a mask of bytes covers whole: a write of them clears their poison (R344). -/
def wholeSectors (mask : Word) : BitVec 4 :=
  (List.range 4).foldl (fun p i => if (mask >>> (16 * i)).setWidth 16 == BitVec.allOnes 16 then p ||| (1#4 <<< i) else p) 0#4

/-- A write of the masked bytes of the line at `va` updates the copy in a cluster's RDC that is present under a tag, and allocates
none (R128, R252). -/
def State.rdcMerge (s : State) (cl : Nat) (g : Tag) (va : Nat) (v : Line) (mask : Word) : State :=
  { s with rdc := s.rdc.map fun l =>
      if l.isAt cl va g then
        { l with data := lineMerge l.data v mask, poison := l.poison &&& ~~~ wholeSectors mask } else l }

/-- Bytes [o, o + n) of a line as a mask. -/
def byteSpan (o n : Nat) : Word := BitVec.ofNat 64 ((2 ^ n - 1) * 2 ^ o)

/-- A store of the current thread. -/
def State.rdcStoreLine (s : State) (va : Word) (v : Line) (mask : Word) : State := s.rdcMerge s.myCluster s.th.tag (lineVa va) v mask
def State.rdcStore (s : State) (va : Word) (n v : Nat) : State :=
  s.rdcStoreLine va (lineSet 0#512 (va.toNat % 64) n v) (byteSpan (va.toNat % 64) n)

/-- What a write that is under way makes of the line at `va`. -/
def Packet.over (p : Packet) (va : Nat) (d : Line) : Line :=
  match p.kind with
  | .store => if lineVa p.va == va then lineSet d (p.va.toNat % 64) p.n (lineGet p.data 0 p.n) else d
  | .line | .put => if lineVa p.va == va then lineMerge d p.data p.mask else d
  | .sigclr => if lineVa p.va == va then lineSet d 8 56 0 else if lineVa p.va + 64 == va then 0#512 else d
  | _ => d

/-- The whole sectors of the line at `va` that it writes, which clears their poison (R344). -/
def Packet.cures (p : Packet) (va : Nat) : BitVec 4 :=
  match p.kind with
  | .store => if lineVa p.va == va then wholeSectors (byteSpan (p.va.toNat % 64) p.n) else 0
  | .line | .put => if lineVa p.va == va then wholeSectors p.mask else 0
  | .sigclr => if lineVa p.va == va then 14#4 else if lineVa p.va + 64 == va then 15#4 else 0
  | _ => 0

/-- Requests in the order in which they were issued. -/
def insertById (p : Packet) : List Packet → List Packet
  | [] => [p]
  | q :: r => if p.id < q.id then p :: q :: r else q :: insertById p r
def byId (ps : List Packet) : List Packet := ps.foldl (fun l p => insertById p l) []

/-- The writes of a set that the home has not performed, in program order, over a line (R128: read own write). -/
def overlay (ps : List Packet) (va : Nat) (d : Line) : Line :=
  (byId (ps.filter fun p => p.pending && p.kind.posted)).foldl (fun d p => p.over va d) d

/-- The sectors of a line whose poison they clear. -/
def overlayCures (ps : List Packet) (va : Nat) : BitVec 4 :=
  (ps.filter fun p => p.pending && p.kind.posted).foldl (fun c p => c ||| p.cures va) 0#4

/-- A thread's own. -/
def State.ownOver (s : State) (p va : Nat) (d : Line) : Line := overlay (s.packets.filter fun q => q.src == p) va d
def State.ownCures (s : State) (p va : Nat) : BitVec 4 := overlayCures (s.packets.filter fun q => q.src == p) va

/-- Writes the bytes of a line whose mask bit is set, sector by sector. -/
def State.storeLine (s : State) (lv : Level) (colour : Bool) (key : Nat) (v : Line) (mask : Word) : State :=
  (List.range 4).foldl (fun s j =>
    if (mask >>> (16 * j)).setWidth 16 == BitVec.allOnes 16 then
      s.store lv colour (key + 16 * j) (bytesOf 16 (lineGet v (16 * j) 16))
    else (List.range 16).foldl (fun s i =>
      if mask.getLsbD (16 * j + i) then s.store lv colour (key + 16 * j + i) (bytesOf 1 (lineGet v (16 * j + i) 1)) else s) s) s

/-! ### Reading -/

/-- The answer that the current instruction has for an address and a kind. -/
def State.answer (s : State) (va : Nat) (kind : AKind) : Option Answer :=
  s.th.answers.find? (fun a => a.va == va && decide (a.kind = kind))

/-- The thread meets the word that its request is held for a page that is not present (R266): it parks, unless the group has
been replayed meanwhile. -/
def State.parkHeld (s : State) (a : Answer) (va : Word) : State :=
  let t := s.th
  let t := { t with answers := t.answers.filter fun b => b.held.isNone }
  match s.packet a.id, a.held with
  | some p, some (l, g) =>
    if p.stage = .held g then s.setTh (t.parkFault a.cause va a.einfo (.group l g)) else s.setTh { t with waiting := true }
  | _, _ => s.setTh { t with waiting := true }

/-- HALF of EINFO: the fetch of a second halfword (R298). -/
def State.secondHalf (s : State) (kind : AKind) (va : Word) : Bool := decide (kind = .fetch) && va != s.th.pc

/-- Bytes [o, o + n) of a line touch a poisoned sector. -/
def sectorsHit (p : BitVec 4) (o n : Nat) : Bool :=
  (List.range 4).any fun i => p.getLsbD i && decide (16 * i < o + n ∧ o < 16 * i + 16)

/-- EINFO of poison that an access at `va` has met: REM where the line came from another layer or package (R298). -/
def State.poisonInfo (s : State) (kind : AKind) (unit : Nat) (va : Word) : Word :=
  memInfo (s.secondHalf kind va) false false (!(isLocal s.myLayer va || dieOf va == 8 || dieOf va == 14)) kind unit 0

/-- What a read of `n` bytes answered by its home gives: a cause, poison, or the data. -/
def useAnswer (a : Answer) (va : Word) (n : Nat) (kind : AKind) (unit : Nat) (s : State) : Res (BitVec 1024) :=
  if a.held.isSome then .stop (s.parkHeld a va)
  else if a.cause ≠ 0 then .stop (raise a.cause va a.einfo s)
  else if sectorsHit a.poison (va.toNat % 64) n then .stop (consumePoison va (s.poisonInfo kind unit va) s)
  else .ok a.data s

/-- The address under which the answer to a read stands: its line; a misaligned read is answered by itself (R126). -/
def readKey (va : Word) (align : Nat) : Nat := if va.toNat % align = 0 then lineVa va else va.toNat

/-- A read that another may still join: it is outstanding, or on its way back with no drop after it (R231, R292), from a home of this
package whose line still is what it read, since a reader gets no value that the line has lost before it asked (R246). -/
def State.joinable (s : State) (q : Packet) : Bool :=
  match q.stage with
  | .combining | .toHome | .atHome _ | .held _ | .turned | .retry | .bdHeld => true
  | .done =>
    let key := physKey (homeOf (layerOf q.src) q.va) (q.pa / 64 * 64)
    !q.noFill && q.mt != 3 && decide (dieOf q.va < 8) && decide (q.reply = BitVec.ofNat 1024 (s.peekNat key 64)) && q.poison == s.linePoison key
  | _ => false

/-- The readers of a request: its own thread, unless the copy engine asked, those that joined, and copies. -/
def Packet.readers (q : Packet) : Nat := (if q.unit = 3 then 0 else 1) + q.joined.length + q.copies.length

/-- The request of a reader of a cluster for the same line and pair that a read joins (R292): up to 8 readers, until the fill
returns. -/
def State.readPartner (s : State) (cl : Nat) (g : Tag) (va : Word) : Option Packet :=
  s.packets.find? fun q =>
    s.joinable q && decide (q.kind = .load) && q.unit != 0 && q.unit != 1 && lineVa q.va == lineVa va && q.va.toNat % q.align == 0 &&
      decide (q.tag = g) && clusterOf q.src == cl && decide (q.readers < 8)

/-- Entries in a cluster's combining node. -/
def State.combining (s : State) (cl : Nat) : Nat :=
  (s.packets.filter (fun q => decide (q.stage = .combining) && clusterOf q.src == cl)).length

/-- A request that first waits in the node, if the node has room (R292). -/
def State.sendNode (s : State) (p : Packet) : State := if s.combining s.myCluster < 32 then s.sendCombining p else s.sendNow p

/-- What a thread that joins a held request learns of it. -/
def Packet.heldNews (q : Packet) : List Answer :=
  match q.stage with
  | .held g =>
    [⟨q.id, lineVa q.va, .load, absentCause .load, memInfo false false false true .load q.unit 0, 0, 0, 0, some (dieOf q.va, g)⟩]
  | _ => []

/-- A read of another layer's line: the RDC, an answer, or a request (R128).  `merge` marks reads that may join another
(R292), `look` one that only checks a device page.  Answers the line; the bytes wanted are at `va`. -/
def State.readAwayLine (s : State) (unit : Nat) (kind : AKind) (va : Word) (n align : Nat) (merge : Bool) (look : Bool := false) : Res Line :=
  match (if va.toNat % align = 0 then s.rdcHit va else none) with
  | some l =>
    if sectorsHit l.poison (va.toNat % 64) n then .stop (consumePoison va (s.poisonInfo kind unit va) s)
    else .ok l.data s
  | none =>
    match s.answer (readKey va align) kind with
    | some a => (useAnswer a va n kind unit s).bind fun d s => .ok (d.setWidth 512) s
    | none =>
      if s.th.reqs ≠ [] then .stop s.await
      else
        let p := { Packet.blank with kind := (if kind = .fetch then .fetch else .load), unit := unit, va := va, n := n, align := align, look := look }
        if merge ∧ va.toNat % align = 0 then
          match s.readPartner s.myCluster s.th.tag va with
          | some q =>
            let s := s.setPacket { q with joined := q.joined ++ [s.cur] }
            .stop (s.setTh { s.th with reqs := s.th.reqs ++ [q.id], answers := s.th.answers ++ q.heldNews, waiting := true })
          | none =>
            let id := s.nextId
            let s := s.sendNode p
            .stop (s.setTh { s.th with reqs := s.th.reqs ++ [id], waiting := true })
        else .stop (s.ask p)

/-- The bytes of such a read. -/
def State.readAway (s : State) (unit : Nat) (kind : AKind) (va : Word) (n align : Nat) (merge : Bool) : Res Nat :=
  (s.readAwayLine unit kind va n align merge).bind fun d s => .ok (lineGet d (va.toNat % 64) n) s

/-- The poison that a read of own-layer memory meets (R344). -/
def State.poisonedRead (s : State) (key n : Nat) (kind : AKind) (unit : Nat) (va : Word) : Res Unit :=
  if s.isPoisoned key n then .stop (consumePoison va (memInfo false false false false kind unit 0) s) else .ok () s

/-- What BD memory holds at an offset of the region, for a device read (R379); outbound and unassigned places aside. -/
def bdMapped (pa n : Nat) : Bool :=
  decide (pa + n ≤ 0x10000) || decide (0x100000 ≤ pa ∧ pa + n ≤ 0x180000)
def bdOutbound (pa n : Nat) : Bool := decide (0x8000000000 ≤ pa ∧ pa + n ≤ 0x10000000000)

/-- A read of the BD region waits for the thread's earlier writes there, and those to device pages (R127, R232). -/
def State.bdWaits (s : State) (mt : Nat) : Bool := s.bdPending || s.deviceWaits mt

/-- Reads `n` bytes of the BD region: of the BD's memory at once, through the layer's HS but for a device page (R253); of the outbound window by a request to the host (R379, R385). -/
def State.readBd (s : State) (unit : Nat) (kind : AKind) (va : Word) (n align pa mt : Nat) (req : PktKind) : Res Nat :=
  if bdMapped pa n then
    if s.bdWaits mt then .stop s.await else .ok (s.bdSee s.myLayer pa n mt).1 (s.bdSee s.myLayer pa n mt).2
  else if bdOutbound pa n then
    match s.answer va.toNat kind with
    | some a => (useAnswer a va n kind unit s).bind fun d s => .ok (d.toNat % 2 ^ (8 * n)) s
    | none =>
      if s.th.reqs ≠ [] || s.bdWaits mt then .stop s.await
      else .stop (s.ask { Packet.blank with kind := req, unit := unit, va := va, n := n, align := align, pa := pa, mt := mt })
  else .stop (memTrap 0x09 kind unit va s)

/-- Reads `n` bytes of one line for the current thread (R128, R130): the value, or the instruction stops. -/
def State.readSpan (s : State) (unit : Nat) (kind : AKind) (va : Word) (n align : Nat) (merge : Bool) : Res Nat :=
  (s.check unit kind va n align 0 0).bind fun tg s =>
    match tg with
    | .mem key mt =>
      if s.mustWait va.toNat n || s.deviceWaits mt then .stop s.await
      else (s.poisonedRead key n kind unit va).bind fun _ s => .ok (s.peekNat key n) s
    | .rope off =>
      if s.myRope.any (fun i => i.covers off n) then .stop s.await
      else .ok (s.ropeRead s.myLayer off n) s
    | .bd pa mt => s.readBd unit kind va n align pa mt (if kind = .acq then .acq else .load)
    | .away =>
      if s.mustWait va.toNat n then .stop s.await
      else s.readAway unit kind va n align merge

/-- A part of a line that a load has read stays read while others wait. -/
def State.readPart (s : State) (i unit : Nat) (va : Word) (n align : Nat) (merge : Bool) : Res Nat :=
  match Table.find s.th.got i with
  | some v => .ok v s
  | none =>
    (s.readSpan unit .load va n align merge).bind fun v s => .ok v (s.setTh { s.th with got := Table.put s.th.got i v })

/-- An answer from the BD or from a device page serves one element, row or line: the next is read itself (R164, R174, R253). -/
def State.spend (s : State) (va : Word) (align : Nat) : State :=
  let key := if dieOf va = 8 then va.toNat else readKey va align
  s.setTh { s.th with answers := s.th.answers.filter fun a => !(a.va == key && (dieOf va == 8 || a.mt == 3)) }

/-- An element, row or line that a load of several has read stays read while others wait: each is read once (R164, R174). -/
def State.readOnce (s : State) (i unit : Nat) (va : Word) (n align : Nat) (merge : Bool) : Res Nat :=
  match Table.find s.th.got i with
  | some v => .ok v s
  | none => (s.readPart i unit va n align merge).bind fun v s => .ok v (s.spend va align)

/-! ### Writing -/

/-- The level at which a core's own-layer store is performed, by memory type (R253). -/
def storeLevel (core mt : Nat) : Level :=
  if mt = 0 then .l1d core else if mt = 3 then .mem else .hs

/-- A store is folded into the fingerprint with its address (R350). -/
def Thread.foldStore (t : Thread) (va : Word) (n v : Nat) : Thread :=
  if t.paired then t.fold (bytesOf 8 va.toNat ++ bytesOf n v) else t

/-- The memory type that the home of an address gives a store of the current thread, as its tables stand when the store retires (log 116); in
another package a free value (R253, log 66). -/
def State.awayType (s : State) (va : Word) : Nat × State :=
  let layer := dieOf va
  if layer < 8 then
    match (s.translate (mtlb layer (tsOf va)) layer s.th.tag s.th.sv .store va (s.place s.cur)).1 with
    | .ok _ mt => (mt, s)
    | _ => (0, s)
  else ((Config.freeWord s.free).toNat % 4, { s with free := s.free + 1 })

/-- A store to a device page is irrevocable (R345). -/
def Thread.irrevIf (t : Thread) (mt : Nat) : Thread := if mt = 3 then t.irrev else t

/-- Writes `n` bytes for the current thread (R128): performed on the own layer, sent to another.  psig is not touched.  A write to a
device page waits while its controller stalls it (R365). -/
def State.writeRaw (s : State) (unit : Nat) (va : Word) (n v : Nat) (tg : Target) : Res Unit :=
  match tg with
  | .mem key mt =>
    if s.raddWaits key n || s.deviceWaits mt then .stop s.await
    else if mt = 3 ∧ s.stallsAt (key / 16) (s.colour s.th) then .stop (s.want (key / 16) false).await
    else
    let s := s.store (storeLevel s.myCore mt) (s.colour s.th) key (bytesOf n v)
    .ok () (s.setTh ((s.th.irrevIf mt).foldStore va n v))
  | .rope _ => .stop (memTrap 0x0B .store unit va s)
  | .bd pa mt =>
    if 256 ≤ s.th.ors then .stop s.await
    else
      let s := s.sendNow { Packet.blank with kind := .store, unit := unit, va := va, n := n, data := BitVec.ofNat 512 v, mt := mt, pa := pa, counted := 1 }
      let t := (s.th.irrevIf mt).foldStore va n v
      .ok () (s.setTh { t with ors := t.ors + 1 })
  | .away =>
    if 256 ≤ s.th.ors then .stop s.await
    else
      let (mt, s) := s.awayType va
      let s := (s.sendNow { Packet.blank with
        kind := .store, unit := unit, va := va, n := n, data := BitVec.ofNat 512 v, mt := mt, counted := 1 }).rdcStore va n v
      .ok () (s.setTh { ((s.th.irrevIf mt).foldStore va n v) with ors := s.th.ors + 1 })

/-- A plain store: the write enters psig (R129). -/
def State.writeTo (s : State) (unit : Nat) (va : Word) (n v : Nat) (tg : Target) : Res Unit :=
  (s.writeRaw unit va n v tg).bind fun _ s => .ok () (s.setTh (s.th.sign va))

/-- Where a posted access goes once its checks have passed.  A misaligned one to another home is not posted: the home makes its
checks, and the first cause that it finds comes back to the instruction (R9, R125). -/
def State.aligned (s : State) (kind : AKind) (unit : Nat) (va : Word) (align : Nat) (tg : Target) : Res Target :=
  if tg = .away ∧ va.toNat % align ≠ 0 then
    match s.answer va.toNat kind with
    | some a => (useAnswer a va 1 kind unit s).bind fun _ s => .stop (memTrap 0x0E kind unit va s)
    | none =>
      if s.th.reqs ≠ [] then .stop s.await
      else .stop (s.ask { Packet.blank with kind := .probe kind, unit := unit, va := va, n := 1, align := align })
  else .ok tg s

/-- The checks of a posted access of `n` bytes (R125). -/
def State.checkPosted (s : State) (kind : AKind) (unit : Nat) (va : Word) (n align rope noCtx : Nat) : Res Target :=
  (s.check unit kind va n align rope noCtx).bind fun tg s => s.aligned kind unit va align tg

/-- A store of `n` bytes with its checks. -/
def State.writeSpan (s : State) (unit : Nat) (va : Word) (n align v : Nat) : Res Unit :=
  (s.checkPosted .store unit va n align 0x0B 0).bind fun tg s => s.writeTo unit va n v tg

end Sys2Proof.Machine
end

