-- ==== Sys2Proof/Machine/Operands.lean ====
section
/-!
DEFINITION. Operand forms: immediates, the W forms, addresses, and the arithmetic of the integer instructions
(R78 to R84).
-/

namespace Sys2Proof.Machine

/-- sext(imm12, 64). -/
def imm12 (i : BitVec 12) : Word := i.signExtend 64
/-- sext(imm20 << 12, 64). -/
def imm20 (i : BitVec 20) : Word := (i ++ 0#12).signExtend 64
/-- A branch offset: off[12:1] with bit 0 clear, sign-extended (R38). -/
def branchOff (i : BitVec 12) : Word := (i ++ 0#1).signExtend 64
/-- A JAL offset: off[20:1] with bit 0 clear, sign-extended (R39). -/
def jumpOff (i : BitVec 20) : Word := (i ++ 0#1).signExtend 64

/-- x[rs1] + sext(imm12, 64), modulo 2^64 (R130). -/
def Thread.addr (t : Thread) (a : Reg) (i : BitVec 12) : Word := t.rx a + imm12 i

/-- sext(result[31:0], 64) (R80). -/
def wide (r : BitVec 32) : Word := r.signExtend 64
def low32 (a : Word) : BitVec 32 := a.setWidth 32
def bool64 (b : Bool) : Word := if b then 1#64 else 0#64

/-- The shift count of a 64-bit shift: b[5:0] (R78); of a 32-bit one: b[4:0] (R80). -/
def cnt6 (b : Word) : Nat := b.toNat % 64
def cnt5 (b : BitVec 32) : Nat := b.toNat % 32

def sll (a : Word) (n : Nat) : Word := a <<< n
def srl (a : Word) (n : Nat) : Word := a >>> n
def sra (a : Word) (n : Nat) : Word := a.sshiftRight n
def rol (a : Word) (n : Nat) : Word := if n = 0 then a else (a <<< n) ||| (a >>> (64 - n))
def ror (a : Word) (n : Nat) : Word := if n = 0 then a else (a >>> n) ||| (a <<< (64 - n))

def minS (a b : Word) : Word := if a.slt b then a else b
def maxS (a b : Word) : Word := if a.slt b then b else a
def minU (a b : Word) : Word := if a < b then a else b
def maxU (a b : Word) : Word := if a < b then b else a

/-- The high half of the exact product (R81). -/
def mulh (a b : Word) : Word := BitVec.ofInt 64 (a.toInt * b.toInt / 2 ^ 64)
def mulhu (a b : Word) : Word := BitVec.ofNat 64 (a.toNat * b.toNat / 2 ^ 64)

/-- R81, R82: the signed quotient of two `w`-bit numbers, with the corner cases. -/
def divS {w : Nat} (a b : BitVec w) : BitVec w :=
  if b = 0#w then
    (if a = 0#w then 0#w else if a.msb then BitVec.intMin w else BitVec.intMax w)
  else if a = BitVec.intMin w ∧ b = BitVec.allOnes w then BitVec.intMax w
  else BitVec.ofInt w (a.toInt.tdiv b.toInt)

def divU {w : Nat} (a b : BitVec w) : BitVec w :=
  if b = 0#w then (if a = 0#w then 0#w else BitVec.allOnes w) else BitVec.ofNat w (a.toNat / b.toNat)

/-- The remainder: dividend − divisor × quotient, modulo 2^w (R82). -/
def remS {w : Nat} (a b : BitVec w) : BitVec w := a - b * divS a b
def remU {w : Nat} (a b : BitVec w) : BitVec w := a - b * divU a b

/-- The number of leading zero bits (R83): counted from bit `n - 1` down. -/
def clzFrom (a : Word) : Nat → Nat
  | 0 => 0
  | n + 1 => if a.getLsbD n then 0 else clzFrom a n + 1
/-- The number of trailing zero bits below bit `n`, counted from bit `64 - n` up. -/
def ctzFrom (a : Word) : Nat → Nat
  | 0 => 0
  | n + 1 => if a.getLsbD (63 - n) then 0 else ctzFrom a n + 1

def bswap (a : Word) : Word := BitVec.ofNat 64 (valOf (bytesOf 8 a.toNat).reverse)

/-- `a` with bits [55:52] replaced (R83). -/
def setDie (a : Word) (d : BitVec 4) : Word := (a &&& ~~~ (0xF#64 <<< 52)) ||| (d.setWidth 64 <<< 52)

/-! ### The shapes of the integer instructions -/

/-- rd := f(x[rs1], x[rs2]) (R76). -/
def aluR (f : Word → Word → Word) (d a b : Reg) (s : State) : Out :=
  finish 4 s fun t => t.wx d (f (t.rx a) (t.rx b))

/-- rd := f(x[rs1]). -/
def aluI (f : Word → Word) (d a : Reg) (s : State) : Out :=
  finish 4 s fun t => t.wx d (f (t.rx a))

/-- A W form: the low halves, then sext (R80). -/
def aluW (f : BitVec 32 → BitVec 32 → BitVec 32) (d a b : Reg) (s : State) : Out :=
  finish 4 s fun t => t.wx d (wide (f (low32 (t.rx a)) (low32 (t.rx b))))
def aluWI (f : BitVec 32 → BitVec 32) (d a : Reg) (s : State) : Out :=
  finish 4 s fun t => t.wx d (wide (f (low32 (t.rx a))))

/-- A tile instruction of the thread is in flight: not a marker alone (R280). -/
def Thread.inFlight (t : Thread) : Bool := t.te.any fun e => e.op != 2

/-- A conditional branch takes a checkpoint of the rename map while a tile instruction is in flight (R280, log 78). -/
def Thread.mark (t : Thread) : Thread :=
  if !t.inFlight then t else { t with checkpoints := t.checkpoints ++ [⟨t.teSeq, t.plane0, t.plane1⟩] }
/-- There is room for it: 24 at most (R280). -/
def Thread.canMark (t : Thread) : Bool := !t.inFlight || decide (t.checkpoints.length < 24)

/-- A conditional branch (R85); one that finds no room for its checkpoint waits for an earlier one to resolve (R280). -/
def branch (cond : Word → Word → Bool) (len : Nat) (a b : Reg) (off : Word) (s : State) : Out :=
  let t := s.th
  if t.canMark then
    .next (s.setTh (if cond (t.rx a) (t.rx b) then t.mark.jump (t.pc + off) else t.mark.complete len))
  else .next s.await

/-- JAL: the link, then the target (R86). -/
def jumpLink (d : Reg) (len : Nat) (target : Thread → Word) (s : State) : Out :=
  let t := s.th
  let link := t.pc + BitVec.ofNat 64 len
  .next (s.setTh ((t.wx d link).jump (target t)))

end Sys2Proof.Machine
end

