-- ==== Sys2Proof/Machine/Control.lean ====
section
/-!
DEFINITION. Branches, jumps, hardware loops, the fetch barrier and the allocated hints (R46, R85 to R95).
-/

namespace Sys2Proof.Machine

/-- R85. -/
def execBeq (a b : Reg) (i : BitVec 12) (s : State) : Out := branch (fun a b => a == b) 4 a b (branchOff i) s
/-- R85. -/
def execBne (a b : Reg) (i : BitVec 12) (s : State) : Out := branch (fun a b => a != b) 4 a b (branchOff i) s
/-- R85. -/
def execBlt (a b : Reg) (i : BitVec 12) (s : State) : Out := branch (fun a b => a.slt b) 4 a b (branchOff i) s
/-- R85. -/
def execBge (a b : Reg) (i : BitVec 12) (s : State) : Out := branch (fun a b => !a.slt b) 4 a b (branchOff i) s
/-- R85. -/
def execBltu (a b : Reg) (i : BitVec 12) (s : State) : Out := branch (fun a b => decide (a < b)) 4 a b (branchOff i) s
/-- R85. -/
def execBgeu (a b : Reg) (i : BitVec 12) (s : State) : Out := branch (fun a b => !decide (a < b)) 4 a b (branchOff i) s

/-- R86. -/
def execJal (d : Reg) (i : BitVec 20) (s : State) : Out := jumpLink d 4 (fun t => t.pc + jumpOff i) s
/-- R86: the target is computed from the value x[rs1] held before the jump, with bit 0 cleared. -/
def execJalr (d a : Reg) (i : BitVec 12) (s : State) : Out := jumpLink d 4 (fun t => t.addr a i &&& ~~~ 1#64) s

/-- R90: level `l` is armed; a count of 0 skips the body.  Neither case transfers control, so the loop-end test of R91 follows:
at LENDn for a count of 0, else at pc + 4, which only the other level can end at. -/
def loopArm (l : BitVec 1) (count : BitVec 32) (i : BitVec 12) (s : State) : Out :=
  let t := s.th
  let lbeg := t.pc + 4#64
  let lend := t.pc + (i.setWidth 64 <<< 1)
  let t := if l = 0#1 then { t with lbeg0 := lbeg, lend0 := lend, lc0 := count }
    else { t with lbeg1 := lbeg, lend1 := lend, lc1 := count }
  .next (s.setTh (t.retire.loopEnd (if count = 0#32 then lend else lbeg)))

/-- R90: min(x[rs1] as unsigned, 2^32 − 1). -/
def execLoop (l : BitVec 1) (a : Reg) (i : BitVec 12) (s : State) : Out :=
  legal (.loop l a i) s
    (loopArm l (if s.th.rx a < 0x100000000#64 then (s.th.rx a).setWidth 32 else 0xFFFFFFFF#32) i s)

/-- R90: the immediate count. -/
def execLoopi (l : BitVec 1) (n : BitVec 10) (i : BitVec 12) (s : State) : Out :=
  legal (.loopi l n i) s (loopArm l (n.setWidth 32) i s)

/-- A deferred denial is raised at an instruction that R128 lists, before it has any effect. -/
def raiseDenial (s : State) : Res Unit :=
  match s.th.denial with
  | some d =>
    let t := { s.th with denial := none }
    .stop (s.setTh (t.trap d.cause false t.pc d.va (memInfo false (d.cause == 0x0A) true (dieOf d.va != 8) d.kind d.unit d.more)))
  | none => .ok () s

/-- R94: waits for the thread's earlier stores, raises a deferred denial (R128), and discards what has been fetched. -/
def execFetchb (s : State) : Out :=
  ((raiseDenial s).bind fun _ s =>
    if s.th.ors ≠ 0 ∨ !s.localDone ∨ s.bdPending then .stop s.await
    else .ok () (s.setTh { (s.th.complete 4) with ahead := 0, unissued := 0, buffered := 0 })).out

/-- Threads of the current thread's cluster. -/
def State.clusterThreads (s : State) : List Thread := (List.range 16).map fun i => s.thread (16 * s.myCluster + i)

/-- Shared spare registers in use beyond one reserved for each thread (R279). -/
def sharedTaken (count : Thread → Nat) (ts : List Thread) : Nat := ts.foldl (fun n t => n + (count t - 1)) 0

def Thread.tilesTaken (t : Thread) : Nat := t.te.foldl (fun n e => n + e.tiles) 0
def Thread.accsTaken (t : Thread) : Nat := t.te.foldl (fun n e => n + e.accs) 0
def Thread.planesTaken (t : Thread) : Nat := t.te.foldl (fun n e => n + e.planes) 0

/-- The core's TE queue has an entry for the thread: 32 in all, at most 24 of one thread (R276); and a tile, an
accumulator or a plane that the instruction takes is spare (R279). -/
def State.teRoom (s : State) (tiles accs planes : Nat) : Bool :=
  let t := s.th
  let live (t : Thread) : Nat := (t.te.filter fun e => !e.done).length
  decide (live t < 24) && decide (live t + live (s.thread (s.cur ^^^ 1)) < 32) &&
    (tiles == 0 || t.tilesTaken == 0 || decide (sharedTaken Thread.tilesTaken s.clusterThreads < 48)) &&
    (accs == 0 || t.accsTaken == 0 || decide (sharedTaken Thread.accsTaken s.clusterThreads < 16)) &&
    (planes == 0 || t.planesTaken == 0) &&
    -- with TDUP the shadow's core queue takes the operation too (R349)
    (!(t.paired && t.tdup) || (let q := pairOf s.cur
       decide (live (s.thread q) < 24) && decide (live (s.thread q) + live (s.thread (q ^^^ 1)) < 32)))

/-- Appends an entry to the thread's part of the TE queue (R278); an entry that is no array operation has been executed. -/
def Thread.teAppend (t : Thread) (op occ plane other tiles accs planes : Nat) : Thread :=
  { t with te := t.te ++ [⟨t.teSeq, op, occ, t.tag, plane, other, tiles, accs, planes, false, op == 3⟩], teSeq := t.teSeq + 1 }

/-- A multiply of the thread that writes accumulator `d` has not been executed. -/
def Thread.accPending (t : Thread) (d : BitVec 2) : Bool := t.te.any fun e => e.op == 0 && !e.done && e.other == d.toNat

/-- R349: the shadow of a pair with TDUP = 1 runs the array operation that its primary has appended too, in its own core's queue. -/
def State.shadowTe (s : State) : State :=
  if s.th.paired && s.th.tdup then
    match s.th.te.getLast? with
    | some e =>
      let q := s.thread (pairOf s.cur)
      s.setThread (pairOf s.cur) { q with te := q.te ++ [{ e with seq := q.teSeq }], teSeq := q.teSeq + 1 }
    | none => s
  else s

/-- An array operation completes: its effect and its entry (R278), and the shadow's. -/
def arrayDone (s : State) (f : Thread → Thread) : Out := .next (s.setTh ((f s.th).complete 4)).shadowTe

/-- An entry in its core's queue: the thread and the entry. -/
abbrev Queued := Nat × TeEntry

/-- Two lists in decode order, as one. -/
def mergeQueue : (fuel : Nat) → List Queued → List Queued → List Queued
  | _, [], b => b
  | _, a, [] => a
  | 0, a, _ => a
  | fuel + 1, x :: a, y :: b => if y.2.seq < x.2.seq then y :: mergeQueue fuel (x :: a) b else x :: mergeQueue fuel a (y :: b)

/-- A core's queue, in the order in which both its threads decoded (R278): the entries that have not started. -/
def State.coreQueue (s : State) (core : Nat) : List Queued :=
  let of (p : Nat) : List Queued := ((s.thread p).te.filter fun e => !e.done && !e.started).map fun e => (p, e)
  mergeQueue 64 (of (2 * core)) (of (2 * core + 1))

def State.mapEntry (s : State) (p seq : Nat) (f : TeEntry → TeEntry) : State :=
  let t := s.thread p
  s.setThread p { t with te := t.te.map fun e => if e.seq = seq then f e else e }

/-- W of a core (R282). -/
def State.weight (s : State) (core : Nat) : Nat := (s.cluster (core / 8)).engweight.toNat / 16 ^ (core % 8) % 16

/-- R286: markers at the head of a core's queue act and are removed. -/
def State.yields (s : State) (core : Nat) : (fuel : Nat) → State
  | 0 => s
  | fuel + 1 =>
    match s.coreQueue core with
    | (p, e) :: _ =>
      if e.op = 2 then
        let c := s.cluster (core / 8)
        let s := s.mapEntry p e.seq fun e => { e with done := true }
        (if c.cur = some core then s.setCluster (core / 8) { c with used := 4 * s.weight core } else s).yields core fuel
      else s
    | [] => s

/-- R46, R286: TYIELD enters the core's TE queue as a marker, and acts at once if it stands at the head; timing only. -/
def tyield (len : Nat) (s : State) : Out :=
  if s.teRoom 0 0 0 then .next ((s.setTh ((s.th.teAppend 2 0 0 0 0 0 0).complete len)).yields s.myCore 65) else .next s.await

/-- R46, R286. -/
def execTyield (s : State) : Out := tyield 4 s

/-- A prefetch of another layer's or package's line, which nothing waits for: into the RDC, and into the L1D of the core where its target
names that.  Own-layer lines and the BD's have no place of their own in the model's caches (log 14). -/
def State.prefetch (s : State) (target : BitVec 2) (va : Word) : State :=
  if s.formOk va && dieOf va != 14 && dieOf va != 8 && !isLocal s.myLayer va then
    if target ≠ 2#2 ∧ (s.rdcHit va).isSome then (if target = 1#2 then s.l1dFill va else s)
    else s.sendNow { Packet.blank with kind := .hint target, va := va, n := 1, mute := true }
  else s

/-- R46: PHINT prefetches the line into its target, drops a prefetch that would fault, and changes no register and no memory. -/
def execPhint (a : Reg) (i : BitVec 10) (t : BitVec 2) (s : State) : Out :=
  finish 4 (s.prefetch t (s.th.rx a + (i.signExtend 64 <<< 6))) id

/-- R61: ADDI rd, rd, sext(imm6). -/
def execHAddi (d : Reg) (i : BitVec 6) (s : State) : Out :=
  if d = 0#5 ∧ i = 1#6 then tyield 2 s
  else finish 2 s fun t => t.wx d (t.rx d + i.signExtend 64)
/-- R61. -/
def execHMove (d a : Reg) (s : State) : Out := finish 2 s fun t => t.wx d (t.rx a)
/-- R61. -/
def execHAdd (d a : Reg) (s : State) : Out := finish 2 s fun t => t.wx d (t.rx d + t.rx a)
/-- R61: BEQ rs, x0. -/
def execHBz (a : Reg) (i : BitVec 6) (s : State) : Out := branch (fun a b => a == b) 2 a 0#5 ((i ++ 0#1).signExtend 64) s
/-- R61: BNE rs, x0. -/
def execHBnz (a : Reg) (i : BitVec 6) (s : State) : Out := branch (fun a b => a != b) 2 a 0#5 ((i ++ 0#1).signExtend 64) s
/-- R61: JAL x0. -/
def execHJmp (i : BitVec 11) (s : State) : Out := jumpLink 0#5 2 (fun t => t.pc + (i ++ 0#1).signExtend 64) s

end Sys2Proof.Machine
end

