-- ==== Sys2Proof/Machine/Memory.lean ====
section
/-!
DEFINITION. Scalar loads and stores, prefetch, ordering, waiting and barriers (R125 to R131, R136 to R144).
-/

namespace Sys2Proof.Machine

/-! ### Loads and stores (R130) -/

def sextN (n : Nat) (v : Nat) : Word := (BitVec.ofNat (8 * n) v).signExtend 64
def zextN (n : Nat) (v : Nat) : Word := BitVec.ofNat 64 (v % 2 ^ (8 * n))

def loadX (len n : Nat) (ext : Nat → Word) (d : Reg) (va : Word) (s : State) : Out :=
  ((s.readSpan 0 .load va n n false).bind fun v s => .ok () (s.setTh ((s.th.wx d (ext v)).complete len))).out

def storeX (len n : Nat) (va : Word) (v : Word) (s : State) : Out :=
  ((s.writeSpan 0 va n n (v.toNat % 2 ^ (8 * n))).bind fun _ s => .ok () (s.setTh (s.th.complete len))).out

/-- R130. -/
def execLdI8 (d a : Reg) (i : BitVec 12) (s : State) : Out := loadX 4 1 (sextN 1) d (s.th.addr a i) s
/-- R130. -/
def execLdI16 (d a : Reg) (i : BitVec 12) (s : State) : Out := loadX 4 2 (sextN 2) d (s.th.addr a i) s
/-- R130. -/
def execLdI32 (d a : Reg) (i : BitVec 12) (s : State) : Out := loadX 4 4 (sextN 4) d (s.th.addr a i) s
/-- R130. -/
def execLdI64 (d a : Reg) (i : BitVec 12) (s : State) : Out := loadX 4 8 (sextN 8) d (s.th.addr a i) s
/-- R130. -/
def execLdN8 (d a : Reg) (i : BitVec 12) (s : State) : Out := loadX 4 1 (zextN 1) d (s.th.addr a i) s
/-- R130. -/
def execLdN16 (d a : Reg) (i : BitVec 12) (s : State) : Out := loadX 4 2 (zextN 2) d (s.th.addr a i) s
/-- R130. -/
def execLdN32 (d a : Reg) (i : BitVec 12) (s : State) : Out := loadX 4 4 (zextN 4) d (s.th.addr a i) s
/-- R130. -/
def execStI8 (a b : Reg) (i : BitVec 12) (s : State) : Out := storeX 4 1 (s.th.addr a i) (s.th.rx b) s
/-- R130. -/
def execStI16 (a b : Reg) (i : BitVec 12) (s : State) : Out := storeX 4 2 (s.th.addr a i) (s.th.rx b) s
/-- R130. -/
def execStI32 (a b : Reg) (i : BitVec 12) (s : State) : Out := storeX 4 4 (s.th.addr a i) (s.th.rx b) s
/-- R130. -/
def execStI64 (a b : Reg) (i : BitVec 12) (s : State) : Out := storeX 4 8 (s.th.addr a i) (s.th.rx b) s
/-- R61: LD.i64 rd, [x2+off]. -/
def execHLds (d : Reg) (i : BitVec 6) (s : State) : Out := loadX 2 8 (sextN 8) d (s.th.rx 2#5 + (i.setWidth 64 <<< 3)) s
/-- R61: ST.i64 [x2+off], rs. -/
def execHSts (b : Reg) (i : BitVec 6) (s : State) : Out := storeX 2 8 (s.th.rx 2#5 + (i.setWidth 64 <<< 3)) (s.th.rx b) s

/-- The low `n` bytes of an f register's pattern, sign-filled to 64 bits (R113). -/
def signFill (n : Nat) (v : Nat) : Word := (BitVec.ofNat (8 * n) v).signExtend 64

def loadF (n : Nat) (bits : Word) (d a : Reg) (i : BitVec 12) (s : State) : Out :=
  needs 1#3 bits s
    ((s.readSpan 0 .load (s.th.addr a i) n n false).bind fun v s =>
      .ok () (s.setTh ((s.th.wf d (signFill n v)).complete 4))).out

def storeF (n : Nat) (bits : Word) (a b : Reg) (i : BitVec 12) (s : State) : Out :=
  needs 1#3 bits s (storeX 4 n (s.th.addr a i) (s.th.rf b) s)

/-- R130. -/
def execFldF16 (d a : Reg) (i : BitVec 12) (s : State) : Out := loadF 2 (encode (.fldF16 d a i)).bits d a i s
/-- R130. -/
def execFldF32 (d a : Reg) (i : BitVec 12) (s : State) : Out := loadF 4 (encode (.fldF32 d a i)).bits d a i s
/-- R130. -/
def execFldF64 (d a : Reg) (i : BitVec 12) (s : State) : Out := loadF 8 (encode (.fldF64 d a i)).bits d a i s
/-- R130. -/
def execFstF16 (a b : Reg) (i : BitVec 12) (s : State) : Out := storeF 2 (encode (.fstF16 a b i)).bits a b i s
/-- R130. -/
def execFstF32 (a b : Reg) (i : BitVec 12) (s : State) : Out := storeF 4 (encode (.fstF32 a b i)).bits a b i s
/-- R130. -/
def execFstF64 (a b : Reg) (i : BitVec 12) (s : State) : Out := storeF 8 (encode (.fstF64 a b i)).bits a b i s

/-- R131: checks the line as a load (kinds 0 and 2) or as a store (kind 1), with no alignment check; no memory changes, so AC
and D stay as they are.  DEDUCED: for the same reason a multi-hit that the check meets is neither counted nor noticed (log 97). -/
def execPref (k : BitVec 5) (a : Reg) (i : BitVec 12) (s : State) : Out :=
  legal (.pref k a i) s
    (let va := s.th.addr a i
     let kind : AKind := if k = 1#5 then .store else .load
     ((s.check 0 kind va 1 1 0 0).bind fun tg _ =>
       match tg with
       | .away =>
         if kind = .load ∧ (s.rdcHit va).isSome then
           let s := if k = 0#5 then s.l1dFill va else s
           .ok () (s.setTh (s.th.complete 4))
         else
           match s.answer va.toNat kind with
           | some x =>
             if x.held.isSome then .stop (s.parkHeld x va)
             else if x.cause ≠ 0 then .stop (raise x.cause va x.einfo s) else .ok () (s.setTh (s.th.complete 4))
           | none =>
             if s.th.reqs ≠ [] then .stop s.await
             else .stop (s.ask { Packet.blank with kind := .pref k.toNat, va := va, n := 1, mute := true })
       | _ => .ok () (s.setTh (s.th.complete 4))).out)

/-! ### What ordering instructions wait for -/

/-- The thread's copies that have neither completed nor stopped (R139, R199). -/
def State.copiesRunning (s : State) : Bool := s.copies.any (fun c => c.src == s.cur)

/-- Earlier accesses are performed at a scope (R136, R137, R233): 0 cluster, 1 die, 2 package, 3 system. -/
def State.performedAt (s : State) (scope : BitVec 2) : Bool :=
  if scope = 1#2 then s.localDone else s.localDone && s.th.ors == 0

/-- R137. -/
def execFence (p : BitVec 2) (s : State) : Out :=
  ((if p.getLsbD 1 then raiseDenial s else .ok () s).bind fun _ s =>
    if s.performedAt p then .ok () (s.setTh (s.th.complete 4)) else .stop s.await).out

/-- R141: raises a deferred denial, then parks until ors = 0. -/
def execOrswait (s : State) : Out :=
  ((raiseDenial s).bind fun _ s =>
    if s.th.ors = 0 then .ok () (s.setTh (s.th.complete 4)) else .stop (s.parkOn .orswait)).out

/-- R141: v[rd] := psig; needs VEN. -/
def execSigrd (d : Reg) (s : State) : Out :=
  needs 2#3 (encode (.sigrd d)).bits s (finish 4 s fun t => t.wv d t.psig)

/-! ### Sync objects (R138) -/

/-- FULL and SIG of a sync object after a release merges a signature into it; VALUE stays, and the reserved bits are written as
zero (R5). -/
def mergeSig (obj : BitVec 1024) (sig : Line) : BitVec 1024 :=
  let sig' : Line := obj.extractLsb' 512 512 ||| sig
  let obj := (obj &&& (BitVec.allOnes 65).setWidth 1024) ||| (sig'.setWidth 1024 <<< 512)
  if 192 ≤ popcount sig' then obj ||| (1#1024 <<< 64) else obj

/-- A release: SIG, FULL and VALUE, as one step (R139). -/
def releaseObj (obj : BitVec 1024) (sig : Line) (n v : Nat) : BitVec 1024 :=
  let obj := mergeSig obj sig
  BitVec.ofNat 1024 (obj.toNat / 2 ^ (8 * n) * 2 ^ (8 * n) + v % 2 ^ (8 * n))

/-- SIGCLR: SIG := 0, FULL := 0 (R141); reserved bits are written as zero (R5). -/
def clearSig (obj : BitVec 1024) : BitVec 1024 := obj &&& (BitVec.allOnes 64).setWidth 1024

def State.peekObj (s : State) (key : Nat) : BitVec 1024 := BitVec.ofNat 1024 (s.peekNat key 128)
/-- The first line of an object is written: VALUE and FULL are part of a sector, so its poison stays; the reserved sectors are
written whole (R344). -/
def State.pokeHead (s : State) (lv : Level) (colour : Bool) (key v : Nat) : State :=
  (s.update lv colour key (bytesOf 16 v)).store lv colour (key + 16) (bytesOf 48 0)
/-- A release writes the object: SIG takes in what stood there, so its poison stays. -/
def State.pokeObj (s : State) (lv : Level) (colour : Bool) (key : Nat) (o : BitVec 1024) : State :=
  (s.pokeHead lv colour key o.toNat).update lv colour (key + 64) (bytesOf 64 (o.toNat / 2 ^ 512))
/-- A SIGCLR writes SIG whole. -/
def State.clearObj (s : State) (lv : Level) (colour : Bool) (key : Nat) : State :=
  (s.pokeHead lv colour key (clearSig (s.peekObj key)).toNat).store lv colour (key + 64) (bytesOf 64 0)

/-- The width code of R54: 2 and 3 are 32 and 64 bits; the decoded field is its low bit. -/
def widthN (w : BitVec 1) : Nat := if w = 0#1 then 4 else 8

/-! ### Acquire (R140) -/

/-- The lines of the thread's context that an acquire drops: those in the data of the scope that hit. -/
def State.acquireDrops (s : State) (sys full : Bool) (sig : Line) (l : RdcLine) : Bool :=
  l.cl == s.myCluster && l.tag.ctx == s.th.tag.ctx && (sys || decide (l.va / 2 ^ 52 % 16 ≠ 9)) && (full || sigHit sig l.va)

/-- The effect of an acquire on the RDC and on the thread, given the sync object it read.  SELINV counts the lines of the RDC and of
the L1D of the thread's core (R140, R242). -/
def State.acquire (s : State) (sys : Bool) (va : Word) (away : Bool) (n : Nat) (d : Reg) (obj : BitVec 1024) : State :=
  let s := if away then s.rdcDrop s.myCluster s.th.tag (lineVa va) else s
  let full := obj.getLsbD 64
  let sig : Line := obj.extractLsb' 512 512
  let drops (l : RdcLine) : Bool := s.acquireDrops sys full sig l
  let dropped := (s.rdc.filter drops).foldl (fun n l => n + 1 + (if l.cores.getLsbD (s.myCore % 8) then 1 else 0)) 0
  let s := ({ s with rdc := s.rdc.filter (fun l => !drops l) } : State).stopFills s.myCluster fun p line =>
    drops ⟨clusterOf p.src, line, p.tag, p.sup, 0, 0, 0⟩
  let t := s.th
  let cap (n : Nat) : BitVec 16 := BitVec.ofNat 16 (min n 0xFFFF)
  let t := if full then { t with fullAcq := cap (t.fullAcq.toNat + 1) } else { t with selInv := cap (t.selInv.toNat + dropped) }
  let t := { t with psig := t.psig ||| sig }
  s.setTh ((t.wx d (sextN n (obj.toNat % 2 ^ (8 * n)))).complete 4)

/-- R140.  Cluster and die scope read only; package and system scope acquire, and any Rope-window address does at package scope
(R127). -/
def execLdAcq (w : BitVec 1) (p : BitVec 2) (d a : Reg) (s : State) : Out :=
  let n := widthN w
  let va := s.th.rx a
  if dieOf va ≠ 14 ∧ !p.getLsbD 1 then
    ((s.check 0 .acq va n n 0 0).bind fun tg s =>
      let done (s : State) (v : Nat) : Res Unit := .ok () (s.setTh ((s.th.wx d (sextN n (v % 2 ^ (8 * n)))).complete 4))
      match tg with
      | .mem key mt =>
        if s.mustWait va.toNat n || s.deviceWaits mt then .stop s.await
        else (s.poisonedRead key n .acq 0 va).bind fun _ s => done s (s.peekNat key n)
      | .bd pa mt => (s.readBd 0 .acq va n n pa mt .acq).bind fun v s => done s v
      | .rope off => done s (s.ropeRead s.myLayer off n)
      | .away =>
        match s.answer va.toNat .acq with
        | some x => (useAnswer x va n .acq 0 s).bind fun v s => done s v.toNat
        | none =>
          if s.th.reqs ≠ [] then .stop s.await
          else .stop (s.ask { Packet.blank with kind := .acq, va := va, n := n, align := n })).out
  else
    ((s.check 0 .acq va 128 128 0 0).bind fun tg s =>
      let sys := p == 3#2 && dieOf va != 14
      match tg with
      | .mem key mt =>
        if mt = 3 then .stop (memTrap 0x0C .acq 0 va s)
        else if s.mustWait va.toNat 128 then .stop s.await
        else (s.poisonedRead key 128 .acq 0 va).bind fun _ s => .ok () (s.acquire sys va false n d (s.peekObj key))
      | .bd pa mt =>
        if mt = 3 then .stop (memTrap 0x0C .acq 0 va s)
        else if s.bdPending then .stop s.await
        else if bdMapped pa 128 then .ok () ((s.bdForget s.myLayer pa 128).acquire sys va true n d (BitVec.ofNat 1024 (valOf (s.bdReads pa 128))))
        else .stop (memTrap 0x09 .acq 0 va s)
      | .rope off =>
        if s.myRope ≠ [] then .stop s.await
        else .ok () (s.acquire sys va false n d (BitVec.ofNat 1024 (s.ropeRead s.myLayer off 128)))
      | .away =>
        match s.answer va.toNat .acq with
        | some x => (useAnswer x va 64 .acq 0 s).bind fun obj s => .ok () (s.acquire sys va true n d obj)
        | none =>
          if s.th.reqs ≠ [] then .stop s.await
          else .stop (s.ask { Packet.blank with kind := .acq, va := va, n := 128, align := 128 })).out

/-! ### Release (R139) -/

/-- The bits of a byte of BD memory that a device access writes: none of the reserved part, DEVSTATE, START, the host's
registers and the reserved bits of counters and window entries (R373, R377, R380). -/
def bdMask (o : Nat) : Byte :=
  if o < 0x8000 then 0xFF#8
  else if 0x8008 ≤ o ∧ o < 0x8018 then (if o % 8 < 4 then 0xFF#8 else 0#8)
  else if 0xC000 ≤ o ∧ o < 0xC020 then (if o % 8 < 4 then 0xFF#8 else 0#8)
  else if 0xC020 ≤ o ∧ o < 0x10000 then 0xFF#8
  else if 0x100000 ≤ o ∧ o < 0x180000 then
    (match o % 16 with
     | 0 => 0x0F#8
     | 1 => 0x0E#8
     | 2 => 0xE0#8
     | 6 => 0#8
     | 7 => 0#8
     | 15 => 0#8
     | _ => 0xFF#8)
  else 0#8

def State.bdWrite (s : State) (o : Nat) : List Byte → State
  | [] => s
  | b :: r => ({ s with bd := Memory.write s.bd o ((Memory.read s.bd o &&& ~~~ bdMask o) ||| (b &&& bdMask o)) }).bdWrite (o + 1) r

/-- A package- or system-scope release has been acknowledged: psig := 0, and it is irrevocable (R139, R345). -/
def Thread.released (t : Thread) : Thread := { t.irrev with psig := 0 }

/-- What a package- or system-scope release does between its checks and its write (R139): a deferred denial, and the waits. -/
def State.releaseWaits (s : State) (k : State → Res Unit) : Res Unit :=
  (raiseDenial s).bind fun _ s => if !s.performedAt 2#2 ∨ s.copiesRunning then .stop s.await else k s

/-- R139.  An address on another layer is checked by its home before the waits, and again when the release is performed. -/
def execStRel (w : BitVec 1) (p : BitVec 2) (a b : Reg) (s : State) : Out :=
  let n := widthN w
  let va := s.th.rx a
  let v := (s.th.rx b).toNat % 2 ^ (8 * n)
  if !p.getLsbD 1 then
    ((s.checkPosted .rel 0 va n n 0x0B 0).bind fun tg s =>
      if !s.performedAt p then .stop s.await
      else (s.writeRaw 0 va n v tg).bind fun _ s => .ok () (s.setTh (s.th.complete 4))).out
  else
    ((s.check 0 .rel va 128 128 0x0B 0).bind fun tg s =>
      let dev := match tg with | .mem _ mt => mt == 3 | .bd _ mt => mt == 3 | _ => false
      if dev then .stop (memTrap 0x0C .rel 0 va s)
      else if tg = .away then
        match s.answer va.toNat .rel with
        | some x => (useAnswer x va 64 .rel 0 s).bind fun _ s =>
          if s.th.sent then .ok () (s.setTh ((s.th.foldStore va n v).released.complete 4))
          else s.releaseWaits fun s =>
            let s := s.setTh { s.th with answers := [] }
            let s := s.ask { Packet.blank with kind := .rel, va := va, n := n, align := 128, data := BitVec.ofNat 512 v, data2 := s.th.psig }
            .stop (s.setTh { s.th with sent := true })
        | none =>
          if s.th.reqs ≠ [] then .stop s.await
          else .stop (s.ask { Packet.blank with kind := .probe .rel, va := va, n := 128, align := 128 })
      else
        s.releaseWaits fun s =>
          match tg with
          | .mem key mt =>
            let s := s.pokeObj (storeLevel s.myCore mt) (s.colour s.th) key (releaseObj (s.peekObj key) s.th.psig n v)
            .ok () (s.setTh ((s.th.foldStore va n v).released.complete 4))
          | .bd pa _ =>
            if bdMapped pa 128 then
              let o := releaseObj (BitVec.ofNat 1024 (valOf (s.bdReads pa 128))) s.th.psig n v
              let s := (s.bdWrite pa (bytesOf 128 o.toNat)).bdForget s.myLayer pa 128
              .ok () (s.setTh ((s.th.foldStore va n v).released.complete 4))
            else .stop (memTrap 0x0B .rel 0 va s)
          | _ => .stop (memTrap 0x0B .rel 0 va s)).out

/-! ### Rope items of the current thread (R145) -/

/-- The thread sends an ordered item, with its tag and colour; its number is that of the item. -/
def State.sendItem (s : State) (i : Item) : State :=
  let i := { i with id := s.nextId, src := s.cur, tag := s.th.tag, colour := some (s.colour s.th) }
  ({ s with nextId := s.nextId + 1 }.injectItem i).enqueue s.myLayer 0 i

/-- A posted item counts in ors until it is applied at the own replica (R21, R145). -/
def State.postItem (s : State) (i : Item) : Res Unit :=
  if 256 ≤ s.th.ors then .stop s.await
  else
    let s := s.sendItem i
    .ok () (s.setTh { s.th.irrev with ors := s.th.ors + 1 })

/-- DEDUCED: a SIGCLR to another layer is a write of the thread, so it updates the two RDC lines of the object that are present
under the thread's tag, as a store does (R128, R141, R252): FULL, SIG and the reserved bytes (R5) read 0 afterwards. -/
def State.rdcClearSig (s : State) (va : Word) : State :=
  (s.rdcMerge s.myCluster s.th.tag (lineVa va) 0#512 (byteSpan 8 56)).rdcMerge s.myCluster s.th.tag (lineVa va + 64) 0#512 (byteSpan 0 64)

/-- R141: posted; on the own layer it is performed as a local store, elsewhere it counts in ors. -/
def execSigclr (a : Reg) (s : State) : Out :=
  let va := s.th.rx a
  ((s.checkPosted .store 0 va 128 128 0 0).bind fun tg s =>
    let done (s : State) : Res Unit := .ok () (s.setTh (s.th.complete 4))
    match tg with
    | .mem key mt =>
      if mt = 3 then .stop (memTrap 0x0C .store 0 va s)
      else if s.raddWaits key 128 then .stop s.await
      else
        let s := s.clearObj (storeLevel s.myCore mt) (s.colour s.th) key
        done (s.setTh s.th.irrev)
    | .rope off => (s.postItem { Item.blank with op := .sigclr, off := off, n := 128 }).bind fun _ s => done s
    | .bd pa mt =>
      if mt = 3 then .stop (memTrap 0x0C .store 0 va s)
      else if 256 ≤ s.th.ors then .stop s.await
      else
        let s := s.sendNow { Packet.blank with kind := .sigclr, va := va, n := 128, pa := pa, mt := mt, counted := 1 }
        done (s.setTh { s.th.irrev with ors := s.th.ors + 1 })
    | .away =>
      if 256 ≤ s.th.ors then .stop s.await
      else
        let s := (s.sendNow { Packet.blank with kind := .sigclr, va := va, n := 128, counted := 1 }).rdcClearSig va
        done (s.setTh { s.th.irrev with ors := s.th.ors + 1 })).out

/-! ### Waiting (R142) -/

/-- R142: completes only after a read that found the word different. -/
def execWaitne (w : BitVec 1) (a b : Reg) (s : State) : Out :=
  let n := widthN w
  let va := s.th.rx a
  let old := (s.th.rx b).toNat % 2 ^ (8 * n)
  ((s.check 0 .load va n n 0 0).bind fun tg s =>
    let decide_ (s : State) (v : Nat) (park : Park) : Res Unit :=
      if v ≠ old then .ok () (s.setTh (s.th.complete 4)) else .stop ((s.setTh { s.th with reqs := [], answers := [] }).parkOn park)
    match tg with
    | .mem key mt =>
      if s.mustWait va.toNat n || s.deviceWaits mt then .stop s.await
      else (s.poisonedRead key n .load 0 va).bind fun _ s => decide_ s (s.peekNat key n) (.watch 0 key n old)
    | .rope off =>
      if s.myRope.any (fun i => i.covers off n) then .stop s.await
      else decide_ s (s.ropeRead s.myLayer off n) (.watch 1 (ropeKey s.myLayer off) n old)
    | .bd pa mt => (s.readBd 0 .load va n n pa mt .waitne).bind fun v s => decide_ s v (if bdMapped pa n then .watch 2 pa n old else .waitne)
    | .away =>
      match s.answer va.toNat .load with
      | some x => (useAnswer x va n .load 0 s).bind fun v s => decide_ s (v.toNat % 2 ^ (8 * n)) .waitne
      | none =>
        if s.th.reqs ≠ [] then .stop s.await
        else .stop (s.ask { Packet.blank with kind := .waitne, va := va, n := n, align := n })).out

/-! ### Barriers (R26, R143, R144, R288) -/

def barV (d : Word) : Bool := d.getLsbD 31
def barNthr (d : Word) : Nat := (d.extractLsb' 18 5).toNat
def barLmask (d : Word) : BitVec 8 := d.extractLsb' 10 8
def barCols (d : Word) : Nat := (d.extractLsb' 7 3).toNat
def barRows (d : Word) : Nat := (d.extractLsb' 4 3).toNat
def barCol0 (d : Word) : Nat := (d.extractLsb' 2 2).toNat
def barRow0 (d : Word) : Nat := (d.extractLsb' 0 2).toNat

/-- A cluster (0 to 15) lies in the rectangle. -/
def barIn (d : Word) (cl : Nat) : Bool :=
  decide (barRow0 d ≤ cl / 4 ∧ cl / 4 < barRow0 d + barRows d ∧ barCol0 d ≤ cl % 4 ∧ cl % 4 < barCol0 d + barCols d)

def State.bardesc (s : State) (layer n : Nat) : Word := Table.at 0#64 (s.layer layer).bardesc n
def State.barCl (s : State) (layer n cl : Nat) : BarCluster := Table.at BarCluster.reset (s.layer layer).barCl (16 * n + cl)
def State.setBarCl (s : State) (layer n cl : Nat) (b : BarCluster) : State :=
  let y := s.layer layer
  s.setLayer layer { y with barCl := Table.put y.barCl (16 * n + cl) b }

/-- BAR and BARWAIT take 0x05 at a descriptor that the thread is no party to (R143). -/
def State.barOk (s : State) (n : Nat) : Bool :=
  let d := s.bardesc s.myLayer n
  barV d && barIn d (s.myCluster % 16) && (barLmask d).getLsbD s.myLayer

def State.bar (s : State) (layer n : Nat) : BarLayer := Table.at BarLayer.reset (s.layer layer).bars n
def State.setBar (s : State) (layer n : Nat) (b : BarLayer) : State :=
  let y := s.layer layer
  s.setLayer layer { y with bars := Table.put y.bars n b }

/-- The corner of a rectangle (R288). -/
def barCorner (d : Word) : Nat := 4 * barRow0 d + barCol0 d
/-- Clusters of the last column and of the last row. -/
def barLastCol (d : Word) (cl : Nat) : Bool := cl % 4 + 1 == barCol0 d + barCols d
def barLastRow (d : Word) (cl : Nat) : Bool := cl / 4 + 1 == barRow0 d + barRows d

/-- A cluster of the rectangle is complete: NTHR threads have arrived in its open phase (R288 step 1). -/
def State.barComplete (s : State) (layer n cl : Nat) : Bool :=
  let d := s.bardesc layer n
  barV d && barIn d cl && (s.barCl layer n cl).cur == barNthr d

/-- It may forward the row token (R288 step 2). -/
def State.barRow (s : State) (layer n cl : Nat) : Bool :=
  s.barComplete layer n cl && (barLastCol (s.bardesc layer n) cl || (s.barCl layer n cl).east)

/-- A cluster of column COL0 may forward the column token (R288 step 3). -/
def State.barColumn (s : State) (layer n cl : Nat) : Bool :=
  s.barRow layer n cl && (barLastRow (s.bardesc layer n) cl || (s.barCl layer n cl).south)

/-- R288 steps 4 and 5, R289: a corner that has become layer-complete starts the release of a team of one layer, or sends the
layer's beat. -/
def State.barCheck (s : State) (layer n : Nat) : State :=
  let d := s.bardesc layer n
  let c := barCorner d
  let b := s.bar layer n
  let ph := (s.barCl layer n c).phase
  if s.barColumn layer n c && !b.sent && b.released == ph then
    if barLmask d == 1#8 <<< layer then s.setBar layer n { b with released := ph + 1 }
    else
      (s.setBar layer n { b with sent := true }).enqueue layer 0 { Item.blank with op := .barrier n (ph % 2) layer, src := 256 * layer }
  else s

/-- Completes when the phase has released at the thread's cluster, else parks. -/
def barPark (n phase : Nat) (k : Park) (s : State) : Out :=
  if phase < (s.barCl s.myLayer n (s.myCluster % 16)).phase then
    .next (s.setTh { (s.th.complete 4) with prg := 0 })
  else .next (s.parkOn k)

/-- The phase that a BAR resumed with prg = 2 + p waits for: the most recent phase of parity p at the cluster (R143); of the
parity of the open phase it is that; else the one after it where arrivals for it have come or where no phase came before, and
the one before it, which has released, otherwise (log 67). -/
def resumePhase (b : BarCluster) (p : Nat) : Nat :=
  if b.phase % 2 = p then b.phase
  else if 0 < b.next ∨ b.phase = 0 then b.phase + 1
  else b.phase - 1

/-- R143. -/
def execBar (n : BitVec 4) (s : State) : Out :=
  let t := s.th
  let n' := n.toNat
  let cl := s.myCluster % 16
  match t.parked with
  | some (.bar _ ph) => barPark n' ph (.bar n' ph) s
  | _ =>
    if t.prg = 2#7 ∨ t.prg = 3#7 then
      let ph := resumePhase (s.barCl s.myLayer n' cl) (t.prg.toNat - 2)
      barPark n' ph (.bar n' ph) s
    else if t.prg ≠ 0#7 ∨ !s.barOk n' then illegal (encode (.bar n)).bits s
    else
      let d := s.bardesc s.myLayer n'
      let cross := barLmask d &&& ~~~ (1#8 <<< s.myLayer) != 0#8
      if !s.localDone then .next s.await
      else
        ((if cross then raiseDenial s else .ok () s).bind fun _ s =>
          if cross ∧ s.th.ors ≠ 0 then .stop s.await
          else
            let b := s.barCl s.myLayer n' cl
            let k := b.cur + b.next
            let b' := if b.cur < barNthr d then { b with cur := b.cur + 1 } else { b with next := b.next + 1 }
            let ph := b.phase + k / barNthr d
            .ok () (((s.setBarCl s.myLayer n' cl b').barCheck s.myLayer n').parkOn (.bar n' ph))).out

/-- R144: waits for the phase that is current when it executes; it does not arrive. -/
def execBarwait (n : BitVec 4) (s : State) : Out :=
  let n' := n.toNat
  match s.th.parked with
  | some (.barwait _ ph) =>
    if ph < (s.barCl s.myLayer n' (s.myCluster % 16)).phase then .next (s.setTh (s.th.complete 4))
    else .next s.await
  | _ =>
    if !s.barOk n' then illegal (encode (.barwait n)).bits s
    else
      let ph := (s.barCl s.myLayer n' (s.myCluster % 16)).phase
      .next (s.parkOn (.barwait n' ph))

end Sys2Proof.Machine
end

