-- ==== Sys2Proof/Machine/Atomic.lean ====
section
/-!
DEFINITION. Atomic operations (R132 to R134) and the Rope instructions (R145 to R148).
-/

namespace Sys2Proof.Machine

/-! ### The operations (R133) -/

/-- new of an AMO, by op 0 to 8, on `n`-byte values. -/
def amoOp (op n old b : Nat) : Nat :=
  let w := 8 * n
  let a : BitVec w := BitVec.ofNat w old
  let b : BitVec w := BitVec.ofNat w b
  let r : BitVec w :=
    match op with
    | 0 => a + b
    | 1 => b
    | 2 => a &&& b
    | 3 => a ||| b
    | 4 => a ^^^ b
    | 5 => if a.slt b then a else b
    | 6 => if a.slt b then b else a
    | 7 => if a < b then a else b
    | _ => if a < b then b else a
  r.toNat

/-- What an atomic of the current thread does: AMO `op` with operand `b`, or CAS of `b` against `expect`. -/
structure Atomic where
  cas : Bool
  op : Nat
  n : Nat
  b : Nat
  expect : Nat
deriving DecidableEq, Repr

/-- The value written, if one is (R133, R134). -/
def Atomic.new (x : Atomic) (old : Nat) : Option Nat :=
  if x.cas then (if old = x.expect % 2 ^ (8 * x.n) then some (x.b % 2 ^ (8 * x.n)) else none)
  else some (amoOp x.op x.n old x.b)

/-- An AMO or CAS has been performed: psig (R129), IRREV (R345), x[rd] := sext(old), completion. -/
def Thread.atomicDone (t : Thread) (va : Word) (d : Reg) (n old : Nat) : Thread :=
  (((t.sign va).irrev).wx d (sextN n old)).complete 4

/-- R132 to R134: performed once, at the point of coherence. -/
def atomic (x : Atomic) (va : Word) (d : Reg) (s : State) : Out :=
  ((s.check 0 .amo va x.n x.n 0x0C 0).bind fun tg s =>
    match tg with
    | .mem key mt =>
      if s.mustWait va.toNat x.n || s.raddWaits key x.n then .stop s.await
      else
        (s.poisonedRead key x.n .amo 0 va).bind fun _ s =>
          let old := s.peekNat key x.n
          let s := match x.new old with
            | some v => s.store (storeLevel s.myCore mt) (s.colour s.th) key (bytesOf x.n v)
            | none => s
          .ok () (s.setTh (s.th.atomicDone va d x.n old))
    | .rope _ => .stop (memTrap 0x0C .amo 0 va s)
    | .bd pa _ =>
      if s.bdPending then .stop s.await
      else if bdMapped pa x.n then
        let old := valOf (s.bdReads pa x.n)
        let s := match x.new old with
          | some v => s.bdWrite pa (bytesOf x.n v)
          | none => s
        .ok () ((s.bdForget s.myLayer pa x.n).setTh (s.th.atomicDone va d x.n old))
      else if bdOutbound pa x.n then .stop (memTrap 0x0C .amo 0 va s)
      else .stop (memTrap 0x09 .amo 0 va s)
    | .away =>
      match s.answer va.toNat .amo with
      | some r => (useAnswer r va x.n .amo 0 s).bind fun v s =>
          .ok () ((s.rdcDrop s.myCluster s.th.tag (lineVa va)).setTh (s.th.atomicDone va d x.n (v.toNat % 2 ^ (8 * x.n))))
      | none =>
        if s.th.reqs ≠ [] then .stop s.await
        else
          let s := s.ask { Packet.blank with
            kind := (if x.cas then .cas else .amo x.op), va := va, n := x.n, align := x.n
            data := BitVec.ofNat 512 (x.b % 2 ^ (8 * x.n)), data2 := BitVec.ofNat 512 (x.expect % 2 ^ (8 * x.n)) }
          .stop (s.setTh { s.th with sent := true })).out

def amo (op : Nat) (w : BitVec 1) (d a b : Reg) (s : State) : Out :=
  atomic ⟨false, op, widthN w, (s.th.rx b).toNat, 0⟩ (s.th.rx a) d s

/-- R133. -/
def execAmoadd (w : BitVec 1) (d a b : Reg) (s : State) : Out := amo 0 w d a b s
/-- R133. -/
def execAmoswap (w : BitVec 1) (d a b : Reg) (s : State) : Out := amo 1 w d a b s
/-- R133. -/
def execAmoand (w : BitVec 1) (d a b : Reg) (s : State) : Out := amo 2 w d a b s
/-- R133. -/
def execAmoor (w : BitVec 1) (d a b : Reg) (s : State) : Out := amo 3 w d a b s
/-- R133. -/
def execAmoxor (w : BitVec 1) (d a b : Reg) (s : State) : Out := amo 4 w d a b s
/-- R133. -/
def execAmomin (w : BitVec 1) (d a b : Reg) (s : State) : Out := amo 5 w d a b s
/-- R133. -/
def execAmomax (w : BitVec 1) (d a b : Reg) (s : State) : Out := amo 6 w d a b s
/-- R133. -/
def execAmominu (w : BitVec 1) (d a b : Reg) (s : State) : Out := amo 7 w d a b s
/-- R133. -/
def execAmomaxu (w : BitVec 1) (d a b : Reg) (s : State) : Out := amo 8 w d a b s

/-- R134: x[rd] supplies the expected value and receives the old one. -/
def execCas (w : BitVec 1) (d a b : Reg) (s : State) : Out :=
  atomic ⟨true, 0, widthN w, (s.th.rx b).toNat, (s.th.rx d).toNat⟩ (s.th.rx a) d s

/-! ### Rope writes (R145 to R148) -/

/-- The checks of a Rope instruction: DIE 14 is required (R127). -/
def ropeCheck (kind : AKind) (va : Word) (n align : Nat) (s : State) : Res Nat :=
  if s.formOk va ∧ dieOf va ≠ 14 then .stop (memTrap 0x0F kind 4 va s)
  else (s.check 4 kind va n align 0 0).bind fun tg s =>
    match tg with
    | .rope off => .ok off s
    | _ => .stop (memTrap 0x0F kind 4 va s)

/-- R145: posted; counts in ors until applied at the own replica. -/
def execRst (w : BitVec 1) (a b : Reg) (s : State) : Out :=
  let n := widthN w
  let va := s.th.rx a
  let v := s.th.rx b
  ((ropeCheck .store va n n s).bind fun off s =>
    (s.postItem { Item.blank with op := .rst, off := off, n := n, val := v }).bind fun _ s =>
      .ok () (s.setTh ((s.th.foldStore va n v.toNat).complete 4))).out

/-- The answer of an ordered item that the current instruction waits for. -/
def State.itemAnswer (s : State) : Option Answer :=
  match s.th.reqs with
  | id :: _ => s.th.answers.find? (fun a => a.id == id)
  | [] => none

/-- Sends an ordered item that cannot be withdrawn and waits until it is applied at the own replica (R300, R316). -/
def State.askItem (s : State) (i : Item) : State :=
  let id := s.nextId
  let s := s.sendItem i
  s.setTh { s.th with reqs := [id], sent := true, waiting := true }

/-- R146. -/
def execRstRel (w : BitVec 1) (a b : Reg) (s : State) : Out :=
  let n := widthN w
  let va := s.th.rx a
  match s.itemAnswer with
  | some _ => .next (s.setTh ((s.th.foldStore va n (s.th.rx b).toNat).released.complete 4))
  | none =>
    if s.th.reqs ≠ [] then .next s.await
    else
      ((ropeCheck .rel va 128 128 s).bind fun off s =>
        (raiseDenial s).bind fun _ s =>
          if !s.performedAt 2#2 ∨ s.copiesRunning then .stop s.await
          else .stop (s.askItem { Item.blank with op := .rstRel, off := off, n := n, val := s.th.rx b, sig := s.th.psig }) : Res Unit).out

/-- RAMO and RCAS: sent once, completed when applied at the own replica with the old value read there (R147). -/
def ropeAtomic (op : RopeOp) (w : BitVec 1) (d a b : Reg) (s : State) : Out :=
  let n := widthN w
  let va := s.th.rx a
  match s.itemAnswer with
  | some r =>
    .next (s.setTh (((s.th.irrev).wx d (sextN n (r.data.toNat % 2 ^ (8 * n)))).complete 4))
  | none =>
    if s.th.reqs ≠ [] then .next s.await
    else
      ((ropeCheck .amo va n n s).bind fun off s =>
        .stop (s.askItem { Item.blank with op := op, off := off, n := n, val := s.th.rx b, expect := s.th.rx d }) : Res Unit).out

/-- R147: op 0 add, 1 swap, 2 and, 3 or, 4 xor. -/
def execRamo (w : BitVec 1) (o : BitVec 3) (d a b : Reg) (s : State) : Out :=
  legal (.ramo w o d a b) s (ropeAtomic (.ramo o.toNat) w d a b s)

/-- R147: the expected value is x[rd]. -/
def execRcas (w : BitVec 1) (d a b : Reg) (s : State) : Out := ropeAtomic .rcas w d a b s

/-- R148. -/
def execRfence (s : State) : Out :=
  if s.myRope = [] then finish 4 s id else .next s.await

end Sys2Proof.Machine
end

