-- ==== Sys2Proof/Machine/Device.lean ====
section
/-!
DEFINITION. Accesses that the device makes for a thread away from its core: copy engines, message ports, completion words
(R192, R198, R205, R262), and stores to the BD (R373, R379 to R385).
-/

namespace Sys2Proof.Machine

/-- Bytes that nothing in the spec determines. -/
def State.freeBytes (s : State) (n : Nat) : List Byte × State :=
  ((List.range n).map fun i => Config.freeByte (s.free + i), { s with free := s.free + n })

def State.isFenced (s : State) (l : Nat) : Bool := (s.layer l).power == .fenced

/-- R326: the first request that waits for a sleeping layer starts its wake; the mirror's image is taken then (R327). -/
def State.startWake (s : State) (l : Nat) : State :=
  let img := Memory.readBytes s.rope (ropeKey 8 0) 65536
  (s.setLayer l { s.layer l with power := .waking 1, buffered := [] } |> fun s =>
    { s with rope := Memory.writeBytes s.rope (ropeKey l 0) img })

/-- R326: what waits for a layer that sleeps starts its wake. -/
def State.wakeFor (s : State) (l : Nat) : State := if (s.layer l).power = .asleep then s.startWake l else s

/-- Where an access of the device goes. -/
inductive Reach where
  | to (tg : Target) (home : Nat)
  /-- A cause other than a page that is not present. -/
  | fail (cause : Nat)
  /-- A page that is not present (R266): its cause, whether the context is pinned, MALF and the level of the walk. -/
  | absent (cause : Nat) (pinned malf : Bool) (lvl : Nat)
  /-- The layer sleeps (R322): the access waits. -/
  | later
  /-- Another package, which has performed the access (R264). -/
  | foreign
  /-- A fenced layer: reads are poisoned (R353). -/
  | lost
deriving DecidableEq, Repr

/-- The cause that an access comes back with. -/
def Reach.cause : Reach → Option Nat
  | .fail c => some c
  | .absent c _ _ _ => some c
  | _ => none

/-- The agent that translates it: the thread's core, or the MTLB of the home (R261, R262). -/
def agentOf (src : Nat) (va : Word) : Nat :=
  if homeOf (layerOf src) va = layerOf src then coreOf src else mtlb (homeOf (layerOf src) va) (tsOf va)

/-- What another package answers to an access (R264, R266): performed; or a cause, which a free value picks (log 66). -/
def State.foreignReach (s : State) (g : Tag) (kind : AKind) : Reach × State :=
  let s' : State := { s with free := s.free + 1 }
  let w := (Config.freeWord s.free).toNat % 8
  if w = 1 then (.fail (noCtxCause kind), s')
  else if w = 2 then (.fail 0x0D, s')
  else if w = 3 then (.absent (absentCause kind) (decide (g.ctx = 0#12)) false 0, s')
  else if w = 4 then (.absent (absentCause kind) true false 0, s')
  else if w = 5 then (if kind.writes then .fail 0x0B else .lost, s')
  else (.foreign, s')

/-- Steps 1 to 4 of R125 for an access that the device makes for a thread. -/
def State.reach (s : State) (src : Nat) (g : Tag) (sup : Bool) (kind : AKind) (va : Word) (n : Nat) : Reach × State :=
  let home := homeOf (layerOf src) va
  let denied := if kind.writes then 0x0B else 0x09
  if !s.formOk va then (.fail 0x0F, s)
  else if dieOf va = 14 then
    if kind.writes then (.fail 0x0B, s)
    else if 0x10000 < offOf va + n then (.fail 0x0F, s)
    else if s.grantedAt (layerOf src) g.ctx (offOf va) n then (.to (.rope (offOf va)) (layerOf src), s)
    else (.fail 0x09, s)
  else if dieOf va = 9 then s.foreignReach g kind
  else if s.isFenced home then (if kind.writes then (.fail 0x0B, s) else (.lost, s))
  else if s.isAsleep home then (.later, s)
  else
    match s.translate (agentOf src va) home g sup kind va (s.place src) with
    | (.absent pinned malf lvl, s) => (.absent (absentCause kind) pinned malf lvl, s)
    | (.noCtx, s) => (.fail (noCtxCause kind), s)
    | (.deny c, s) => (.fail c, s)
    | (.ok pa mt, s) =>
      if pa < hbmEnd then (.to (.mem (physKey home pa) mt) home, s)
      else
        let o := pa - bdBase
        if bdMapped o n || bdOutbound o n then (.to (.bd o mt) home, s) else (.fail denied, s)

/-- The host bus address of an outbound offset (R385). -/
def State.busAddress (s : State) (o : Nat) : Nat :=
  (valOf (s.bdReads 0x8030 8) / 4096 * 4096 + (o - 0x8000000000)) % 2 ^ 64

/-- A device store to the BD region: memory of the BD, or a posted write to the host.  Advancing RSPTAIL raises MSI-X vector
0 (R375). -/
def State.bdStore (s : State) (o : Nat) (bs : List Byte) : State :=
  if bdOutbound o bs.length then { s with outbound := s.outbound ++ [(s.busAddress o, bs)] }
  else
    let tail := valOf (s.bdReads 0x8010 4)
    let s := s.bdWrite o bs
    if valOf (s.bdReads 0x8010 4) = tail then s else { s with msix := s.msix ++ [0] }

/-- Reads `n` bytes that `reach` found: the bytes, and whether their line is poisoned.  DESIGN CHOICE: the host answers at once (log 109). -/
def State.take (s : State) (src : Nat) (r : Reach) (n : Nat) : (List Byte × Bool) × State :=
  match r with
  | .to (.mem key _) _ => ((s.peekBytes key n, s.isPoisoned (key / 64 * 64) 64), s)
  | .to (.rope off) _ => ((Memory.readBytes s.rope (ropeKey (layerOf src) off) n, false), s)
  | .to (.bd o _) _ =>
    if bdMapped o n then ((s.bdReads o n, false), s.bdTake o n)
    else
      -- a PCIe read, which a completion error or a timeout may end with poisoned data (R385)
      let (bs, s') := ({ s with free := s.free + 1, outReads := s.outReads ++ [(s.busAddress o, n)] } : State).freeBytes n
      ((bs, (Config.freeWord s.free).getLsbD 0), s')
  | .lost => let (bs, s) := s.freeBytes n; ((bs, true), s)
  | _ => let (bs, s) := s.freeBytes n; ((bs, false), s)

/-- Writes bytes where `reach` found. -/
def State.place_ (s : State) (r : Reach) (colour : Bool) (bs : List Byte) : State :=
  match r with
  | .to (.mem key mt) _ => s.store (if mt = 3 then .mem else .hs) colour key bs
  | .to (.bd o _) _ => s.bdStore o bs
  | _ => s

end Sys2Proof.Machine
end

