-- ==== Sys2Proof/Machine/Copy.lean ====
section
/-!
DEFINITION. Copies: their issue, their pieces, arrival updates, faults and records, and the wait, poll and cancel forms
(R190 to R201).
-/

namespace Sys2Proof.Machine

/-! ### The runs of a copy: one range of CPY, the rows of CPY.2D, the eight ranges of CPY.BC (R190) -/

def lowWord (v : Word) : Word := v &&& 0xFFFFFFFF#64
def sext32 (v : Word) : Word := (v.setWidth 32).signExtend 64

def Copy.runs (c : Copy) : Nat := if c.form = 1 then (c.len >>> 32).toNat else if c.form = 2 then 8 else 1
def Copy.runLen (c : Copy) : Nat := if c.form = 1 then (lowWord c.len).toNat else c.len.toNat
def Copy.runSrc (c : Copy) (r : Nat) : Word :=
  if c.form = 1 then c.from_ + BitVec.ofNat 64 r * sext32 c.strides else c.from_
def Copy.runDst (c : Copy) (r : Nat) : Word :=
  if c.form = 1 then c.dst + BitVec.ofNat 64 r * sext32 (c.strides >>> 32)
  else if c.form = 2 then BitVec.ofNat 64 (r * 2 ^ 52 + offOf c.dst) else c.dst

/-- Nothing to move (R190). -/
def Copy.empty (c : Copy) : Bool := c.runs == 0 || c.runLen == 0

/-! ### Pieces (R192): number run * 2^53 + i, the i-th stretch of the run between 4 KiB boundaries of the destination -/

structure Piece where
  src : Word
  dst : Word
  len : Nat
deriving DecidableEq, Repr

def pieceBase : Nat := 2 ^ 53

/-- Pieces of a run. -/
def Copy.count (c : Copy) (r : Nat) : Nat := ((c.runDst r).toNat % 4096 + c.runLen + 4095) / 4096

/-- The piece with a number; none if the copy has no such piece. -/
def Copy.piece (c : Copy) (k : Nat) : Option Piece :=
  let r := k / pieceBase
  let i := k % pieceBase
  let h := (c.runDst r).toNat % 4096
  if r < c.runs ∧ i < c.count r then
    let lo := if i = 0 then 0 else 4096 * i - h
    let hi := min c.runLen (4096 * (i + 1) - h)
    some ⟨c.runSrc r + BitVec.ofNat 64 lo, c.runDst r + BitVec.ofNat 64 lo, hi - lo⟩
  else none

/-- The piece after one, in copy order. -/
def Copy.after (c : Copy) (k : Nat) : Nat :=
  if c.form = 1 ∧ c.count (k / pieceBase) ≤ k % pieceBase + 1 then (k / pieceBase + 1) * pieceBase else k + 1

/-- Ranges, whose pieces stand in copy order, and the next piece of each. -/
def Copy.ranges (c : Copy) : Nat := if c.form = 2 then 8 else 1
def Copy.rangeOf (c : Copy) (k : Nat) : Nat := if c.form = 2 then k / pieceBase else 0
def Copy.cursor (c : Copy) (r : Nat) : Nat := Table.at (r * pieceBase) c.next r
def Copy.rangeDone (c : Copy) (r : Nat) : Bool := (c.piece (c.cursor r)).isNone
def Copy.finished (c : Copy) : Bool := (List.range c.ranges).all c.rangeDone

/-- The pieces of a CPY.BC that stand at one offset on every layer move together: the number under which they do. -/
def Copy.moveKey (c : Copy) (k : Nat) : Nat := if c.form = 2 then k % pieceBase else k
/-- A piece, or those of every range that move with it. -/
def Copy.together (c : Copy) (k : Nat) : List Nat := if c.form = 2 then (List.range 8).map fun r => r * pieceBase + k % pieceBase else [k]
/-- Bytes of a piece that have been written or sent. -/
def Copy.movedOf (c : Copy) (k : Nat) : Nat := Table.at 0 c.moved (c.moveKey k)
/-- Bytes of the next destination line of a piece, from byte `o` on. -/
def Piece.lineLen (p : Piece) (o : Nat) : Nat := min (p.len - o) (64 - (p.dst + BitVec.ofNat 64 o).toNat % 64)

/-- Every byte of the piece has been performed, whether or not its turn for an update has come (R192). -/
def Copy.isPerformed (c : Copy) (k : Nat) : Bool :=
  decide (k < c.cursor (c.rangeOf k)) || c.ahead.contains k ||
    (match c.piece k with
     | some p => decide (p.len ≤ c.movedOf k) && !c.flying.any fun f => f.1 == k
     | none => false)

/-- A line lies in a performed piece. -/
def Copy.wroteLine (c : Copy) (line : Nat) : Bool :=
  (List.range c.runs).any fun r =>
    let d := (c.runDst r).toNat
    decide (line < d + c.runLen ∧ d < line + 64) &&
      c.isPerformed (r * pieceBase + ((max line d) / 4096 - d / 4096))

/-- Signature bits of the destination lines on DIE 0 to 9 of `n` bytes from `va`. -/
def spanSig (va : Word) (n : Nat) : Line :=
  if dieOf va ≤ 9 then
    (List.range ((va.toNat % 64 + n + 63) / 64)).foldl (fun g j => g ||| sigOf (va.toNat / 64 * 64 + 64 * j)) 0#512
  else 0#512

/-- The pieces that have begun to move. -/
def Copy.begun (c : Copy) : List Nat :=
  c.moved.flatMap fun e => c.together e.1

/-- Signature of the lines of performed pieces (R192, R199). -/
def Copy.performedSig (c : Copy) : Line :=
  c.begun.foldl (fun g k => match c.piece k with | some p => (if c.isPerformed k then g ||| spanSig p.dst p.len else g) | none => g) c.sig

/-- Signature of every line that has been written, of pieces under way too (R196). -/
def Copy.writtenSig (c : Copy) : Line :=
  c.begun.foldl (fun g k =>
    match c.piece k with
    | some p =>
      (List.range ((c.movedOf k + 63) / 64 + 1)).foldl (fun g j =>
        let o := if j = 0 then 0 else 64 * j - p.dst.toNat % 64
        if o < c.movedOf k ∧ !c.flying.contains (k, o) then g ||| spanSig (p.dst + BitVec.ofNat 64 o) (p.lineLen o) else g) g
    | none => g) c.sig

/-! ### Moving a piece -/

/-- What moving part of a copy comes to. -/
inductive Moved where
  | ok (s : State)
  /-- A cause (R199): its kind (0 source line, 1 destination line, 2 arrival word) and address. -/
  | fault (s : State) (cause kind : Nat) (fva : Word)
  /-- It cannot go on now. -/
  | later
  deriving DecidableEq

/-- Earlier writes of the thread to the bytes of a source that have not been performed (R194). -/
def State.sourceBusy (s : State) (c : Copy) (va n : Nat) : Bool :=
  s.packets.any (fun p => p.pending && (p.src == c.src || p.joined.contains c.src) && decide (p.id < c.id) && (p.isStore || p.isRadd || p.kind == .sigclr) && p.covers va n) ||
  (va / 2 ^ 52 % 16 == 14 &&
    (s.orderedItems (layerOf c.src)).any (fun i => i.op.isWrite && i.src == c.src && decide (i.id < c.id) && i.covers (va % 65536) n))

/-- A source line whose home is another layer or package: it comes in a packet (R292, R322). -/
def Copy.away (c : Copy) (va : Nat) : Bool := decide (va / 2 ^ 52 % 16 ≠ 8 ∧ va / 2 ^ 52 % 16 ≠ 14) && !isLocal (layerOf c.src) (BitVec.ofNat 64 va)

/-- The copy is in flight; the data of an MSEND is no copy's. -/
def State.isLive (s : State) (c : Copy) : Bool := s.copies.any fun d => d.id == c.id

/-- The source lines of `n` bytes from `va` that have to come and have not. -/
def Copy.missing (c : Copy) (va n : Nat) : List Nat :=
  ((List.range ((va % 64 + n + 63) / 64)).map fun j => va / 64 * 64 + 64 * j).filter fun l => c.away l && !(c.reads.any fun r => r.line == l)

/-- A source line is asked for: by joining a read of it that is outstanding, or through the cluster's node (R292).  A copy does not wait for a
page: a read that a home already holds for one gives its cause (R199). -/
def State.askLine (s : State) (c : Copy) (line : Nat) : State :=
  let cl := clusterOf c.src
  match s.readPartner cl c.tag (BitVec.ofNat 64 line) with
  | some q =>
    (match q.stage with
     | .held _ =>
       { s with copies := s.copies.map fun d => if d.id == c.id then { d with reads := d.reads ++ [⟨line, absentCause .load, false, 0⟩] } else d }
     | _ => s.setPacket { q with copies := q.copies ++ [c.id] })
  | none =>
    let p := { Packet.blank with
      kind := .load, id := s.nextId, src := c.src, tag := c.tag, sup := c.sup, colour := c.colour, unit := 3, va := BitVec.ofNat 64 line, n := 64
      copies := [c.id], pos := cl, entry := cl }
    let s := ({ s with nextId := s.nextId + 1 } : State).inject (layerOf c.src) c.colour
    if s.combining cl < 32 then { s with packets := s.packets ++ [{ p with stage := .combining }] } else s.route p

/-- The bytes of a source, line by line: with the fault of the first line that fails. -/
def State.copyRead (s : State) (c : Copy) : (fuel : Nat) → (va : Word) → (n : Nat) → (List Byte × Bool) × Option (Nat × Word) × Bool × State
  | 0, _, _ => (([], false), none, false, s)
  | fuel + 1, va, n =>
    if n = 0 then (([], false), none, false, s)
    else
      let k := min n (64 - va.toNat % 64)
      if s.sourceBusy c va.toNat k then (([], false), none, true, s)
      else if c.away va.toNat ∧ s.isLive c then
        match c.reads.find? fun r => r.line == lineVa va with
        | none => (([], false), none, true, s)
        | some r =>
          if r.cause ≠ 0 then (([], false), some (r.cause, va), false, s)
          else
            match s.copyRead c fuel (va + BitVec.ofNat 64 k) (n - k) with
            | ((bs, p), f, l, s) => ((bytesOf k (lineGet r.data (va.toNat % 64) k) ++ bs, r.poison || p), f, l, s)
      else
        match s.reach c.src c.tag c.sup .load va k with
        | (.later, s) => (([], false), none, true, s)
        | (r, s) =>
          match r.cause with
          | some cause => (([], false), some (cause, va), false, s)
          | none =>
            let ((bs, p), s) := s.take c.src r k
            match s.copyRead c fuel (va + BitVec.ofNat 64 k) (n - k) with
            | ((bs', p'), f, l, s) => ((bs ++ bs', p || p'), f, l, s)

/-- Data that has come to one home: written there, or the copy's fault. -/
def State.landAt (s : State) (c : Copy) (dst : Word) (bs : List Byte) (poison : Bool) : Moved :=
  match s.reach c.src c.tag c.sup .store dst bs.length with
  | (.later, _) => .later
  | (r, s) =>
    match r.cause with
    | some cause => .fault s cause 1 dst
    | none =>
      let s := s.place_ r c.colour bs
      match r, poison with
      | .to (.mem key _) _, true => .ok (s.makePoison (key / 64 * 64) 64)
      | _, _ => .ok s

/-- A CPY.BC is outstanding (R193). -/
def State.broadcasting (s : State) : Bool := s.copies.any fun c => c.form == 2

/-- A CPY.BC goes to every layer once: none of them may sleep (R193). -/
def State.copyAwake (s : State) (c : Copy) : Bool := c.form != 2 || (List.range 8).all fun l => !s.isAsleep l

/-- The range of a CPY.BC on a fenced layer (R193). -/
def State.rangeFenced (s : State) (c : Copy) (r : Nat) : Bool := c.form == 2 && s.isFenced r

def State.setCopy (s : State) (c : Copy) : State := { s with copies := s.copies.map fun d => if d.id == c.id then c else d }
def State.dropCopy (s : State) (id : Nat) : State := { s with copies := s.copies.filter fun c => c.id != id }

/-- The data goes by the Rope, class 3: always for a CPY.BC, else to a layer that is no partner and to which the cluster has no request at the
BD (R308, R322). -/
def State.byBulk (s : State) (c : Copy) (dst : Word) : Bool :=
  let home := homeOf (layerOf c.src) dst
  c.form == 2 || (decide (dieOf dst < 8) && home != layerOf c.src && home != partner (layerOf c.src) && !s.hasAtBd (clusterOf c.src) home && !s.isFenced home)

/-- One destination line of piece `k` moves: read, and performed or sent.  Source lines of other homes are asked for first. -/
def State.moveOne (s : State) (c : Copy) (k : Nat) (p : Piece) : Moved :=
  let o := c.movedOf k
  let n := p.lineLen o
  let src := p.src + BitVec.ofNat 64 o
  let dst := p.dst + BitVec.ofNat 64 o
  let need := c.missing src.toNat n
  if need ≠ [] then
    let fresh := need.filter fun l => !(s.packets.any fun q => q.copies.contains c.id && lineVa q.va == l) && !s.sourceBusy c l 64
    if fresh.isEmpty then .later else .ok (fresh.foldl (fun s l => s.askLine c l) s)
  else
  match s.copyRead c 3 src n with
  | (_, some (cause, va), _, s) => .fault s cause 0 va
  | (_, none, true, _) => .later
  | ((bs, poison), none, false, s) =>
    let used (r : CopyRead) : Bool := decide (lineVa src ≤ r.line ∧ r.line + 64 ≤ src.toNat + n)
    let c' := { c with moved := Table.put c.moved (c.moveKey k) (o + n), reads := c.reads.filter fun r => !used r }
    if s.byBulk c dst then
      let i := { Item.blank with
        op := .bulk c.id k o, id := c.id, src := c.src, tag := c.tag, n := n, sig := BitVec.ofNat 512 (valOf bs)
        off := if c.form = 2 then 8 else homeOf (layerOf c.src) dst, val := if poison then 1#64 else 0#64, colour := some c.colour }
      .ok (((s.setCopy { c' with flying := c.flying ++ (c.together k).map fun j => (j, o) }).injectItem i).enqueue (layerOf c.src) 3 i)
    else if !isLocal (layerOf c.src) dst &&
        s.packets.any (fun q => decide (q.stage = .bdHeld) && dieOf q.va == dieOf dst && clusterOf q.src == clusterOf c.src) then .later
    else
      match s.landAt c dst bs poison with
      | .ok s => .ok (s.setCopy c')
      | m => m

/-! ### Arrival updates (R197, R198) -/

/-- COUNT, TARGET and GEN after `n` more bytes. -/
def arrive (count target gen n : Nat) : Nat × Nat :=
  let c := (count + n) % 2 ^ 64
  if target = 0 then (c, gen) else (c % target, (gen + c / target) % 2 ^ 32)

/-- An arrival word after an update; a signed one also gains a signature, and its reserved bytes are written as zero (R5). -/
def arrivalWord (w : BitVec 1024) (signed : Bool) (n : Nat) (sig : Line) : BitVec 1024 :=
  let target := w.toNat / 2 ^ 64 % 2 ^ 32
  let (c, g) := arrive (w.toNat % 2 ^ 64) target (w.toNat / 2 ^ 96 % 2 ^ 32) n
  let low := c + target * 2 ^ 64 + g * 2 ^ 96
  let rest := w.toNat / 2 ^ 512 * 2 ^ 512
  let w : BitVec 1024 := BitVec.ofNat 1024 (low + rest)
  if signed then
    let s : Line := w.extractLsb' 512 512 ||| sig
    let s := if 192 ≤ popcount s then BitVec.allOnes 512 else s
    (w &&& (BitVec.allOnes 512).setWidth 1024) ||| (s.setWidth 1024 <<< 512)
  else w

/-- The scope of an update is die: the piece and the word are homed on the issuing layer (R198). -/
def dieScope (layer : Nat) (arr dst : Word) : Bool := isLocal layer arr && isLocal layer dst

/-- The update at the home of an arrival word, as a release: on device memory only at die scope (R127, R198). -/
def State.updateArrival (s : State) (src : Nat) (g : Tag) (sup colour : Bool) (arr dst : Word) (n : Nat) (sig : Line) : Moved :=
  let signed := arr.toNat % 128 == 0
  let size := if signed then 128 else 16
  match s.reach src g sup .store arr size with
  | (.later, _) => .later
  | (r, s) =>
    let dev := match r with | .to (.mem _ mt) _ => mt == 3 | .to (.bd _ mt) _ => mt == 3 | _ => false
    match (if dev && !dieScope (layerOf src) arr dst then some 0x0C else r.cause) with
    | some cause => .fault s cause 2 arr
    | none =>
      let ((bs, _), s) := s.take src r size
      .ok (s.place_ r colour (bytesOf size (arrivalWord (BitVec.ofNat 1024 (valOf bs)) signed n sig).toNat))

/-- A piece whose data has been performed: its arrival update is made when it is the next of its range; else it waits for its
turn (R192). -/
def State.pieceDone (s : State) (c : Copy) (k : Nat) (p : Piece) : Moved :=
  let r := c.rangeOf k
  let c := { c with sig := c.sig ||| spanSig p.dst p.len }
  let waits := { c with ahead := k :: c.ahead.filter (· != k) }
  if c.cursor r = k then
    let c' := { c with
      next := Table.put c.next r (c.after k), ahead := c.ahead.filter (· != k)
      moved := if c.form = 2 then c.moved else Table.del c.moved k }
    if !c.hasArr then .ok (s.setCopy c')
    else
      match s.updateArrival c.src c.tag c.sup c.colour c.arr p.dst p.len (spanSig p.dst p.len) with
      | .ok s => .ok (s.setCopy { c' with doneBytes := c.doneBytes + p.len })
      | .fault s cause kind va => .fault (s.setCopy waits) cause kind va
      | .later => if c.ahead.contains k then .later else .ok (s.setCopy waits)
  else .ok (s.setCopy waits)

/-- Piece `k` may go on: it has not made its update, and does not only wait for its turn. -/
def Copy.pieceOpen (c : Copy) (k : Nat) : Bool :=
  let r := c.rangeOf k
  decide (c.cursor r ≤ k) && (c.cursor r == k || !c.ahead.contains k)

/-- A range of a CPY.BC on a fenced layer gets no beat; the copy stops when the others are done (R193). -/
def State.fencedRange (s : State) (c : Copy) (k : Nat) : Moved :=
  if (List.range 8).all (fun r => s.isFenced r || c.rangeDone r) then .fault s 0x0F 1 (c.runDst (c.rangeOf k)) else .later

/-- Piece `k` goes on by one: a line of its data, or its arrival update. -/
def State.copyStep (s : State) (c : Copy) (k : Nat) : Moved :=
  match c.piece k with
  | none => .later
  | some p =>
    if !c.pieceOpen k || !s.copyAwake c then .later
    else if s.rangeFenced c (c.rangeOf k) then s.fencedRange c k
    else if c.movedOf k < p.len then s.moveOne c k p
    else if c.flying.any (fun f => f.1 == k) then .later
    else s.pieceDone c k p

/-- The lines of piece `k` move, as far as they can now. -/
def State.moveRest (s : State) (id k : Nat) (p : Piece) : (fuel : Nat) → Moved
  | 0 => .ok s
  | fuel + 1 =>
    match s.copies.find? (fun c => c.id == id) with
    | none => .later
    | some c =>
      if p.len ≤ c.movedOf k then .ok s
      else
        match s.moveOne c k p with
        | .ok s =>
          (match s.moveRest id k p fuel with
           | .later => .ok s
           | m => m)
        | m => m

/-- Piece `k` goes on as far as it can: the rest of its data, then its arrival update when all of it has been performed. -/
def State.pieceStep (s : State) (c : Copy) (k : Nat) : Moved :=
  match c.piece k with
  | none => .later
  | some p =>
    if !c.pieceOpen k || !s.copyAwake c || c.flying.any (fun f => f.1 == k) then .later
    else if s.rangeFenced c (c.rangeOf k) then s.fencedRange c k
    else
      match s.moveRest c.id k p 66 with
      | .ok s =>
        (match s.copies.find? (fun d => d.id == c.id) with
         | some c =>
           if c.movedOf k < p.len ∨ c.flying.any (fun f => f.1 == k) then .ok s else s.pieceDone c k p
         | none => .later)
      | m => m

/-! ### How a copy ends -/

def decCg (t : Thread) (g : Nat) : Thread :=
  let v := Table.at 0#7 t.cg g
  { t with cg := Table.put t.cg g (if v = 0#7 then 0#7 else v - 1#7) }

/-- The RDC lines of the issuing cluster that the copy has written go (R192), and fills that were read before it wrote do not come. -/
def State.dropWritten (s : State) (c : Copy) : State :=
  { s with rdc := s.rdc.filter fun l => !(l.cl == clusterOf c.src && decide (l.tag = c.tag) && c.wroteLine l.va) }.stopFills
    (clusterOf c.src) fun p line => decide (p.tag = c.tag) && c.wroteLine line

/-- psig, then the RDC, then the copy is no longer in flight. -/
def State.endCopy (s : State) (c : Copy) : State :=
  let t := s.thread c.src
  (((s.setThread c.src { t with psig := t.psig ||| c.performedSig }).dropWritten c).dropCopy c.id).consume c.agent c.colour

/-- R192: completion. -/
def State.completeCopy (s : State) (c : Copy) : State :=
  let s := s.endCopy c
  s.setThread c.src (decCg (s.thread c.src) c.cg)

/-- The piece from which a copy would be resumed, and its range (R200): the first without an update; for CPY.BC the first on
any layer. -/
def Copy.resume (c : Copy) : Nat × Nat :=
  if c.form = 2 then
    (List.range 8).foldl (fun b r => if c.cursor r % pieceBase < b.1 % pieceBase then (c.cursor r, r) else b) (c.cursor 0, 0)
  else (c.cursor 0, 0)

/-- The copy record of a stopped copy (R200). -/
def Copy.recordLine (c : Copy) (cause kind : Nat) (fva : Word) : Line :=
  let (k, _) := c.resume
  let r := k / pieceBase
  let lo := match c.piece k with | some p => (p.dst - c.runDst r).toNat | none => 0
  let src := if c.form = 1 then c.runSrc r else c.from_ + BitVec.ofNat 64 lo
  let dst := if c.form = 1 then c.runDst r else if c.form = 2 then BitVec.ofNat 64 (offOf c.dst + lo) else c.dst + BitVec.ofNat 64 lo
  let len := if c.form = 1 then c.runLen + (c.runs - r) * 2 ^ 32 else c.len.toNat - lo
  Machine.recordLine [(0, 2), (1, cause), (2, kind), (3, c.form + 4 * c.cg), (8, fva.toNat), (16, src.toNat), (24, dst.toNat),
    (32, len), (40, if c.form = 1 then c.strides.toNat else 0), (48, c.arr.toNat), (56, c.doneBytes % 2 ^ 64)]

/-- R199: the copy stops; psig and the RDC as at completion, then a record for the thread. -/
def State.stopCopy (s : State) (c : Copy) (cause kind : Nat) (fva : Word) : State :=
  let s := s.endCopy c
  let t := s.thread c.src
  s.setThread c.src { t with copyRecs := t.copyRecs ++ [⟨c.tag, c.cg, fva, c.recordLine cause kind fva⟩] }

/-- R199: the copy stops at the fault, as it then stands. -/
def State.stopOn (s : State) (id cause kind : Nat) (fva : Word) : State :=
  match s.copies.find? (fun c => c.id == id) with
  | some c => s.stopCopy c cause kind fva
  | none => s

/-! ### Issue (R190, R191) -/

/-- R191 step 1 for a range of `n` bytes: the address at fault. -/
def State.rangeForm (s : State) (va : Word) (n : Nat) : Option Word :=
  let last := va + BitVec.ofNat 64 (n - 1)
  if !s.formOk va then some va
  else if !s.formOk last || dieOf last != dieOf va || decide (last < va) then some last
  else none

/-- The first run with a bad form. -/
def State.runsForm (s : State) (f : Nat → Word) (n : Nat) : (fuel : Nat) → (r : Nat) → Option Word
  | 0, _ => none
  | fuel + 1, r => match s.rangeForm (f r) n with | some va => some va | none => s.runsForm f n fuel (r + 1)

/-- The first of `n` runs that satisfies a test, from run `r` on. -/
def firstRun (f : Word → Bool) (at_ : Nat → Word) : (n : Nat) → (r : Nat) → Option Word
  | 0, _ => none
  | n + 1, r => if f (at_ r) then some (at_ r) else firstRun f at_ n (r + 1)

/-- R191: the precise causes, with the arrival word's steps 1 to 3.  The register of a CPY.BC names no range of its own: its bits 63 to 52
are checked as an address's are (log 73). -/
def State.copyCheck (s : State) (c : Copy) (dstReg : Word) : Res Unit :=
  let trap (code : Nat) (kind : AKind) (va : Word) : Res Unit := .stop (memTrap code kind 3 va s)
  let die := dieOf dstReg
  let noDie := c.form = 2 ∧ (dstReg.extractLsb' 56 8 ≠ 0#8 ∨ 10 ≤ die ∧ die ≤ 13)
  let window :=
    if c.form = 2 then (if die = 8 ∨ die = 9 ∨ die = 14 then some dstReg else none)
    else firstRun (fun d => dieOf d == 14) c.runDst c.runs 0
  match s.runsForm c.runSrc c.runLen (if c.form = 1 then c.runs else 1) 0 with
  | some va => trap 0x0F .load va
  | none =>
    match (if noDie then some dstReg else s.runsForm c.runDst c.runLen c.runs 0) with
    | some va => trap 0x0F .store va
    | none =>
      match (if c.hasArr then s.rangeForm c.arr 16 else none) with
      | some va => trap 0x0F .store va
      | none =>
        match window with
        | some va => trap 0x0B .store va
        | none =>
          if c.hasArr ∧ dieOf c.arr = 14 then trap 0x0B .store c.arr
          else if c.hasArr ∧ c.arr.toNat % 16 ≠ 0 then trap 0x0E .store c.arr
          else .ok () s

/-- Copies and messages of the current thread's core in flight, and MSENDs that hold a slot: at most 96 (R21, R205). -/
def State.slotsUsed (s : State) : Nat :=
  (s.copies.filter fun c => coreOf c.src == s.myCore).length + (s.messages.filter fun m => coreOf m.src == s.myCore).length +
    ([2 * s.myCore, 2 * s.myCore + 1].filter fun p => (s.thread p).sending).length

/-- A copy of the current thread that moves nothing. -/
def State.copyBlank (s : State) : Copy where
  id := s.nextId
  src := s.cur
  tag := s.th.tag
  sup := s.th.sv
  colour := s.colour s.th
  cg := 0
  form := 0
  dst := 0
  from_ := 0
  len := 0
  strides := 0
  arr := 0
  hasArr := false
  next := []
  ahead := []
  moved := []
  flying := []
  reads := []
  sig := 0
  doneBytes := 0
  agent := 0

/-- A copy form: nothing to move, a precise cause, a wait for a slot, or issue. -/
def copyIssue (form : Nat) (g : BitVec 3) (dst src len strides : Word) (arr : Reg) (s : State) : Out :=
  let c : Copy := { s.copyBlank with
    cg := g.toNat, form := form, dst := dst, from_ := src, len := len, strides := strides
    arr := s.th.rx arr, hasArr := arr != 0#5, agent := if form = 2 then 8 else s.agentTo s.cur dst }
  if c.empty then finish 4 s id
  else
    ((s.copyCheck c dst).bind fun _ s =>
      if 96 ≤ s.slotsUsed then .stop s.await
      else
        let s := { s with nextId := s.nextId + 1, copies := s.copies ++ [c] }.inject (layerOf c.src) c.colour
        let t := s.th.irrev
        .ok () (s.setTh ({ t with cg := Table.put t.cg g.toNat (Table.at 0#7 t.cg g.toNat + 1#7) }.complete 4))).out

/-- R190; rs3 = x0 means no arrival word. -/
def execCpy (g : BitVec 3) (d a b c : Reg) (s : State) : Out :=
  copyIssue 0 g (s.th.rx d) (s.th.rx a) (s.th.rx b) 0#64 c s

/-- R190: x[rs2] holds row length and rows, x[rs2 + 1] the strides. -/
def execCpy2d (g : BitVec 3) (d a b c : Reg) (s : State) : Out :=
  legal (.cpy2d g d a b c) s (copyIssue 1 g (s.th.rx d) (s.th.rx a) (s.th.rx b) (s.th.rx (b + 1#5)) c s)

/-- R190: offset x[rd][51:0] on every layer. -/
def execCpyBc (g : BitVec 3) (d a b c : Reg) (s : State) : Out :=
  copyIssue 2 g (s.th.rx d) (s.th.rx a) (s.th.rx b) 0#64 c s

/-! ### Wait, poll, cancel (R196) -/

def Thread.cgOf (t : Thread) (g : BitVec 3) : BitVec 7 := Table.at 0#7 t.cg g.toNat

/-- R196: parks until CG[cg] ≤ n. -/
def execCwait (g : BitVec 3) (n : BitVec 7) (s : State) : Out :=
  legal (.cwait g n) s (if s.th.cgOf g ≤ n then finish 4 s id else .next (s.parkOn (.cwait g.toNat n.toNat)))

/-- R196. -/
def execCpoll (d : Reg) (g : BitVec 3) (s : State) : Out := finish 4 s fun t => t.wx d ((t.cgOf g).setWidth 64)

/-- R196: copies of the thread on the counter stop; what they have written stands and sets psig bits. -/
def execCcancel (g : BitVec 3) (s : State) : Out :=
  let cs := s.copies.filter fun c => c.src == s.cur && c.cg == g.toNat
  let s := cs.foldl (fun s c =>
    let t := s.thread c.src
    ((s.setThread c.src { t with psig := t.psig ||| c.writtenSig }).dropCopy c.id).consume c.agent c.colour) s
  finish 4 s fun t =>
    { t.irrev with cg := Table.put t.cg g.toNat 0#7, copyRecs := t.copyRecs.filter fun r => r.cg != g.toNat }

end Sys2Proof.Machine
end

