-- ==== Sys2Proof/Machine/Messages.lean ====
section
/-!
DEFINITION. Messages: MSEND, MPOST, and the placing of a message (R202 to R207).
-/

namespace Sys2Proof.Machine

/-- R202: the fields of an endpoint register. -/
def epQueue (e : Word) : Nat := e.toNat % 4096
def epPkg (e : Word) : Nat := (e.extractLsb' 12 12).toNat
def epHost (e : Word) : Bool := e.getLsbD 24
/-- 2^24 bytes: the longest message and the longest buffer (R203, R205). -/
def longest : Nat := 2 ^ 24

/-- R191 steps 1 to 3 for a completion or receive-status word. -/
def State.wordCheck (s : State) (va : Word) : Res Unit :=
  match s.rangeForm va 16 with
  | some a => .stop (memTrap 0x0F .store 3 a s)
  | none =>
    if dieOf va = 14 then .stop (memTrap 0x0B .store 3 va s)
    else if va.toNat % 16 ≠ 0 then .stop (memTrap 0x0E .store 3 va s)
    else .ok () s

/-- A 16-byte word of a message is written for its thread (R204, R206): STATUS or LENGTH and the rest; a word that can no
longer be reached is not written. -/
def State.putWord (s : State) (src : Nat) (g : Tag) (sup colour : Bool) (va : Word) (v : Nat) : State :=
  match s.reach src g sup .store va 16 with
  | (r, s) => s.place_ r colour (bytesOf 16 v)

/-- A completion word (R206). -/
def completion (status detail len : Nat) : Nat := status % 2 ^ 32 + detail % 2 ^ 32 * 2 ^ 32 + len % 2 ^ 64 * 2 ^ 64
/-- A receive-status word (R204). -/
def receiveStatus (len flags sender : Nat) : Nat := len % 2 ^ 64 + flags % 2 ^ 32 * 2 ^ 64 + sender % 2 ^ 32 * 2 ^ 96

/-- MSEND retires (R345: it is irrevocable). -/
def State.sendDone (s : State) : Res Unit := .ok () (s.setTh (s.th.irrev.complete 4))

/-- STATUS and DETAIL of a send that ends at issue; the word's layer may have to wake first (R205, R326). -/
def endSend (comp : Word) (bs : List Byte) (s : State) : Res Unit :=
  let t := s.th
  match s.reach s.cur t.tag t.sv .store comp bs.length with
  | (.later, _) => .stop (s.wakeFor (homeOf s.myLayer comp)).await
  | (r, s) => (s.place_ r (s.colour t) bs).sendDone

/-- The agent at which a message to an endpoint is consumed: the BD, whose queues and host port take it, or the Ridge port to another
package. -/
def State.sendAgent (s : State) (ep : Word) : Nat :=
  if epHost ep ∨ epPkg ep = s.basecamp.pkg.toNat then 8 else s.ridgeAgent (epPkg ep) (s.ridgePort s.myCluster (epPkg ep) 0)

/-- After STATUS := 0: the waits, the length and endpoint check, the source, and the sending (R205). -/
def sendOn (persist : Bool) (ep src len comp : Word) (s : State) : Res Unit :=
  let t := s.th
  if !s.performedAt 3#2 then .stop s.await
  else if ep.toNat / 2 ^ 25 ≠ 0 ∨ longest < len.toNat then endSend comp (bytesOf 4 0x12) s
  else
    match s.copyRead s.copyBlank (len.toNat / 64 + 2) src len.toNat with
    | (_, some (cause, _), _, s) => endSend comp (bytesOf 16 (completion 0x14 cause 0)) s
    | (_, none, true, _) => .stop (s.wakeFor (homeOf s.myLayer src)).await
    | ((bs, _), none, false, s) =>
      let m : Message := ⟨s.nextId, s.cur, t.tag, t.sv, s.colour t, persist, ep, bs, comp, s.sendAgent ep, none⟩
      ({ s with nextId := s.nextId + 1, messages := s.messages ++ [m] }.inject (layerOf m.src) m.colour).sendDone

/-- R205: the checks, a slot of the core, STATUS of the completion word := 0, then the rest. -/
def execMsend (p : BitVec 1) (d a b c : Reg) (s : State) : Out :=
  let t := s.th
  let ep := t.rx d
  let src := t.rx a
  let len := t.rx b
  let comp := t.rx c
  (if t.sent then sendOn (p == 1#1) ep src len comp s
   else
     match (if len = 0#64 then none else s.rangeForm src len.toNat) with
     | some va => .stop (memTrap 0x0F .load 3 va s)
     | none =>
       (s.wordCheck comp).bind fun _ s =>
         if 96 ≤ s.slotsUsed then .stop s.await
         else
           (s.writeSpan 3 comp 4 4 0).bind fun _ s =>
             sendOn (p == 1#1) ep src len comp (s.setTh { s.th with sent := true, sending := true }) : Res Unit).out

/-- Buffers posted to a queue of this package, the oldest first. -/
def State.postedTo (s : State) (q : Nat) : List Posted := Table.at [] s.posted q

/-! ### Placing a message (R204, R207) -/

/-- What placing a message comes to. -/
inductive Placing where
  | placed (s : State)
  /-- A page of the buffer or of the status word is not present at a layer: its address, and DETAIL of the record (R267). -/
  | absent (s : State) (va : Word) (detail : Nat)
  /-- A cause, or a page that is not present in a pinned context (R266): NACK 0x11 with this DETAIL. -/
  | nack (s : State) (cause : Nat)
  | later
  deriving DecidableEq

/-- The first line of a buffer that cannot be written: nothing is written before every line has been checked (R207). -/
def State.placeCheck (s : State) (b : Posted) : (fuel : Nat) → (va : Word) → (n : Nat) → Option Placing × State
  | 0, _, _ => (none, s)
  | fuel + 1, va, n =>
    if n = 0 then (none, s)
    else
      let k := min n (64 - va.toNat % 64)
      match s.reach b.src b.tag b.sup .store va k with
      | (.absent _ false malf lvl, s) => (some (.absent s va ((if malf then 1 else 0) + lvl * 2)), s)
      | (.absent cause true _ _, s) => (some (.nack s cause), s)
      | (.fail cause, s) => (some (.nack s cause), s)
      | (.later, s) => (some .later, s)
      | (_, s) => s.placeCheck b fuel (va + BitVec.ofNat 64 k) (n - k)

/-- Writes the bytes of a message line by line. -/
def State.placeBytes (s : State) (b : Posted) (colour : Bool) : (fuel : Nat) → (va : Word) → List Byte → State
  | 0, _, _ => s
  | fuel + 1, va, bs =>
    if bs.isEmpty then s
    else
      let k := 64 - va.toNat % 64
      match s.reach b.src b.tag b.sup .store va (min k bs.length) with
      | (r, s) => (s.place_ r colour (bs.take k)).placeBytes b colour fuel (va + BitVec.ofNat 64 k) (bs.drop k)

/-- Signature of the lines written, for a signed status word (R198). -/
def placeSig (b : Posted) (n : Nat) : Line := if n = 0 then 0#512 else spanSig b.va n

/-- The status word's SIG field, when it is signed, gains a signature as an arrival word does (R198, R204).  DESIGN CHOICE: the word is written
on a device page too, since a message has no scope that 0x0C could come from (log 95). -/
def State.putStatus (s : State) (b : Posted) (colour : Bool) (v : Nat) (sig : Line) : State :=
  let s := s.putWord b.src b.tag b.sup colour b.status v
  if b.status.toNat % 128 = 0 then
    match s.reach b.src b.tag b.sup .store (b.status + 64#64) 64 with
    | (r, s) =>
      let ((bs, _), s) := s.take b.src r 64
      let g : Line := BitVec.ofNat 512 (valOf bs) ||| sig
      let g := if 192 ≤ popcount g then BitVec.allOnes 512 else g
      s.place_ r colour (bytesOf 64 g.toNat)
  else s

/-- Places a message of `sender` into its buffer and updates the status word (R204).  The thread that posted the buffer is interrupted wherever
it is resident (R301). -/
def State.placeMessage (s : State) (b : Posted) (q sender : Nat) (colour : Bool) (data : List Byte) : Placing :=
  let n := min data.length b.len
  match s.placeCheck b (n / 64 + 2) b.va n with
  | (some p, _) => p
  | (none, s) =>
    match s.placeCheck b 2 b.status 16 with
    | (some p, _) => p
    | (none, s) =>
      let flags := 1 + (if b.len < data.length then 2 else 0)
      let s := s.placeBytes b colour (n / 64 + 2) b.va (data.take n)
      let s := s.putStatus b colour (receiveStatus data.length flags sender) (placeSig b n)
      match s.threads.find? fun e => e.2.resident && e.2.who == b.who && decide (e.2.tag = b.tag) with
      | some (p, t) =>
        let i : Irq16 := match t.irq16 with
          | some i => { i with count := i.count + 1 }
          | none => ⟨1, false, q, 0⟩
        .placed (s.setThread p { t with irq16 := some i })
      | none => .placed s

/-- R207, R268: a message that meets a page that is not present joins or opens a group of the layer, and waits; with the group
table full it waits for a retry.  A page of another package is that package's to bring: the message waits for its replay (group 9). -/
def State.holdMessage (s : State) (m : Inbound) (b : Posted) (va : Word) (detail : Nat) : State :=
  let layer := homeOf (layerOf b.src) va
  if dieOf va = 9 then { s with inbound := s.inbound ++ [{ m with buf := some b, group := some (9, 0) }] }
  else
  let origin := if m.brought.isSome ∧ m.sender < 4096 then 24 else if layer = layerOf b.src then 0 else 8
  let (g, s) := s.joinGroup layer b.tag va 0x0A 4 (layerOf b.src + origin) detail 0
  { s with inbound := s.inbound ++ [{ m with buf := some b, group := g.map fun n => (layer, n) }] }

/-- The colour of a message (R359): its sender's if a thread of this package sent it; of one from outside, that with which it came in. -/
def State.messageColour (s : State) (m : Inbound) : Bool :=
  match s.messages.find? (fun x => x.id == m.id), m.brought with
  | some x, _ => x.colour
  | none, some (_, c, _) => c
  | none, none => s.devColour

/-- The colour of a message that comes in (R359): of one from a pod member, `given`, which its package gave it; of any other, that of an
inbound write. -/
def State.inboundColour (s : State) (sender : Nat) (given : Bool) : Bool :=
  if s.cairn.pod ∧ sender < 4096 ∧ s.inPod sender then given else s.devColour

/-- A message from outside the package has been placed or refused: the queue, at the BD, has consumed it (R361). -/
def State.consumeInbound (s : State) (m : Inbound) : State := if m.brought.isSome then s.consume 8 (s.messageColour m) else s

/-- The target's answer to a message that a thread of this package has sent (R206); a receive queue cannot persist. -/
def State.answerSend (s : State) (id status detail len : Nat) : State :=
  { s with messages := s.messages.map fun m =>
      if m.id = id then { m with answer := some (if m.persist ∧ status = 1 then 0x13 else status, detail, len) } else m }

/-- The buffer of a message at the port: the one that it has consumed, or the oldest posted, which it consumes now (R203). -/
def State.takeBuffer (s : State) (m : Inbound) : Option Posted × State :=
  match m.buf, s.postedTo m.queue with
  | some b, _ => (some b, s)
  | none, b :: rest => (some b, { s with posted := Table.put s.posted m.queue rest })
  | none, [] => (none, s)

/-- A message is at the port: it is placed, waits, or is discarded (R204, R207). -/
def State.offer (s : State) (m : Inbound) : State :=
  match s.takeBuffer m with
  | (none, s) => { s with inbound := s.inbound ++ [m] }
  | (some b, s) =>
    match s.placeMessage b m.queue m.sender (s.messageColour m) m.data with
    | .placed s => (s.answerSend m.id 1 0 (min m.data.length b.len)).consumeInbound m
    | .absent s va detail => s.holdMessage m b va detail
    | .nack s cause => (s.answerSend m.id 0x11 cause 0).consumeInbound m
    | .later => { s with inbound := s.inbound ++ [{ m with buf := some b }] }

/-- Messages that wait for no page are offered again, the oldest first. -/
def State.offerWaiting (s : State) : State :=
  s.inbound.foldl (fun s m =>
    if m.group.isNone then { s with inbound := s.inbound.filter fun x => x.id != m.id }.offer m else s) s

/-- R191 steps 1 to 3 for a buffer and its receive-status word (R203); a buffer that is refused for its length is not checked. -/
def State.postCheck (s : State) (va : Word) (n : Nat) (st : Word) : Res Unit :=
  let buffer := decide (n ≠ 0 ∧ n ≤ longest)
  match (if buffer then s.rangeForm va n else none) with
  | some a => .stop (memTrap 0x0F .store 3 a s)
  | none =>
    match s.rangeForm st 16 with
    | some a => .stop (memTrap 0x0F .store 3 a s)
    | none => if buffer && dieOf va == 14 then .stop (memTrap 0x0B .store 3 va s) else s.wordCheck st

/-- R203; messages that wait for a buffer are placed (R204).  DEDUCED: EVA of a bad endpoint is the endpoint (log 35). -/
def execMpost (d a b c : Reg) (s : State) : Out :=
  let t := s.th
  let ep := t.rx d
  let va := t.rx a
  let len := t.rx b
  let st := t.rx c
  (if ep.extractLsb' 12 13 ≠ 0#13 then .stop (memTrap 0x0F .store 3 ep s)
   else
     (s.postCheck va len.toNat st).bind fun _ s =>
       if longest < len.toNat then
         (s.writeSpan 3 st 16 16 (receiveStatus len.toNat 4 0)).bind fun _ s => s.sendDone
       else if 64 ≤ (s.postedTo (epQueue ep)).length then .stop s.await
       else
         let q := s.postedTo (epQueue ep) ++ [⟨s.cur, t.who, t.tag, t.sv, va, len.toNat, st⟩]
         ({ s with posted := Table.put s.posted (epQueue ep) q } : State).offerWaiting.sendDone : Res Unit).out

end Sys2Proof.Machine
end

