-- ==== Sys2Proof/Machine/Cairn.lean ====
section
/-!
DEFINITION. Cairn, the snapshot engine (R356 to R370): arming, flips, the colour sweep, closing, the drain, and ends.
-/

namespace Sys2Proof.Machine

/-- Every layer of LMASK gets a new cut record (R370). -/
def State.writeRecords (s : State) : State :=
  let c := s.cairn
  ((List.range 8).filter c.lmask.getLsbD).foldl (fun s l =>
    s.setLayer l { s.layer l with cutRecord := some ⟨c.s, c.ctx, c.lmask, c.state, c.epoch, c.stage, c.seq⟩ }) s

/-- STATE changes, and with it the records (R370). -/
def State.setCut (s : State) (st : Nat) : State := { s with cairn := { s.cairn with state := st } }.writeRecords

/-- A staging slot is freed: its 4 KiB of the staging region, above the first 64 MiB, hold what it held (R363). -/
def State.leaveSlot (s : State) (layer : Nat) (c : Staged) : State :=
  { s with hbm := Memory.writeBytes s.hbm (physKey layer (s.cairn.stagingBase + 2 ^ 26 + 4096 * c.slot)) (bytesOf 4096 c.data.toNat) }

/-- Map bits and staging slots of every layer are cleared. -/
def State.clearStaging (s : State) : State :=
  (List.range 8).foldl (fun s l =>
    let s := (s.layer l).staged.foldl (fun s e => s.leaveSlot l e.2) s
    s.setLayer l { s.layer l with drained := [], staged := [] }) s

/-- Every thread goes back to colour E (R359). -/
def State.clearFlips (s : State) : State := { s with threads := Table.mapVals (fun t => { t with flipped := false }) s.threads }

/-- The sectors of a cache that are dirty in a colour. -/
def dirtyIn (tb : Table Dirty) (c : Bool) : List Nat := (tb.filter fun e => e.2.colour == c).map (·.1)

/-- R361 step 3: every sector dirty in colour E is written back and marked clean. -/
def State.sweep (s : State) : State :=
  (((dirtyIn s.l1d s.cairn.epoch ++ dirtyIn s.hs s.cairn.epoch).map (· / 4)).eraseDups).foldl (fun s l => s.wbColour l s.cairn.epoch) s

/-- DURABLE, FAILED or ABORTED is entered: EPOCH flips, slots and map bits go, and writes that had stalled go on (R358, R365, R369). -/
def State.endCut (s : State) (st : Nat) : State :=
  let s := (s.setCut st).clearStaging.clearFlips
  let s := s.cairn.stalled.foldl State.wbHs s
  { s with cairn := { s.cairn with epoch := !s.cairn.epoch, flying := [], wanted := [], stalled := [] } }

/-- R369: a cut that is armed or closing sweeps first; one that drains ends at once. -/
def State.abortCut (s : State) : State :=
  if s.cairn.state = 1 ∨ s.cairn.state = 2 then s.sweep.endCut 6
  else if s.cairn.state = 3 then s.endCut 6
  else s

/-- Copy data on its way to the stations. -/
def State.bulkItems (s : State) : List Item :=
  ((List.range 8).flatMap fun l => Table.at [] (s.layer l).queue 3 ++ Table.at [] (s.layer l).retrans 3) ++
    (s.air.filter fun x => x.cls == 3).flatMap (·.items)

/-- The agents that have injected what is under way in a colour: packets, copies, messages, those from outside that wait at the port, and ordered
and bulk items (R361, R405). -/
def State.inFlightOf (s : State) (c : Bool) : List Nat :=
  ((s.packets.filter fun p => p.colour == c).map fun p => layerOf p.src) ++
    ((s.copies.filter fun p => p.colour == c).map fun p => layerOf p.src) ++
    ((s.messages.filter fun m => m.colour == c).map fun m => layerOf m.src) ++
    (s.inbound.filterMap fun m => match m.brought with | some (_, d, a) => if d == c then some a else none | none => none) ++
    ((((List.range 8).flatMap s.orderedItems ++ s.bulkItems).filter fun i => i.colour == some c).map fun i => layerOf i.src)

/-- The flips counted reach NMEMBER (R358). -/
def State.checkFlips (s : State) : State :=
  if s.cairn.state = 1 ∧ s.cairn.nmember ≤ s.cairn.flips then s.setCut 2 else s

/-- A cut is armed at step `st` (R358, R364). -/
def State.armCut (s : State) (st : Word) : State :=
  let s := s.clearStaging.clearFlips
  let c := { s.cairn with
    s := st, flips := 0, injected := (s.inFlightOf s.cairn.epoch).foldl oneMore [], consumed := [], lastRound := none, rounds := 0
    met := false, reported := none, collected := none, podClosed := false, closedTo := [], resumed := false, seq := 0, flying := [], wanted := [], stalled := [] }
  ({ s with cairn := c }.setCut 1).checkFlips

/-- R226: a CSTEP of a member that reaches S flips the thread's colour, and Cairn counts it (R359, R360). -/
def State.flip (s : State) : State :=
  let t := s.th
  if s.cairn.active ∧ t.tag.ctx = s.cairn.ctx ∧ t.step = s.cairn.s ∧ t.flipped = false then
    let s := s.setTh { t with flipped := true }
    if s.cairn.state = 1 then { s with cairn := { s.cairn with flips := s.cairn.flips + 1 } }.checkFlips else s
  else s

/-- R357: SNAPCTL as it reads. -/
def Cairn.word (c : Cairn) : Word :=
  BitVec.ofNat 64 (c.ctx.toNat * 2 ^ 52 + c.lmask.toNat * 2 ^ 44 + c.stage.toNat * 2 ^ 40 + (if c.pod then 2 ^ 39 else 0) +
    c.state % 8 * 2 ^ 35 + (if c.epoch then 2 ^ 34 else 0) + c.nmember % 4096 * 2 ^ 22)

/-- R357: a write of SNAPCTL. -/
def State.writeSnapctl (s : State) (v : Word) : State :=
  let s :=
    if s.cairn.active then s
    else
      { s with cairn := { s.cairn with
          ctx := v.extractLsb' 52 12, lmask := v.extractLsb' 44 8, stage := v.extractLsb' 40 4, pod := v.getLsbD 39
          nmember := min (v.extractLsb' 22 12).toNat 2048 } }
  if v.getLsbD 38 then s.abortCut else s

/-- R227: the status of a SNAPARM at a thread whose STEP is `step`, and what it does. -/
def State.snaparm (s : State) (st step : Word) : Nat × State :=
  if s.cairn.active then (1, s) else if st ≤ step then (2, s) else (0, s.armCut st)

/-! ### The drain (R367, R368) -/

def State.isFlying (s : State) (layer g : Nat) : Bool := s.cairn.flying.any fun f => f.layer == layer && f.granule == g

/-- A granule whose map bit is 1 and that is not on its way. -/
def State.undrained (s : State) (layer g : Nat) : Bool :=
  s.cairn.inImage layer (4096 * g) && !(s.layer layer).drained.contains g && !s.isFlying layer g

/-- A staged granule of a layer with fewer than 1,024 free slots. -/
def State.stagedFirst (s : State) (layer : Nat) : Option (Nat × Nat) :=
  let y := s.layer layer
  if s.cairn.slots < y.staged.length + 1024 then
    ((y.staged.map (·.1)).find? (s.undrained layer)).map fun g => (layer, g)
  else none

/-- The next granule to send: one that a stalled write waits for, a staged one where slots run short, else the lowest. -/
def State.nextGranule (s : State) : Option (Nat × Nat) :=
  match s.cairn.wanted.find? (fun w => s.undrained w.1 w.2) with
  | some w => some w
  | none =>
    match (List.range 8).findSome? s.stagedFirst with
    | some w => some w
    | none =>
      (List.range 8).findSome? fun l =>
        if s.cairn.lmask.getLsbD l then
          ((List.range (s.cairn.stagingBase / 4096)).find? (s.undrained l)).map fun g => (l, g)
        else none

/-- R367: a granule is sent, from staging if it has a copy there. -/
def State.sendGranule (s : State) (layer g : Nat) : State :=
  let c := s.cairn
  let copy := Table.find (s.layer layer).staged g
  let d : Staged := copy.getD ⟨s.granule layer g, s.granulePoison layer g, 0⟩
  let header := recordLine [(0, c.s.toNat), (8, c.ctx.toNat), (10, layer), (11, if copy.isSome then 1 else 0), (16, 4096 * g),
    (24, c.seq), (32, d.poison.toNat)]
  { s with cairn := { c with seq := c.seq + 1, flying := c.flying ++ [⟨s.basecamp.drain, layer, g, c.seq, header, d.data⟩] } }

/-- Every granule of the image has been persisted. -/
def State.allDrained (s : State) : Bool :=
  (List.range 8).all fun l => !s.cairn.lmask.getLsbD l || decide ((s.layer l).drained.length = s.cairn.stagingBase / 4096)

/-- Write-backs that stalled on a granule go on (R365). -/
def State.unstall (s : State) (layer g : Nat) : State :=
  let mine (k : Nat) : Bool := layerOfKey (16 * k) == layer && paOfKey (16 * k) / 4096 == g
  let ks := s.cairn.stalled.filter mine
  ks.foldl State.wbHs { s with cairn := { s.cairn with stalled := s.cairn.stalled.filter fun k => !mine k } }

/-- The granule's map bit is cleared and its slot freed, and writes that waited for it go on; the last one makes the cut DURABLE. -/
def State.drainedOne (s : State) (f : Drain) : State :=
  let y := s.layer f.layer
  let s := match Table.find y.staged f.granule with | some c => s.leaveSlot f.layer c | none => s
  let s := s.setLayer f.layer { y with
    drained := f.granule :: y.drained.filter (· != f.granule), staged := Table.del y.staged f.granule }
  let s := { s with cairn := { s.cairn with
    flying := s.cairn.flying.filter (fun x => x.seq != f.seq)
    wanted := s.cairn.wanted.filter (fun w => !(w.1 == f.layer && w.2 == f.granule)) } }
  let s := s.unstall f.layer f.granule
  if s.allDrained then s.endCut 4 else s

/-! ### Closing (R361, R362) -/

/-- The totals of the package that a round reads. -/
def Cairn.totals (c : Cairn) : Nat × Nat := ((c.injected.map (·.2)).sum, (c.consumed.map (·.2)).sum)

/-- The counts of Ridge traffic with pod members: what has left by a port, which consumed it, and what has come in by one, which injected
it (R362). -/
def Cairn.ridgeTotals (c : Cairn) : Nat × Nat :=
  (((c.consumed.filter fun e => decide (41 ≤ e.1)).map (·.2)).sum, ((c.injected.filter fun e => decide (41 ≤ e.1)).map (·.2)).sum)

/-- What a round finds: the totals in this round and the last are equal and the same. -/
def Cairn.quiet (c : Cairn) : Bool := c.totals.1 == c.totals.2 && c.lastRound == some c.totals

/-- Steps 3 and 4. -/
def State.closes (s : State) : State :=
  let s := s.sweep.setCut 3
  if s.allDrained then s.endCut 4 else s

/-- One round: step 1 of R361, then, for a package that closes alone, steps 3 and 4. -/
def State.closeRound (s : State) : State :=
  let c := s.cairn
  let s := { s with cairn := { c with rounds := c.rounds + 1, lastRound := some c.totals, met := c.quiet } }
  if c.quiet ∧ c.pod = false then s.closes else s

/-- CLOSE comes down the tree to the package, goes on to its children, and the package continues at step 3 (R362). -/
def State.podCloses (s : State) : State :=
  ({ s with cairn := { s.cairn with podClosed := true, closedTo := s.children } } : State).closes

/-- A collection of a subtree (R362): the package's own counts, with those of the subtree of each child.  What a child reports, and whether every package
below it has met step 1, are free values: they are other packages' (log 76). -/
def State.collect (s : State) : Bool × (Nat × Nat) × State :=
  s.children.foldl (fun a _ =>
    let (met, (sent, got), s) := a
    let w (k : Nat) := Config.freeWord (s.free + k)
    (met && (w 0).getLsbD 0, (sent + (w 1).toNat, got + (w 2).toNat), { s with free := s.free + 3 })) (true, s.cairn.ridgeTotals, s)

/-- A package of a pod that has met step 1: it reports up the tree, or, at the root, closes the pod when two collections in a row are equal. -/
def State.podGo (s : State) : State :=
  let (met, now, s) := s.collect
  if s.isRoot then
    let last := s.cairn.collected
    let s := { s with cairn := { s.cairn with collected := some now } }
    if met && now.1 == now.2 && last == some now then s.podCloses else s
  else
    { s with cairn := { s.cairn with reported := some ⟨s.parent, met, s.cairn.totals, now⟩ } }

end Sys2Proof.Machine
end

