-- ==== Sys2Proof/Machine/Rope.lean ====
section
/-!
DEFINITION. The Rope: slots, transmission, veto and application (R307 to R321), notices, kills and reclaim records
(R329 to R340).  Layer number 8 stands for the BD: its mirror, its station, and the arbiter's slot table.
-/

namespace Sys2Proof.Machine

/-! ### The slot table (R311 to R314) -/

/-- R312: the table at package reset. -/
def slotDefault (n : Nat) : Word :=
  if n < 16 then BitVec.ofNat 64 (n % 8)
  else if n < 32 then BitVec.ofNat 64 (16 + n % 8)
  else if n < 48 then BitVec.ofNat 64 (32 + n % 8)
  else if n < 56 then BitVec.ofNat 64 (48 + n % 8)
  else if n < 58 then 8#64
  else 15#64

def slotTx (e : Word) : Nat := e.toNat % 16
def slotClass (e : Word) : Nat := e.toNat / 16 % 4

/-- A layer's copy of an entry; the arbiter's table for layer 8. -/
def State.slotEntry (s : State) (layer n : Nat) : Word := Table.at (slotDefault n) (s.layer layer).ropeslot n
def State.setSlotEntry (s : State) (layer n : Nat) (v : Word) : State :=
  let y := s.layer layer
  s.setLayer layer { y with ropeslot := Table.put y.ropeslot n v }
/-- The entry in force. -/
def State.slotInForce (s : State) (n : Nat) : Word := Table.at (slotDefault n) s.inForce n

def State.isAwake (s : State) (l : Nat) : Bool := (s.layer l).power == .awake

/-- A table gives a transmitter a slot of a class. -/
def owns (tb : Nat → Word) (tx cls : Nat) : Bool := (List.range 64).any fun n => slotTx (tb n) == tx && slotClass (tb n) == cls

/-- R313: whether the arbiter accepts a change by `writer` (8: Basecamp). -/
def State.slotAccepts (s : State) (writer n : Nat) (v : Word) : Bool :=
  let v := v &&& 0x3F#64
  let old := slotTx (s.slotEntry 8 n)
  let new := slotTx v
  let tb (k : Nat) : Word := if k = n then v else s.slotEntry 8 k
  (decide (new ≤ 8) || new == 15) && (old == 15 || old == writer) && (new == 15 || new == writer) &&
    ((List.range 8).all fun l => !s.isAwake l || ((List.range 3).all fun c => owns tb l c)) && owns tb 8 0

/-- An item of the BD's station, with the number it gets. -/
def State.bdItem (s : State) (i : Item) : State :=
  { s with nextId := s.nextId + 1, bdQueue := s.bdQueue ++ [{ i with id := s.nextId }] }

/-- A change that the arbiter has accepted: its table, and a notice (R314). -/
def State.slotChange (s : State) (src n : Nat) (v old : Word) : State :=
  (s.setSlotEntry 8 n (v &&& 0x3F#64)).bdItem { Item.blank with op := .slotNotice n (v &&& 0x3F#64), src := src, expect := old }

/-- The changes whose notices were applied in an earlier frame take force (R314). -/
def State.takeForce (s : State) : State :=
  let due (e : Nat × Nat × Word) : Bool := decide (e.1 < s.slot / 64)
  { s with
    inForce := (s.changes.filter due).foldl (fun tb e => Table.put tb e.2.1 e.2.2) s.inForce
    changes := s.changes.filter fun e => !due e }

def State.forceDue (s : State) : Bool := s.slot % 64 == 0 && s.changes.any fun e => decide (e.1 < s.slot / 64)

/-! ### Transmission (R307 to R310) -/

/-- Lanes of an item (R309); a response with data is a line fill; bulk data has a header lane and one for every 32 bytes.  DEDUCED: the rows that
items without one of their own take (log 99). -/
def State.lanesOf (s : State) (i : Item) : Nat :=
  match i.op with
  | .rstRel => 3
  | .bulk _ _ _ => 1 + (i.n + 31) / 32
  | .request id => (match s.packet id with | some p => if p.kind = .line ∨ p.kind = .put then 3 else 1 | none => 1)
  | .response id => (match s.packet id with
    | some p => if (p.kind.fills || p.kind == .acq) && p.stage == .done then 3 else 1
    | none => 1)
  | _ => 1

/-- The items that fit in `room` lanes, in order, and those left (R310). -/
def State.fill (s : State) : (room : Nat) → List Item → List Item × List Item
  | _, [] => ([], [])
  | room, i :: r =>
    if s.lanesOf i ≤ room then let (a, b) := s.fill (room - s.lanesOf i) r; (i :: a, b) else ([], i :: r)

/-- Items of a station's class queue, and those of a vetoed transmission that go first. -/
def State.stationQueue (s : State) (tx cls : Nat) : List Item := if tx = 8 then s.bdQueue else Table.at [] (s.layer tx).queue cls
def State.stationAgain (s : State) (tx cls : Nat) : List Item := if tx = 8 then s.bdRetrans else Table.at [] (s.layer tx).retrans cls

def State.setStation (s : State) (tx cls : Nat) (queue again : List Item) : State :=
  if tx = 8 then { s with bdQueue := queue, bdRetrans := again }
  else
    let y := s.layer tx
    s.setLayer tx { y with queue := Table.put y.queue cls queue, retrans := Table.put y.retrans cls again }

/-- The fence notice of a layer has not been applied: its beats still count (R353). -/
def State.fencePending (s : State) (l : Nat) : Bool :=
  (s.bdQueue ++ s.bdRetrans ++ (s.air.filter fun x => x.tx == 8).flatMap (·.items)).any fun i => decide (i.op = .fence l)

/-- The station that owns a slot transmits: a layer that is awake, or is waking or going to sleep and sends its notice, or that is being
fenced, or the BD. -/
def State.transmits (s : State) (tx : Nat) : Bool :=
  tx == 8 || (decide (tx < 8) && match (s.layer tx).power with
    | .awake => true
    | .waking n => decide (4 ≤ n)
    | .fenced => s.fencePending tx
    | .asleep => false)

/-- One slot: the owner sends what it has of the slot's class. -/
def State.sendSlot (s : State) : State :=
  let e := s.slotInForce (s.slot % 64)
  let tx := slotTx e
  let cls := slotClass e
  let sent :=
    if s.transmits tx && !(tx == 8 && cls != 0) then
      match s.stationAgain tx cls with
      | [] =>
        let (now, later) := s.fill s.lanes (s.stationQueue tx cls)
        if now.isEmpty then s else { s.setStation tx cls later [] with air := s.air ++ [⟨s.slot, tx, cls, now, false⟩] }
      | again => { s.setStation tx cls (s.stationQueue tx cls) [] with air := s.air ++ [⟨s.slot, tx, cls, again, false⟩] }
    else s
  { sent with slot := s.slot + 1 }

/-- A transmission of a class whose veto window has passed. -/
def State.landed (s : State) (ordered : Bool) : Option Transmission :=
  s.air.find? fun x => (x.cls == 0) == ordered && decide (x.slot + 2 ≤ s.slot)

/-- The transmission that a receiver may still void (R315): that of the slot before. -/
def State.vetoable (s : State) (layer : Nat) : Option Transmission :=
  s.air.find? fun x => x.slot + 1 == s.slot && x.tx != layer

/-- A layer whose receivers are on: it is awake, or wakes (R327 step 1). -/
def State.hears (s : State) (l : Nat) : Bool := match (s.layer l).power with | .awake | .waking _ => true | _ => false

/-- Request lanes of a transmitter that a layer's station has received and its HSs have not taken (R318). -/
def State.buffered1 (s : State) (layer tx : Nat) : Nat :=
  (s.packets.filter fun p => decide (p.stage = .toHome) && p.boxed && layerOf p.src == tx && dieOf p.va == layer).foldl (fun n p => n + s.lanesOf { Item.blank with op := .request p.id }) 0

/-- Bulk lanes of a transmitter that a layer's station has received and not passed on (R318). -/
def State.buffered3 (s : State) (layer tx : Nat) : Nat :=
  ((s.layer layer).bulkIn.filter fun e => e.1 == tx).foldl (fun n e => n + s.lanesOf e.2) 0

/-- The layers that bulk data goes to. -/
def Item.bulkTo (i : Item) (layer : Nat) : Bool := i.off == 8 || i.off == layer

/-- Lanes of a transmission that are addressed to a layer and need space there: requests and bulk data of current pairs (R333). -/
def State.lanesFor (s : State) (layer : Nat) (x : Transmission) : Nat :=
  x.items.foldl (fun n i =>
    match i.op with
    | .request id => (match s.packet id with | some p => if dieOf p.va = layer ∧ s.currentNow p.tag then n + s.lanesOf i else n | none => n)
    | .bulk _ _ _ => if i.bulkTo layer && s.currentNow i.tag then n + s.lanesOf i else n
    | _ => n) 0

/-- A receiver has no space for a class 1 or class 3 beat of the transmission, and has reserved none (R315, R317, R318). -/
def State.noSpace (s : State) (layer : Nat) (x : Transmission) : Bool :=
  let held := if x.cls = 1 then s.buffered1 layer x.tx else s.buffered3 layer x.tx
  (x.cls == 1 || x.cls == 3) && !(s.layer layer).reserved.contains (x.tx, x.cls) && decide (64 < held + s.lanesFor layer x) &&
    decide (0 < s.lanesFor layer x)

/-- A receiver without space for the transmission reserves it for its retransmission (R317). -/
def State.reserve (s : State) (x : Transmission) (l : Nat) : State :=
  let y := s.layer l
  if s.hears l && x.tx != l && s.noSpace l x then
    s.setLayer l { y with reserved := (x.tx, x.cls) :: y.reserved.filter (· != (x.tx, x.cls)) }
  else s

/-- R352: a lane that is retired is sent empty by every station. -/
def State.retireLane (s : State) : State := { s with lanes := s.lanes - 1 }

/-- The window of CRC vetoes of a transmitter's class; with the default of 0 seconds it holds those in a row (R352, R378). -/
def crcIndex (cls : Nat) : Nat := 32 + cls
def State.endRun (s : State) (tx cls : Nat) : State :=
  if (s.threshold 10).toNat / 2 ^ 32 = 0 then
    { s with basecamp := { s.basecamp with errors := s.basecamp.errors.filter fun e => e.1 != errorKey 10 tx (crcIndex cls) } }
  else s

/-- A veto is counted (R318, R352): the sixteenth in a row of one transmission is reported; one for CRC is a corrected error of a Rope lane, and a
count of those that reaches the threshold retires the highest lane in use.  Three lanes stay, which the longest item needs (R309). -/
def State.countVeto (s : State) (x : Transmission) (crc : Bool) : State :=
  let y := s.layer x.tx
  let n := Table.at 0 y.vetoes x.cls + 1
  let s := s.setLayer x.tx { y with vetoes := Table.put y.vetoes x.cls n }
  let c := s.recent 10 x.tx (crcIndex x.cls)
  let s := if crc then (s.countError 10 x.tx (crcIndex x.cls)).tally 0 10 x.tx else s.endRun x.tx x.cls
  let r := recordOf 0 10 0 (256 * x.tx) 0 Tag.zero
  if crc ∧ c % max 1 ((s.threshold 10).toNat % 2 ^ 32) = 0 then
    if 3 < s.lanes then s.retireLane.record { r with action := 2, place := r.place + 4096 * (s.lanes - 1), count := c }
    else s.record { r with action := 7, count := c }
  else if n % 16 = 0 then s.record { r with count := n }
  else s

/-- R315, R317: the transmission is void and goes again first; receivers that had no space for it reserve it. -/
def State.veto (s : State) (x : Transmission) (crc : Bool) : State :=
  let s := (List.range 8).foldl (fun s l => s.reserve x l) s
  let s := { s with air := s.air.filter (fun y => y.slot != x.slot) }
  (s.setStation x.tx x.cls (s.stationQueue x.tx x.cls) x.items).countVeto x crc

/-- The transmission of the slot before that a receiver has no space for. -/
def State.spaceVeto (s : State) : Option Transmission :=
  s.air.find? fun x => x.slot + 1 == s.slot && (List.range 8).any fun l => s.hears l && x.tx != l && s.noSpace l x

/-- One slot: a receiver without space voids what was sent in the slot before; in slot 0 the changes that are due take force first
(R314); then the owner of the slot sends. -/
def State.slotStep (s : State) : State :=
  let s := match s.spaceVeto with
    | some x => s.veto x false
    | none => s
  if s.forceDue then s.takeForce.sendSlot else s.sendSlot

/-- A transmission has been taken everywhere: its vetoes are over. -/
def State.taken (s : State) (x : Transmission) : State :=
  let s := { s with air := s.air.filter (fun y => y.slot != x.slot) }.endRun x.tx x.cls
  let y := s.layer x.tx
  s.setLayer x.tx { y with vetoes := Table.del y.vetoes x.cls }

/-! ### Incarnations at the stations (R329, R330, R338) -/

def State.setInc (s : State) (layer c : Nat) (e : IncEntry) : State :=
  if layer = 8 then { s with mirrorInc := Table.put s.mirrorInc c e }
  else
    let y := s.layer layer
    s.setLayer layer { y with inc := Table.put y.inc c e }

/-- Stations that apply ordered items in this slot: the awake layers, and the mirror. -/
def State.stations (s : State) : List Nat := (List.range 8).filter s.isAwake ++ [8]

/-- Incarnation tables that a KILL or a reclaim record changes: those, and that of a waking layer which has taken its INCs (R327 step 3). -/
def State.incStations (s : State) : List Nat :=
  ((List.range 8).filter fun l => s.isAwake l || (match (s.layer l).power with | .waking n => decide (3 ≤ n) | _ => false)) ++ [8]

/-! ### The kill point (R331 to R337) -/

/-- R336: a stopped thread leaves its hardware thread empty; its rename map is cleared, and operations that the array
has started run out their occupancy (R333). -/
def Thread.stopped (t : Thread) : Thread :=
  { Thread.reset with
    te := t.te.filter (·.started), teSeq := t.teSeq
    saveCost := t.saveCost, switchCost := t.switchCost
    irq16 := match t.irq16 with
      | some i => if i.rpcs = 0 then none else some ⟨i.rpcs, true, 0, i.rpcs⟩
      | none => none }

/-- Planes that a cluster expands for a thread are freed (R333); a load of one into the array runs on (R399). -/
def Cluster.freePlanes (c : Cluster) (p : Nat) : Cluster := { c with twld := c.twld.filter fun w => w.1 != p }

/-- A thread stops: its queued TE entries and its copy records are discarded and counted, its planes freed, and a shadow that runs for it is free (R333, R336). -/
def State.stopThread (s : State) (p : Nat) : State :=
  let t := s.thread p
  let s := (List.range ((t.te.filter fun e => !e.started).length + t.copyRecs.length)).foldl (fun s _ => s.countDrop (layerOf p) 4) s
  let s := s.setCluster (clusterOf p) ((s.cluster (clusterOf p)).freePlanes p)
  let s := if t.paired then s.setThread (pairOf p) { s.thread (pairOf p) with shadow := false } else s
  s.setThread p t.stopped

/-- The threads that a kill stops on the layers that apply it. -/
def State.stopStale (s : State) (g : Tag) : State :=
  ((s.threads.filter fun e => decide (e.2.tag = g) && e.2.resident && s.isAwake (layerOf e.1)).map (·.1)).foldl State.stopThread s

/-- A plane that nothing determines; the free byte `b` is its header (R171). -/
def planeFrom (b : Byte) (bs : List Byte) : Option Plane :=
  if b.getLsbD 6 then none
  else some ⟨b.setWidth 4, b.getLsbD 4, b.getLsbD 5, BitVec.ofNat 32768 (valOf (bs.take 4096)),
    BitVec.ofNat 8192 (valOf ((bs.drop 4096).take 1024)), BitVec.ofNat 2048 (valOf (bs.drop 5120))⟩

/-- Tile register `k` is freed: its thread, which has another CTX by now, finds bytes in it that nothing determines (R328, R333, log 115). -/
def State.freeReg (s : State) (p k : Nat) : State :=
  let (bs, s) := s.freeBytes 5376
  let (head, s) := s.freeBytes 1
  let t := (((s.thread p).own k).cure k)
  let row (w r : Nat) : Nat := valOf ((bs.drop (w * r)).take w)
  s.setThread p
    (if k < 8 then { t with t := putRows t.t (16 * k) ((List.range 16).map fun r => BitVec.ofNat 512 (row 64 r)) }
     else if k < 12 then { t with a := putRows t.a (16 * (k - 8)) ((List.range 16).map fun r => BitVec.ofNat 2048 (row 256 r)) }
     else if k = 12 then { t with wp0 := planeFrom (head.headD 0) bs }
     else { t with wp1 := planeFrom (head.headD 0) bs })

/-- The physical registers of the pair are freed at the layers that apply the kill, those in expansion too (R333). -/
def State.freeStale (s : State) (g : Tag) : State :=
  let keep (w : Nat × Nat × Nat × Tag) : Bool := !(decide (w.2.2.2 = g) && s.isAwake (layerOf w.1))
  let s : State := { s with clusters := Table.mapVals (fun (c : Cluster) => { c with twld := c.twld.filter keep }) s.clusters }
  (s.threads.filter fun e => s.isAwake (layerOf e.1)).foldl (fun s e =>
    ((e.2.pairs.filter fun r => decide (r.2 = g)).map (·.1)).foldl (fun s k => s.freeReg e.1 k) s) s

/-- Requests that are dropped where they stand (R333): in a combining node, in an HS's hold buffer.  The others, one that another package
holds too, become orphans and go when the next agent judges them. -/
def Packet.dropsAtKill (p : Packet) : Bool :=
  match p.stage with
  | .combining | .retry => true
  | .held _ => dieOf p.va != 9
  | _ => false

def State.dropRequests (s : State) (g : Tag) : State :=
  let gone := s.packets.filter fun p => decide (p.tag = g) && p.dropsAtKill
  let agent (p : Packet) : Nat := match p.stage with | .held _ => homeOf (layerOf p.src) p.va | _ => layerOf p.src
  let s := gone.foldl (fun s p => (s.countDrop (agent p) 0).consume (agent p) p.colour) s
  { s with packets := (s.packets.filter fun p => !(decide (p.tag = g) && p.dropsAtKill)).map fun p =>
      if p.tag = g then { p with orphan := true } else p }

def State.dropCopies (s : State) (g : Tag) : State :=
  let gone := s.copies.filter fun c => decide (c.tag = g)
  let s := gone.foldl (fun s c => (s.countDrop (layerOf c.src) 3).consume (layerOf c.src) c.colour) s
  { s with copies := s.copies.filter fun c => !decide (c.tag = g) }

/-- Fault groups of the pair end; their records stay. -/
def State.dropGroups (s : State) (g : Tag) : State :=
  (List.range 8).foldl (fun s l =>
    let y := s.layer l
    s.setLayer l { y with groups := y.groups.filter fun e => !decide (e.2.tag = g) }) s

/-- The drop class (R338) of what a station's class queue holds. -/
def dropClass (cls : Nat) : Nat := if cls = 0 then 2 else if cls = 1 then 0 else if cls = 2 then 1 else 3

/-- R402: what a station has not yet sent of the pair goes, and with a request its packet. -/
def State.purgeStation (s : State) (g : Tag) (l cls : Nat) : State :=
  let gone := (Table.at [] (s.layer l).queue cls).filter fun i => decide (i.tag = g)
  let s := gone.foldl (fun s i =>
    let s := s.countDrop l (dropClass cls)
    match i.op with
    | .request id => (match s.packet id with | some p => (s.dropPacket id).consume l p.colour | none => s)
    | .response id => (match s.packet id with | some p => (s.dropPacket id).consume l p.colour | none => s)
    | _ => s.consumeItem i) s
  let y := s.layer l
  s.setLayer l { y with queue := Table.put y.queue cls ((Table.at [] y.queue cls).filter fun i => !decide (i.tag = g)) }

def State.purgeStations (s : State) (g : Tag) : State :=
  (List.range 32).foldl (fun s j => if (Table.at [] (s.layer (j / 4)).queue (j % 4)).any (fun i => decide (i.tag = g))
    then s.purgeStation g (j / 4) (j % 4) else s) s

/-- A message waits in the port's fault buffer for a page of the pair: it is in a fault group of it, or its buffer is of the
pair and could be reached. -/
def State.faultBuffered (s : State) (g : Tag) (m : Inbound) : Bool :=
  match m.group with
  | some (l, n) =>
    if l = 9 then m.buf.any fun b => decide (b.tag = g) else (Table.find (s.layer l).groups n).any fun fg => decide (fg.tag = g)
  | none =>
    match m.buf with
    | some b => decide (b.tag = g) && !s.isAsleep (homeOf (layerOf b.src) b.va) && !s.isAsleep (homeOf (layerOf b.src) b.status)
    | none => false

/-- R337: such a message is discarded and counted, and its sender completes with NACK 0x11 and DETAIL 0x18; one that waits for a sleeping layer loses its
buffer and waits for a fresh one. -/
def State.refuseStale (s : State) (g : Tag) : State :=
  (s.inbound.filter (s.faultBuffered g)).foldl (fun s m =>
      ((s.countDrop ((m.buf.map fun b => homeOf (layerOf b.src) b.va).getD 0) 0).answerSend m.id 0x11 0x18 0).consumeInbound m)
    { s with inbound := (s.inbound.filter fun m => !s.faultBuffered g m).map fun m =>
        if m.buf.any (fun b => decide (b.tag = g)) then { m with buf := none } else m }

/-- What every agent does at the kill point of the pair `g`. -/
def State.killPoint (s : State) (g : Tag) : State :=
  let s := ((((((s.refuseStale g).stopStale g).freeStale g).purgeStations g).dropRequests g).dropCopies g).dropGroups g
  let s : State := { s with posted := (Table.mapVals (fun q => q.filter fun b => !decide (b.tag = g)) s.posted).filter fun e => !e.2.isEmpty }
  if g.ctx = s.cairn.ctx ∧ (s.cairn.state = 1 ∨ s.cairn.state = 2) then s.abortCut else s

/-- R220, R329: what applying a KILL of context `c` answers, from a table entry. -/
def killStatus (c : Nat) (e : IncEntry) : Nat :=
  if c = 0 then 2 else if e.pend then 1 + e.cur.toNat * 256 + e.cur.toNat * 65536
  else e.cur.toNat * 256 + (e.cur + 1#8).toNat * 65536

def killEntry (c : Nat) (e : IncEntry) : IncEntry := if c = 0 ∨ e.pend then e else ⟨e.cur + 1#8, true⟩

/-- A KILL is applied at every station (R220, R329, R331). -/
def State.applyKill (s : State) (c : Nat) : State :=
  let e := s.mirrorEntry c
  let s' := s.incStations.foldl (fun s l => s.setInc l c (killEntry c (if l = 8 then s.mirrorEntry c else s.incOf l (BitVec.ofNat 12 c)))) s
  if c = 0 ∨ e.pend then s' else s'.killPoint ⟨BitVec.ofNat 12 c, e.cur⟩

/-- A reclaim record is applied (R329); threads that wait for one are unparked (R293). -/
def State.applyReclaim (s : State) (c : Nat) : State :=
  let s := s.incStations.foldl (fun s l =>
    let e := if l = 8 then s.mirrorEntry c else s.incOf l (BitVec.ofNat 12 c)
    s.setInc l c { e with pend := false }) s
  { s with threads := Table.mapVals (fun t => match t.parked with | some (.reclaim _) => { t with parked := none, waiting := false } | _ => t) s.threads }

/-! ### Application of ordered items (R316, R319) -/

/-- The bytes that an item writes in a replica: offset and bytes. -/
def State.itemWrite (s : State) (station : Nat) (i : Item) : Option (Nat × List Byte) :=
  let old := s.ropeRead station i.off i.n
  match i.op with
  | .rst => some (i.off, bytesOf i.n i.val.toNat)
  | .rstRel => some (i.off, bytesOf 128 (releaseObj (BitVec.ofNat 1024 (s.ropeRead station i.off 128)) i.sig i.n i.val.toNat).toNat)
  | .ramo op => some (i.off, bytesOf i.n (amoOp op i.n old i.val.toNat))
  | .rcas => if old = i.expect.toNat % 2 ^ (8 * i.n) then some (i.off, bytesOf i.n i.val.toNat) else none
  | .sigclr => some (i.off, bytesOf 128 (clearSig (BitVec.ofNat 1024 (s.ropeRead station i.off 128))).toNat)
  | _ => none

def State.applyWrite (s : State) (station : Nat) (i : Item) : State :=
  match s.itemWrite station i with
  | some (o, bs) => { s with rope := Memory.writeBytes s.rope (ropeKey station o) bs }
  | none => s

/-- The answer of an item that its thread waits for. -/
def State.answerItem (s : State) (i : Item) (v : Nat) : State :=
  let t := s.thread i.src
  if t.reqs.contains i.id then
    s.setThread i.src { t with answers := t.answers ++ [⟨i.id, i.off, .amo, 0, 0#64, 0, BitVec.ofNat 1024 v, 0, none⟩] }
  else s

/-- A posted item is no longer outstanding (R145). -/
def State.oneLess (s : State) (p : Nat) : State :=
  let t := s.thread p
  s.setThread p { t with ors := t.ors - 1 }

/-- A beat of a parity from a layer of the team is recorded (R289); what a layer outside LMASK announces is another team's. -/
def State.hearBeat (s : State) (layer n parity from_ : Nat) : State :=
  let b := s.bar layer n
  let bit : BitVec 8 := (1#8 <<< from_) &&& barLmask (s.bardesc layer n)
  s.setBar layer n (if parity = 0 then { b with even := b.even ||| bit } else { b with odd := b.odd ||| bit })

/-- The release of a layer's open phase starts once every layer of LMASK has announced it and none of them is asleep or fenced (R289,
R291, R325). -/
def State.releaseBeats (s : State) (layer n : Nat) : State :=
  let b := s.bar layer n
  let d := s.bardesc layer n
  let ph := (s.barCl layer n (barCorner d)).phase
  let team := barLmask d
  if barV d ∧ 1 < popcount team ∧ team &&& (if ph % 2 = 0 then b.even else b.odd) = team ∧
      (List.range 8).all (fun l => !team.getLsbD l || s.isAwake l) then
    s.setBar layer n { b with
      even := if ph % 2 = 0 then 0#8 else b.even, odd := if ph % 2 = 0 then b.odd else 0#8, sent := false, released := ph + 1 }
  else s

/-- A barrier beat is applied at a layer: the one that completes the count starts the release (R289). -/
def State.applyBeat (s : State) (layer n parity from_ : Nat) : State := (s.hearBeat layer n parity from_).releaseBeats layer n

/-- A layer has woken: phases that waited for it alone release on every awake layer in one slot (R290, R325). -/
def State.recheckBars (s : State) : State :=
  (List.range 8).foldl (fun s l =>
    if s.isAwake l then ((s.layer l).bardesc.map (·.1)).foldl (fun s n => s.releaseBeats l n) s else s) s

/-- Beats of a fenced layer that layer `k` has recorded and not used do not count (R291). -/
def State.forgetBeatsAt (s : State) (l k : Nat) : State :=
  let keep : BitVec 8 := ~~~ (1#8 <<< l)
  let y := s.layer k
  s.setLayer k { y with bars := Table.mapVals (fun b => { b with even := b.even &&& keep, odd := b.odd &&& keep }) y.bars }

/-- On every layer but those that wake, which come to the notice among what they have buffered (R327). -/
def State.forgetBeats (s : State) (l : Nat) : State :=
  (List.range 8).foldl (fun s k => match (s.layer k).power with | .waking _ => s | _ => s.forgetBeatsAt l k) s

def State.setPower (s : State) (l : Nat) (p : Power) : State := s.setLayer l { s.layer l with power := p }

/-- What a waking layer has buffered is applied at its station in order (R327): writes to its replica, barrier beats, and the fencing of
layers. -/
def State.applyBuffered (s : State) (l : Nat) : State :=
  let b := (s.layer l).buffered
  b.foldl (fun s i =>
    match i.op with
    | .barrier n parity from_ => s.hearBeat l n parity from_
    | .fence k => s.forgetBeatsAt k l
    | _ => s.applyWrite l i)
    (s.setLayer l { s.layer l with buffered := [] })

/-- The entries of a layer that are tagged with incarnations no longer current go (R327 step 3). -/
def State.purgeLayer (s : State) (l : Nat) : State :=
  { s with
    rdc := s.rdc.filter fun e => !(e.cl / 16 == l && !s.currentNow e.tag)
    l1i := s.l1i.filter fun e => !(e.core / 128 == l && !s.currentNow e.tag)
    tlb := s.tlb.filter fun e => !(e.layer == l && !s.currentNow e.tag)
    walkers := s.walkers.filter fun e => !(e.layer == l && !s.currentNow e.tag) }

/-- R327: the layer takes every context's INC from the mirror. -/
def State.takeInc (s : State) (l : Nat) : State := (s.setLayer l { s.layer l with inc := s.mirrorInc }).purgeLayer l

/-- A layer's kernel stands in its memory, and its first hardware thread starts at the entry (R390 step 8). -/
def State.startKernel (s : State) (l : Nat) : State :=
  let s : State := { s with hbm := Memory.writeBytes s.hbm (physKey l (Config.kernelBase l)) (Config.kernelImage l) }
  { s with nextId := s.nextId + 1 }.setThread (256 * l) { Thread.reset with resident := true, who := s.nextId, pc := putBit (Config.kernelEntry l) 0 false }

/-- The wake notice is applied: the layer is awake with what the mirror holds and the arbiter's slot table (R311, log 112); a layer that
restarts now starts its kernel (R353). -/
def State.awaken (s : State) (l : Nat) : State :=
  let restarts := (s.layer l).power == .waking 6
  let s := ((s.applyBuffered l).takeInc l).setPower l .awake
  let s := (s.setLayer l { s.layer l with ropeslot := (s.layer 8).ropeslot }).recheckBars
  if restarts then s.startKernel l else s

/-- R324: the layer holds no resident thread, no dirty or remote line, no translation, no item and no request. -/
def State.quiescent (s : State) (l : Nat) : Bool :=
  !(s.threads.any fun e => layerOf e.1 == l && e.2.resident) &&
    !(s.l1d.any fun e => layerOfKey (16 * e.1) == l) && !(s.hs.any fun e => layerOfKey (16 * e.1) == l) &&
    !(s.rdc.any fun e => e.cl / 16 == l) && !(s.tlb.any fun e => e.layer == l) &&
    !(((s.layer l).queue ++ (s.layer l).retrans).any fun q => !q.2.isEmpty) && (s.layer l).bulkIn.isEmpty &&
    !(s.air.any fun x => x.tx == l) && !(s.bulkItems.any fun i => i.bulkTo l) && !(s.packets.any fun p => layerOf p.src == l || dieOf p.va == l) &&
    !(s.copies.any fun c => layerOf c.src == l) && !(s.messages.any fun m => layerOf m.src == l)

/-- The result of the item that the kernel's answer to a host request waits for (R376). -/
def State.kernelAnswer (s : State) (i : Item) (v : Nat) : State :=
  match s.rpcItem with
  | some (id, none) => if id = i.id then { s with rpcItem := some (id, some v) } else s
  | _ => s

/-- R353 step 4: a KILL of Basecamp that finds PEND = 1 is remembered; the reclaim record sends it again. -/
def State.remember (s : State) (tx c : Nat) : State :=
  if tx = 8 ∧ (s.mirrorEntry c).pend then { s with basecamp := { s.basecamp with again := s.basecamp.again ++ [c] } } else s
def State.sendAgain (s : State) (c : Nat) : State :=
  if s.basecamp.again.contains c then
    { s with basecamp := { s.basecamp with again := s.basecamp.again.filter (· != c) } }.bdItem
      { Item.blank with op := .kill, src := 0, val := BitVec.ofNat 64 c }
  else s

/-- A station's copy of the slot table shows the slots of a fenced layer idle (R311, R353). -/
def State.idleCopy (s : State) (st l : Nat) : State :=
  (List.range 64).foldl (fun s n => if slotTx (s.slotEntry st n) = l then s.setSlotEntry st n 15#64 else s) s
/-- From the slot in which a fence notice is applied, beats of the layer are dropped, and what its station holds is not sent (R353); ordered
and bulk items among them count as consumed (R405). -/
def State.dropAir (s : State) (l : Nat) : State :=
  let bulk := s.stationQueue l 3 ++ s.stationAgain l 3 ++ (s.air.filter fun x => x.tx == l && x.cls == 3).flatMap (·.items)
  let s := (s.orderedItems l ++ bulk).foldl State.consumeItem s
  { s with air := s.air.filter fun x => x.tx != l }.setLayer l { s.layer l with queue := [], retrans := [] }

/-- The slots of a layer become idle from the next frame (R314). -/
def State.idleSlots (s : State) (l : Nat) : State :=
  (List.range 64).foldl (fun s n =>
    if slotTx (s.slotEntry 8 n) = l then
      { s.setSlotEntry 8 n 15#64 with changes := s.changes ++ [(s.slot / 64, n, 15#64)] }
    else s) s

/-- Basecamp restores the slots that a restarted layer has by R312 (R353). -/
def State.restoreSlots (s : State) (l : Nat) : State :=
  (List.range 64).foldl (fun s n =>
    if slotTx (slotDefault n) = l ∧ slotTx (s.slotEntry 8 n) = 15 then
      (s.setSlotEntry 8 n (slotDefault n)).bdItem { Item.blank with op := .slotNotice n (slotDefault n), src := 256 * l }
    else s) s

/-- One item is applied at every station, as one step. -/
def State.applyItem (s : State) (tx : Nat) (i : Item) : State :=
  if !s.currentNow i.tag then s.stations.foldl (fun s l => if l = 8 then s else s.countDrop l 2) s
  else
    match i.op with
    | .kill =>
      let v := killStatus i.val.toNat (s.mirrorEntry i.val.toNat)
      (((s.remember tx i.val.toNat).applyKill i.val.toNat).answerItem i v).kernelAnswer i v
    | .reclaim => (s.applyReclaim i.val.toNat).sendAgain i.val.toNat
    | .slotNotice n v =>
      let s := s.stations.foldl (fun s l => if l = 8 then s else s.setSlotEntry l n v) s
      { s with changes := s.changes ++ [(s.slot / 64, n, v)] }.answerItem i i.expect.toNat
    | .barrier n parity layer => s.stations.foldl (fun s l => if l = 8 then s else s.applyBeat l n parity layer) s
    | .sleep l => if s.isAwake l && s.quiescent l then s.setPower l .asleep else s
    | .wake l => if (s.layer l).power == .waking 6 then (s.awaken l).restoreSlots l else s.awaken l
    | .fence l => (((s.idleSlots l).stations.foldl (fun s st => s.idleCopy st l) (s.idleSlots l)).dropAir l).forgetBeats l
    | .request _ | .response _ | .bulk _ _ _ => s
    | .rst | .sigclr =>
      let s := (s.stations.foldl (fun s l => s.applyWrite l i) s)
      (if (s.thread i.src).resident then s.oneLess i.src else s).kernelAnswer i 0
    | .rstRel | .ramo _ | .rcas =>
      let old := s.ropeRead (if tx = 8 then 8 else tx) i.off i.n
      (s.stations.foldl (fun s l => s.applyWrite l i) s).answerItem i old

/-- Waking layers buffer what is applied (R327), judged where it stands in the order. -/
def State.bufferItem (s : State) (i : Item) : State :=
  if !s.currentNow i.tag then s
  else (List.range 8).foldl (fun s l =>
    match (s.layer l).power with
    | .waking _ => s.setLayer l { s.layer l with buffered := (s.layer l).buffered ++ [i] }
    | _ => s) s

/-- R316: an ordered transmission is applied, lane by lane. -/
def State.applyOrdered (s : State) (x : Transmission) : State :=
  let s := s.taken x
  x.items.foldl (fun s i => ((s.bufferItem i).applyItem x.tx i).consumeItem i) s

/-! ### Beats of classes 1 and 2 (R317, R331) -/

/-- Copy data of an item has come to a layer that it goes to. -/
def State.landed1 (s : State) (layer : Nat) (i : Item) : State :=
  match i.op with
  | .bulk id k o =>
    { s with copies := s.copies.map fun c =>
        if c.id = id then { c with flying := c.flying.erase (if c.form = 2 then layer * pieceBase + k % pieceBase else k, o) } else c }
  | _ => s

/-- Copy data that a layer's station holds is performed there, or stops the copy (R193, R199); what finds its copy gone is dropped and
counted (R333, R338).  None if it must wait. -/
def State.landBulk (s : State) (layer : Nat) (i : Item) : Option State :=
  match i.op with
  | .bulk id k o =>
    (match s.copies.find? (fun c => c.id == id) with
     | none => some (s.countDrop layer 3)
     | some c =>
       match c.piece k with
       | none => some s
       | some p =>
         let dst := p.dst + BitVec.ofNat 64 o
         match (s.landed1 layer i).landAt c (if c.form = 2 then BitVec.ofNat 64 (layer * 2 ^ 52 + offOf dst) else dst) (bytesOf i.n i.sig.toNat)
             (i.val == 1#64) with
         | .ok s => some s
         | .fault s cause kind fva => some ((s.setCopy c).stopOn c.id cause kind fva)
         | .later => none)
  | _ => some s

/-- A layer's station passes on what it holds, where it can. -/
def State.passBulk (s : State) (layer : Nat) : State :=
  (s.layer layer).bulkIn.foldl (fun s e =>
    match s.landBulk layer e.2 with
    | some s => s.setLayer layer { s.layer layer with bulkIn := (s.layer layer).bulkIn.erase e }
    | none => s) s

/-- Copy data of a transmitter is received, at every layer that it goes to but a fenced one (R193): stale data is dropped and counted there
(R331, R333).  The item is consumed, a transmission to every layer at the mirror (R405). -/
def State.receiveBulk (s : State) (tx : Nat) (i : Item) : State :=
  let s := match i.colour with | some c => s.consume i.off c | none => s
  let all := ((List.range 8).filter i.bulkTo).filter fun l => i.off == l || !s.isFenced l
  if !s.currentNow i.tag then (all.filter fun l => !s.isFenced l).foldl (fun s l => s.countDrop l 3) s
  else
    all.foldl (fun s l =>
      if s.serves l && !s.isFenced l then s.setLayer l { s.layer l with bulkIn := (s.layer l).bulkIn ++ [(tx, i)] }
      else if i.off = l then (s.landBulk l i).getD s
      else s.landed1 l i) s

/-- A request or a response reaches its layer, by the port of the router that it goes to (R271); one whose pair is stale is
dropped there and counted. -/
def State.receiveItem (s : State) (tx : Nat) (i : Item) : State :=
  match i.op with
  | .bulk _ _ _ => s.receiveBulk tx i
  | .request id =>
    (match s.packet id with
     | some p =>
       if s.currentNow p.tag then s.setPacket { p with wire := false, boxed := true, pos := 16 * dieOf p.va + tsOf p.va, entry := 16 * dieOf p.va + tsOf p.va }
       else ((s.dropPacket id).countDrop (homeOf (layerOf p.src) p.va) 0).consumePacket p
     | none => s)
  | .response id =>
    (match s.packet id with
     | some p =>
       if s.currentNow p.tag then s.setPacket { p with wire := false, pos := clusterOf p.src, entry := clusterOf p.src }
       else ((s.dropPacket id).countDrop (layerOf p.src) 1).consume (layerOf p.src) p.colour
     | none => s)
  | _ => s

def State.receiveBeats (s : State) (x : Transmission) : State :=
  let s := s.taken x
  let s := (List.range 8).foldl (fun s l =>
    s.setLayer l { s.layer l with reserved := (s.layer l).reserved.filter (· != (x.tx, x.cls)) }) s
  x.items.foldl (fun s i => s.receiveItem x.tx i) s

/-! ### Reclaim (R221, R339, R340) -/

/-- No awake agent holds anything of the pair but what a flash match drops. -/
def State.leftEverywhere (s : State) (g : Tag) : Bool :=
  !(s.packets.any fun p => decide (p.tag = g)) && !(s.copies.any fun c => decide (c.tag = g)) &&
    !(s.messages.any fun m => decide (m.tag = g)) &&
    !(s.inbound.any fun m => m.buf.any fun b => decide (b.tag = g)) &&
    !(s.threads.any fun e => (e.2.te.any fun t => decide (t.tag = g)) || e.2.pairs.any (fun r => decide (r.2 = g)) || e.2.copyRecs.any fun r => decide (r.tag = g)) &&
    !(s.clusters.any fun e => e.2.twld.any fun w => decide (w.2.2.2 = g)) &&
    !((List.range 8).any fun l => s.isAwake l && (s.layer l).bulkIn.any fun e => decide (e.2.tag = g)) &&
    !((List.range 8).any fun l =>
      s.isAwake l && ((s.layer l).queue ++ (s.layer l).retrans).any fun q => q.2.any fun i => decide (i.tag = g)) &&
    !(s.air.any fun x => x.items.any fun i => decide (i.tag = g))

/-- The flash match: cached lines and translations of the pair go. -/
def State.flash (s : State) (g : Tag) : State :=
  { s with
    rdc := s.rdc.filter fun l => !decide (l.tag = g)
    l1i := s.l1i.filter fun l => !decide (l.tag = g)
    tlb := s.tlb.filter fun e => !decide (e.tag = g)
    walkers := s.walkers.filter fun e => !decide (e.tag = g) }

/-- A reclaim record of context `c` is under way. -/
def State.reclaimSent (s : State) (c : Nat) : Bool :=
  let hit (i : Item) : Bool := decide (i.op = .reclaim) && i.val.toNat == c
  ((List.range 8).any fun l => ((s.layer l).queue ++ (s.layer l).retrans).any fun q => q.2.any hit) || s.air.any fun x => x.items.any hit

end Sys2Proof.Machine
end

