-- ==== Sys2Proof/Machine/Csr.lean ====
section
/-!
DEFINITION. Control and status registers: their numbers and levels, what a read returns and a write does, and the four CSR
instructions (R18, R23 to R27, R89, R114, R195, R212, R242, R282, R295 to R305, R311, R348, R356, R357).
-/

namespace Sys2Proof.Machine

/-- R23: the numbers assigned. -/
def csrKnown (n : Nat) : Bool :=
  n == 0x001 || (decide (0x010 ≤ n ∧ n ≤ 0x015)) || n == 0x020 || (decide (0x400 ≤ n ∧ n ≤ 0x402)) ||
    (decide (0x410 ≤ n ∧ n ≤ 0x412)) || (decide (0x420 ≤ n ∧ n ≤ 0x422)) || (decide (0x428 ≤ n ∧ n ≤ 0x42F)) ||
    (decide (0x440 ≤ n ∧ n ≤ 0x450)) || n == 0x460 || (decide (0x800 ≤ n ∧ n ≤ 0x805)) || (decide (0x808 ≤ n ∧ n ≤ 0x80B)) ||
    (decide (0x810 ≤ n ∧ n ≤ 0x812)) || n == 0x820 || (decide (0x840 ≤ n ∧ n ≤ 0x87F))

/-- R23: no access at user level. -/
def csrHidden (n : Nat) : Bool := decide (0x800 ≤ n)

/-- R23: writable at a level. -/
def csrWritable (sup : Bool) (n : Nat) : Bool :=
  if sup then
    !(n == 0x400 || n == 0x401 || decide (0x410 ≤ n ∧ n ≤ 0x412) || n == 0x421 || n == 0x422 || n == 0x811)
  else n == 0x001 || decide (0x010 ≤ n ∧ n ≤ 0x015) || n == 0x020

/-! ### Reading -/

/-- SIGSTAT (R242). -/
def Thread.sigstat (t : Thread) : Word :=
  BitVec.ofNat 64 (popcount t.psig + t.selInv.toNat * 2 ^ 16 + t.fullAcq.toNat * 2 ^ 32)

/-- PAIRCTL (R348). -/
def Core.pairctl (c : Core) : Word :=
  BitVec.ofNat 64 ((if c.en then 1 else 0) + (if c.tdup then 2 else 0) + c.misCnt.toNat * 2 ^ 24)

/-- CTX (R15). -/
def Tag.word (g : Tag) : Word := BitVec.ofNat 64 (g.ctx.toNat + g.inc.toNat * 4096)

/-- TIMEBASE: 1 GHz; the Rope runs three slots a nanosecond (R7, R24). -/
def State.timebase (s : State) : Word := BitVec.ofNat 64 (s.slot / 3)

/-- EINFO: the bits that its layout for a cause does not reserve (R185, R298, R301, R306, R351); a cause without a layout reserves
none (log 42). -/
def einfoMask (cause : Word) : Word :=
  let c := cause.toNat % 256
  if (1 ≤ c ∧ c ≤ 3) ∨ (8 ≤ c ∧ c ≤ 0x10) then 0xFFFF0000000003FF#64
  else if c = 0x07 then 0x7#64
  else if c = 0x15 then 0x3FFFFFFFF#64
  else if c = 0x16 then 0xFF001FFF#64
  else if c = 0x1A then 0xFFF#64
  else BitVec.allOnes 64
/-- EINFO as it reads: reserved bits are 0 (R5). -/
def Thread.einfoWord (t : Thread) : Word := t.einfo &&& einfoMask t.ecause

/-- The CSRs of a thread. -/
def Thread.csr (t : Thread) (n : Nat) : Word :=
  if n = 0x001 then t.fcsr
  else if n = 0x010 then t.lc0.setWidth 64
  else if n = 0x011 then t.lc1.setWidth 64
  else if n = 0x012 then t.lbeg0
  else if n = 0x013 then t.lend0
  else if n = 0x014 then t.lbeg1
  else if n = 0x015 then t.lend1
  else if n = 0x020 then t.prg.setWidth 64
  else if n = 0x402 then t.tag.word
  else if n = 0x411 then t.instret
  else if n = 0x420 then t.step
  else if n = 0x421 then t.sigstat
  else if n = 0x422 then BitVec.ofNat 64 t.ors
  else if 0x428 ≤ n ∧ n ≤ 0x42F then (Table.at 0#7 t.cg (n - 0x428)).setWidth 64
  else if n = 0x800 then t.status
  else if n = 0x801 then t.epc
  else if n = 0x802 then t.ecause
  else if n = 0x803 then t.eva
  else if n = 0x804 then t.einfoWord
  else if n = 0x805 then t.evec
  else if 0x808 ≤ n ∧ n ≤ 0x80B then Table.at 0#64 t.kscratch (n - 0x808)
  else if n = 0x810 then t.slice.setWidth 64
  else if n = 0x811 then t.switchCost.setWidth 64
  else if n = 0x812 then t.clampCnt.setWidth 64
  else 0#64

/-- The value of a CSR as the current thread reads it. -/
def State.csr (s : State) (n : Nat) : Word :=
  if n = 0x400 then 3#64
  else if n = 0x401 then BitVec.ofNat 64 (s.place s.cur)
  else if n = 0x410 then s.cycles s.myCore
  else if n = 0x412 then s.timebase
  else if 0x440 ≤ n ∧ n ≤ 0x44F then s.bardesc s.myLayer (n - 0x440)
  else if n = 0x450 then (s.cluster s.myCluster).engweight.setWidth 64
  else if n = 0x460 then (s.core s.myCore).pairctl
  else if n = 0x820 then s.cairn.word
  else if 0x840 ≤ n ∧ n ≤ 0x87F then s.slotEntry s.myLayer (n - 0x840)
  else s.th.csr n

/-! ### Writing -/

/-- The bits of FCSR, STATUS, EPC, ECAUSE, EINFO and EVEC that a write changes; the rest is reserved or read-only. -/
def fcsrMask : Word := 0xEF9F#64
def statusMask : Word := 0xFFFE00007E#64
def ecauseMask : Word := 0x80000000000000FF#64
def evecMask : Word := 0xFFFFFFFFFFFFF000#64
def evenMask : Word := 0xFFFFFFFFFFFFFFFE#64

/-- `v` under a mask, `old` elsewhere. -/
def masked (m old v : Word) : Word := (old &&& ~~~ m) ||| (v &&& m)

/-- R305: a write to SLICE restarts e and cancels a pending 0x17. -/
def Thread.writeSlice (t : Thread) (v : Word) : Thread :=
  { t with slice := v.setWidth 32, sliceE := 0, sliceRun := true, irq17 := none }

/-- R195: a count above 96 stores 96. -/
def cgValue (v : Nat) : BitVec 7 := BitVec.ofNat 7 (min (v % 128) 96)

/-- A write of a CSR of the thread, at a level that may write it. -/
def Thread.writeCsr (t : Thread) (n : Nat) (v : Word) : Thread :=
  if n = 0x001 then { t with fcsr := v &&& fcsrMask }.dirty fdirtyBit
  else if n = 0x010 then { t with lc0 := v.setWidth 32 }
  else if n = 0x011 then { t with lc1 := v.setWidth 32 }
  else if n = 0x012 then { t with lbeg0 := v &&& evenMask }
  else if n = 0x013 then { t with lend0 := v &&& evenMask }
  else if n = 0x014 then { t with lbeg1 := v &&& evenMask }
  else if n = 0x015 then { t with lend1 := v &&& evenMask }
  else if n = 0x020 then { t with prg := v.setWidth 7 }
  else if n = 0x402 then t.retag ⟨v.setWidth 12, v.extractLsb' 12 8⟩
  else if n = 0x420 then { t with step := v }
  else if 0x428 ≤ n ∧ n ≤ 0x42F then { t with cg := Table.put t.cg (n - 0x428) (cgValue v.toNat) }
  else if n = 0x800 then { t with status := masked statusMask t.status v }
  else if n = 0x801 then { t with epc := v &&& evenMask }
  else if n = 0x802 then { t with ecause := v &&& ecauseMask }
  else if n = 0x803 then { t with eva := v }
  else if n = 0x804 then { t with einfo := v &&& einfoMask t.ecause }
  else if n = 0x805 then { t with evec := v &&& evecMask }
  else if 0x808 ≤ n ∧ n ≤ 0x80B then { t with kscratch := Table.put t.kscratch (n - 0x808) v }
  else if n = 0x810 then t.writeSlice v
  else if n = 0x812 then { t with clampCnt := v.setWidth 32 }
  else t

/-- The fields of a BARDESC. -/
def barMask : Word := 0x807FFFFF#64

/-- R27: the conditions on a valid descriptor. -/
def barValid (layer : Nat) (d : Word) : Bool :=
  decide (1 ≤ barRows d ∧ 1 ≤ barCols d ∧ barRow0 d + barRows d ≤ 4 ∧ barCol0 d + barCols d ≤ 4 ∧ 1 ≤ barNthr d ∧ barNthr d ≤ 16) &&
    (barLmask d).getLsbD layer

/-- R27: a write of BARDESCn of a layer: ignored while an arrival is outstanding, stored with V = 0 if it breaks a condition.
The phases of the descriptor begin again at 0 on the layer, and no beat that it has applied counts for the new team: software writes every
layer of a team before a member arrives (log 77). -/
def State.writeBardesc (s : State) (layer n : Nat) (v : Word) : State :=
  let held := (List.range 16).any fun cl => decide (0 < (s.barCl layer n cl).cur + (s.barCl layer n cl).next)
  if held then s
  else
    let d := v &&& barMask
    let d := if barV d && !barValid layer d then putBit d 31 false else d
    let y := s.layer layer
    s.setLayer layer { y with
      bardesc := Table.put y.bardesc n d
      barCl := y.barCl.filter fun e => e.1 / 16 != n
      bars := Table.put y.bars n BarLayer.reset }

/-- R282, R287. -/
def State.writeEngweight (s : State) (cl : Nat) (v : Word) : State :=
  s.setCluster cl { s.cluster cl with engweight := v.setWidth 32 }

/-- R348. -/
def Core.writePairctl (c : Core) (v : Word) : Core :=
  { c with en := v.getLsbD 0, tdup := v.getLsbD 1, misCnt := v.extractLsb' 24 16 }

/-- R336: a resident thread whose pair is not current is stopped. -/
def State.stopIfStale (s : State) (p : Nat) : State :=
  let t := s.thread p
  if t.resident && !s.current (layerOf p) t.tag then s.stopThread p else s

/-- A write of a CSR by the current thread. -/
def State.writeCsr (s : State) (n : Nat) (v : Word) : State :=
  if 0x440 ≤ n ∧ n ≤ 0x44F then s.writeBardesc s.myLayer (n - 0x440) v
  else if n = 0x450 then s.writeEngweight s.myCluster v
  else if n = 0x460 then s.setCore s.myCore ((s.core s.myCore).writePairctl v)
  else if n = 0x820 then s.writeSnapctl v
  else s.setTh (s.th.writeCsr n v)

/-! ### The instructions (R24, R212) -/

/-- R208: what has been fetched is discarded. -/
def Thread.refetch (t : Thread) : Thread := { t with ahead := 0, unissued := 0, buffered := 0 }

/-- The checks of R24 and R114, in the order of R45. -/
def csrCheck (n : Nat) (write : Bool) (bits : Word) (s : State) (k : Out) : Out :=
  let t := s.th
  if !csrKnown n then illegal bits s
  else if csrHidden n && !t.sv then .next (raise 0x06 bits 0#64 s)
  else if write && !csrWritable t.sv n then illegal bits s
  else if n == 1 && !t.sbit fenBit && !t.sbit venBit then .next (raise 0x07 bits 3#64 s)
  else k

/-- A write to a ROPESLOT (R313, R314): refused, it completes at once with what the layer's copy holds; accepted, it completes when
the notice is applied here. -/
def csrSlot (n : Nat) (new : Word → Word) (d : Reg) (s : State) : Out :=
  match s.itemAnswer with
  | some r => finish 4 s fun t => (t.wx d (BitVec.ofNat 64 r.data.toNat)).refetch
  | none =>
    if s.th.reqs ≠ [] then .next s.await
    else
      let old := s.slotEntry 8 n
      let v := new old
      if s.slotAccepts s.myLayer n v then
        let id := s.nextId
        let s := s.slotChange s.cur n v old
        .next (s.setTh { s.th with reqs := [id], sent := true, waiting := true })
      else finish 4 s fun t => (t.wx d (s.slotEntry s.myLayer n)).refetch

/-- CSRW, CSRS and CSRC: old := CSR; CSR := new; x[rd] := old. -/
def csrUpdate (new : Word → Word → Word) (bits : Word) (d a : Reg) (i : BitVec 12) (s : State) : Out :=
  let n := i.toNat
  csrCheck n true bits s
    (if 0x840 ≤ n then csrSlot (n - 0x840) (fun old => new old (s.th.rx a)) d s
     else
       let old := s.csr n
       let s := s.writeCsr n (new old (s.th.rx a))
       let s := s.setTh (((s.th.wx d old).complete 4).refetch)
       .next (if n = 0x402 then s.stopIfStale s.cur else s))

/-- R212. -/
def execCsrr (d : Reg) (i : BitVec 12) (s : State) : Out :=
  csrCheck i.toNat false (encode (.csrr d i)).bits s (finish 4 s fun t => t.wx d (s.csr i.toNat))
/-- R212. -/
def execCsrw (d a : Reg) (i : BitVec 12) (s : State) : Out := csrUpdate (fun _ v => v) (encode (.csrw d a i)).bits d a i s
/-- R212. -/
def execCsrs (d a : Reg) (i : BitVec 12) (s : State) : Out := csrUpdate (fun o v => o ||| v) (encode (.csrs d a i)).bits d a i s
/-- R212. -/
def execCsrc (d a : Reg) (i : BitVec 12) (s : State) : Out := csrUpdate (fun o v => o &&& ~~~ v) (encode (.csrc d a i)).bits d a i s

end Sys2Proof.Machine
end

