-- ==== Sys2Proof/Machine/System.lean ====
section
/-!
DEFINITION. Entering and leaving the kernel (R209 to R211), TLB and cache maintenance (R213, R214), regions, pairs and steps
(R224 to R227, R346 to R351), and undefined encodings (R45).
-/

namespace Sys2Proof.Machine

/-- R209: cause 0x13 at either level. -/
def execEcall (s : State) : Out := .next (raise 0x13 0#64 0#64 s)
/-- R209: cause 0x12. -/
def execEbreak (s : State) : Out := .next (raise 0x12 0#64 0#64 s)

/-- R210. -/
def execEret (s : State) : Out := priv (encode .eret).bits s (.next (s.setTh s.th.eret.refetch))

/-- R211: completes when an interrupt cause is pending, whatever IE holds. -/
def execWfi (s : State) : Out :=
  priv (encode .wfi).bits s (if s.th.pending.isSome then finish 4 s id else .next (s.parkOn .wfi))

/-- R45: a word or halfword that no table allocates. -/
def execIllegalOrReservedEncoding (w : BitVec 32) (s : State) : Out := illegal (w.setWidth 64) s

/-! ### TLBs (R213) -/

/-- A translation covers an address. -/
def TlbEntry.maps (e : TlbEntry) (va : Word) : Bool :=
  e.die == dieOf va && decide (e.base ≤ offOf va ∧ offOf va < e.base + 2 ^ e.bits)
def WalkEntry.maps (w : WalkEntry) (va : Word) : Bool := w.die == dieOf va && w.base == offOf va / 2 ^ (12 + 9 * w.level)

/-- Drops translations and pointer entries of every agent of a layer; a request that has been translated at the layer and not
performed is translated again (R213). -/
def State.dropXlat (s : State) (layer : Nat) (p : TlbEntry → Bool) (q : WalkEntry → Bool) : State :=
  { s with
    tlb := s.tlb.filter fun e => !(e.layer == layer && p e)
    walkers := s.walkers.filter fun e => !(e.layer == layer && q e)
    packets := s.packets.map fun r =>
      match r.stage with
      | .atHome _ => if dieOf r.va == layer && layerOf r.src != layer then { r with stage := .toHome } else r
      | _ => r }

/-- An access of a core of the layer used a translation and has not been performed: a store that is in progress, a RADD on the own
layer, or an access of the BD.  The drop waits for it (R213). -/
def State.xlatBusy (s : State) (layer : Nat) : Bool :=
  (s.packets.any fun r => r.pending && layerOf r.src == layer && (dieOf r.va == 8 || isLocal layer r.va)) ||
    s.threads.any fun e => layerOf e.1 == layer && !e.2.plan.isEmpty

/-- The cached context-table entries of a layer's agents: of one context, or all (R255). -/
def State.dropCtx (s : State) (layer : Nat) (c : Option Nat) : State :=
  let mine (a : Nat) : Bool := if a < 1024 then a / 128 == layer else (a - 1024) / 16 == layer
  { s with ctxCache := s.ctxCache.filter fun e => !(mine e.1 && (match c with | some c => e.2.1 == c | none => true)) }

/-- R213. -/
def execTlbi (a b : Reg) (s : State) : Out :=
  priv (encode (.tlbi a b)).bits s
    (let va := s.th.rx a
     let ctx : BitVec 12 := (s.th.rx b).setWidth 12
     if !s.formOk va || !(dieOf va == s.myLayer || dieOf va == 8 || dieOf va == 15) then .next (memTrap 0x0F .load 0 va s)
     else if !s.performedAt 1#2 || s.xlatBusy s.myLayer then .next s.await
     else
       finish 4 (s.dropXlat s.myLayer (fun e => e.maps va && (decide (e.tag.ctx = ctx) || pteG e.pte))
         (fun w => w.maps va && decide (w.tag.ctx = ctx))) Thread.refetch)

/-- R213. -/
def execTlbia (a : Reg) (s : State) : Out :=
  priv (encode (.tlbia a)).bits s
    (let v := s.th.rx a
     let ctx : BitVec 12 := v.setWidth 12
     if !s.performedAt 1#2 || s.xlatBusy s.myLayer then .next s.await
     else if v.getLsbD 63 then
       finish 4 ((s.dropXlat s.myLayer (fun _ => true) (fun _ => true)).dropCtx s.myLayer none) Thread.refetch
     else
       finish 4 ((s.dropXlat s.myLayer (fun e => decide (e.tag.ctx = ctx) && !pteG e.pte)
         (fun w => decide (w.tag.ctx = ctx))).dropCtx s.myLayer (some ctx.toNat)) Thread.refetch)

/-! ### Cache lines (R214) -/

/-- What a line form acts on. -/
inductive LineAt where
  /-- An own-layer line: the key of its first sector. -/
  | own (k : Nat)
  /-- A line of another layer or of another package. -/
  | remote
  /-- A line of the BD's region. -/
  | bd (pa : Nat)
  /-- No translation, a missing permission, or the Rope window: nothing to do. -/
  | none
deriving DecidableEq, Repr

/-- The line forms check only step 1 of R125. -/
def State.lineAt (s : State) (kind : AKind) (va : Word) : Res LineAt :=
  if !s.formOk va then .stop (memTrap 0x0F kind 0 va s)
  else if dieOf va = 14 then .ok .none s
  else if isLocal s.myLayer va || dieOf va == 8 then
    match s.translate s.myCore s.myLayer s.th.tag s.th.sv kind va (s.place s.cur) with
    | (.ok pa _, s) => .ok (if pa < hbmEnd then .own (physKey s.myLayer (pa / 64 * 64) / 16) else .bd (pa - bdBase)) s
    | (_, s) => .ok .none s
  else .ok .remote s

/-- The thread's earlier stores to a remote line have been acknowledged. -/
def State.lineAcked (s : State) (va : Word) : Bool :=
  !(s.mine.any fun p => decide (0 < p.counted) && p.covers (lineVa va) 64)

/-- Sectors that a core owns dirty. -/
def State.ownedBy (s : State) (core : Nat) : List Nat := (s.l1d.filter fun e => e.2.owner == core).map (·.1)

/-- Every line of the RDC of a cluster goes. -/
def State.rdcEmpty (s : State) (cl : Nat) : State := { s with rdc := s.rdc.filter fun l => !(l.cl == cl) }

/-- A sector leaves every L1D and the HS with no write-back. -/
def State.loseSector (s : State) (k : Nat) : State :=
  if s.isDirty k then ({ s with l1d := Table.del s.l1d k, hs := Table.del s.hs k } : State).bare k else s

/-- A dirty sector leaves its L1D with no write-back; an older dirty copy in the HS is seen again. -/
def State.loseL1d (s : State) (k : Nat) : State :=
  if (Table.find s.hs k).isSome then
    { s with
      l1d := Table.del s.l1d k
      poison := s.poison.filter (· != k) ++ (if s.hsPoison.contains k then [k] else [])
      hsPoison := s.hsPoison.filter (· != k) }
  else ({ s with l1d := Table.del s.l1d k } : State).bare k

/-- R214: drops the line, or the whole L1I of the thread's core. -/
def execIcinv (w : BitVec 1) (a : Reg) (s : State) : Out :=
  legal (.icinv w a) s
    (if w = 1#1 then finish 4 { s with l1i := s.l1i.filter fun l => !(l.core == s.myCore) } Thread.refetch
     else
       let va := s.th.rx a
       ((s.lineAt .fetch va).bind fun l s =>
         let s : State := if l = .none then s else { s with l1i := s.l1i.filter fun l => !(l.core == s.myCore && l.va == lineVa va) }
         .ok () (s.setTh ((s.th.complete 4).refetch))).out)

/-- R214: writes dirty copies back to the HS; a remote line waits for its acknowledgements. -/
def execDcwb (w : BitVec 1) (a : Reg) (s : State) : Out :=
  legal (.dcwb w a) s
    (if w = 1#1 then finish 4 ((s.ownedBy s.myCore).foldl State.wbL1d s) id
     else
       let va := s.th.rx a
       ((s.lineAt .load va).bind fun l s =>
         match l with
         | .own k => .ok () (let s := (lineSectors k).foldl State.wbL1d s; s.setTh (s.th.complete 4))
         | .remote | .bd _ => if s.lineAcked va then .ok () (s.setTh (s.th.complete 4)) else .stop s.await
         | .none => .ok () (s.setTh (s.th.complete 4))).out)

/-- R214: drops lines with no write-back. -/
def execDcinv (w : BitVec 1) (a : Reg) (s : State) : Out :=
  legal (.dcinv w a) s
    (priv (encode (.dcinv w a)).bits s
      (if w = 1#1 then
         finish 4 (((s.ownedBy s.myCore).foldl State.loseL1d s).rdcEmpty s.myCluster) id
       else
         let va := s.th.rx a
         ((s.lineAt .load va).bind fun l s =>
           let s := match l with
             | .own k => (lineSectors k).foldl State.loseSector s
             | .remote => s.rdcDrop s.myCluster s.th.tag (lineVa va)
             | .bd pa => s.bdForget s.myLayer (pa / 64 * 64) 64
             | .none => s
           .ok () (s.setTh (s.th.complete 4))).out))

/-- R214: writes an own-layer line back through the HS to memory and drops it; waits while a controller stalls it (R365). -/
def execDcflush (w : BitVec 1) (a : Reg) (s : State) : Out :=
  legal (.dcflush w a) s
    (if w = 1#1 then finish 4 (((s.ownedBy s.myCore).foldl State.wbL1d s).rdcEmpty s.myCluster) id
     else
       let va := s.th.rx a
       ((s.lineAt .load va).bind fun l s =>
         match l with
         | .own k =>
           let s := s.wbLine (k / 4)
           if (lineSectors k).any fun j => (Table.find s.hs j).isSome then .stop s.await
           else .ok () (s.setTh (s.th.complete 4))
         | .remote =>
           if s.lineAcked va then
             let s := s.rdcDrop s.myCluster s.th.tag (lineVa va)
             .ok () (s.setTh (s.th.complete 4))
           else .stop s.await
         | .bd pa => if s.lineAcked va then .ok () ((s.bdForget s.myLayer (pa / 64 * 64) 64).setTh (s.th.complete 4)) else .stop s.await
         | .none => .ok () (s.setTh (s.th.complete 4))).out)

/-! ### Belay pairs (R348 to R351) and regions (R224, R345) -/

/-- R351: EINFO of cause 0x15. -/
def belayInfo (t : Thread) (rgn : Bool) : Word :=
  BitVec.ofNat 64 (min t.regionCount (2 ^ 32 - 1) + (if t.region.getLsbD regionRetried then 2 ^ 32 else 0) + (if rgn then 2 ^ 33 else 0))

/-- The trap entry that an exchange was due for has not come: both cores squash it (R349, R351). -/
def Thread.unenter (t : Thread) : Thread :=
  match t.entered with
  | some e =>
    { t with
      status := e.status, epc := e.epc, ecause := e.ecause, eva := e.eva, einfo := e.einfo
      irq16 := t.irq16.orElse fun _ => e.irq16, irq17 := t.irq17.orElse fun _ => e.irq17 }
  | none => t

/-- The CRCs start again from 0, and no exchange is due. -/
def Thread.exchanged (t : Thread) : Thread := { t with crc := 0, shadowCrc := 0, exchangeDue := false, entered := none }

/-- R351: a mismatch restarts the region or raises 0x15 at the primary. -/
def Thread.mismatch (t : Thread) (rgn : Bool) : Thread :=
  let t := if rgn then t else t.unenter
  if t.restartable then t.restart.exchanged else (t.trap 0x15 false t.regionAddr 0#64 (belayInfo t rgn)).exchanged

/-- R348: MISCNT saturates. -/
def Core.miss (c : Core) : Core := { c with misCnt := if c.misCnt = 0xFFFF#16 then c.misCnt else c.misCnt + 1#16 }

/-- R350: the cores of hardware thread `p` exchange their CRCs, which start again from 0; whether they differed. -/
def State.exchangeAt (s : State) (p : Nat) (rgn : Bool) : Bool × State :=
  let t := s.thread p
  if t.crc = t.shadowCrc then (false, s.setThread p t.exchanged)
  else
    let s := s.setCore (coreOf p) (s.core (coreOf p)).miss
    let s := s.setCore (coreOf (pairOf p)) (s.core (coreOf (pairOf p))).miss
    (true, (s.setThread p (t.mismatch rgn)).recordError
      (recordOf 2 14 (if t.restartable then 4 else 5) p 0 t.tag))

/-- The instruction that enters a region retires; COUNT of R351 counts those after it. -/
def Thread.enterRegion (t : Thread) : Thread := { t.complete 4 with regionCount := 0 }

/-- R224: the region-entry address; in a pair the exchange comes first (R350, R351). -/
def execRgn (s : State) : Out :=
  let go (s : State) : Out := .next (s.setTh (s.th.setRegion (s.th.pc + 4#64)).enterRegion)
  if s.th.paired then
    match s.exchangeAt s.cur true with
    | (true, s) => .next s
    | (false, s) => go s
  else go s

/-- R225, R348: the status of a PAIR. -/
def State.pairStatus (s : State) : Nat :=
  let q := s.thread (pairOf s.cur)
  if s.th.paired then 3
  else if !(s.core s.myCore).en || !(s.core (coreOf (pairOf s.cur))).en then 2
  else if q.resident || q.shadow then 1
  else 0

/-- R225.  DEDUCED: only a PAIR that pairs, with status 0, sets the region-entry address (log 96). -/
def execPair (d : Reg) (s : State) : Out :=
  priv (encode (.pair d)).bits s
    (if s.pairStatus = 0 then
       let q := s.thread (pairOf s.cur)
       let s := s.setThread (pairOf s.cur) { q with shadow := true }
       let td := (s.core s.myCore).tdup
       let t := ((s.th.wx d 0#64).setRegion (s.th.pc + 4#64)).setStatus (putBit s.th.status pairedBit true)
       .next (s.setTh { t.exchanged with sinceExchange := 0, tdup := td }.enterRegion)
     else finish 4 s fun t => t.wx d (BitVec.ofNat 64 s.pairStatus))

/-- R225. -/
def execUnpair (d : Reg) (s : State) : Out :=
  priv (encode (.unpair d)).bits s
    (if s.th.paired then
       let q := s.thread (pairOf s.cur)
       let s := s.setThread (pairOf s.cur) { q with shadow := false }
       finish 4 s fun t =>
         let t := t.wx d 0#64
         (t.setStatus (putBit t.status pairedBit false)).exchanged
     else finish 4 s fun t => t.wx d 3#64)

/-! ### Collective steps (R226, R227) -/

/-- R226. -/
def execCstep (s : State) : Out :=
  let t := { s.th.irrev with step := s.th.step + 1#64 }
  .next ((s.setTh (t.complete 4)).flip)

/-- R227. -/
def execSnaparm (d a : Reg) (s : State) : Out :=
  priv (encode (.snaparm d a)).bits s
    (match s.snaparm (s.th.rx a) s.th.step with
     | (st, s) => finish 4 s fun t => (t.irrev).wx d (BitVec.ofNat 64 st))

end Sys2Proof.Machine
end

