-- ==== Sys2Proof/Machine/Context.lean ====
section
/-!
DEFINITION. Saving and loading a thread (R215 to R219), killing and reclaiming a context (R220, R221), and the fault queues
(R222, R223).
-/

namespace Sys2Proof.Machine

/-! ### The save area (R215 to R217) -/

def areaBytes : Nat := 0x9A00

/-- The CSR block (R216). -/
def Thread.csrBlock (t : Thread) : List Byte :=
  let dirtyBits : Word := 0xFFFE000000#64
  let w (v : Word) : List Byte := bytesOf 8 v.toNat
  w (t.status &&& ~~~ dirtyBits) ++ w t.tag.word ++ w t.fcsr ++ w (t.lc0.setWidth 64) ++ w (t.lc1.setWidth 64) ++
    w t.lbeg0 ++ w t.lend0 ++ w t.lbeg1 ++ w t.lend1 ++ w (t.prg.setWidth 64) ++ w t.step ++
    (List.range 8).map (fun i => (Table.at 0#7 t.cg i).setWidth 8) ++ w t.region ++ w (t.slice.setWidth 64) ++
    w (t.clampCnt.setWidth 64) ++ w t.epc ++ w t.ecause ++ w t.eva ++ w t.einfoWord ++ w t.evec ++
    (List.range 4).flatMap (fun i => w (Table.at 0#64 t.kscratch i)) ++ w 1#64

/-- A stretch of the save area: its offset and its bytes. -/
abbrev Part := Nat × List Byte

/-- The always-written blocks but for VALID (R215). -/
def Thread.always (t : Thread) : List Part :=
  [(0x0000, t.csrBlock), (0x00D0, List.replicate 48 0#8),
   (0x0100, (List.range 32).flatMap fun i => bytesOf 8 (t.rx (BitVec.ofNat 5 i)).toNat),
   (0x0200, (List.range 32).flatMap fun i => bytesOf 8 (t.rf (BitVec.ofNat 5 i)).toNat),
   (0x0300, (List.range 8).flatMap fun i => bytesOf 8 (t.rk (BitVec.ofNat 3 i)).toNat),
   (0x0340, bytesOf 64 t.psig.toNat), (0x0380, List.replicate 128 0#8)]

/-- The weight slot of a plane, in the TE's internal form; an empty plane's is of zero bits. -/
def planeBits (p : Option Plane) : Plane := match p with | some p => p | none => ⟨0, false, false, 0, 0, 0⟩
def padded (bs : List Byte) : List Byte := (List.range bs.length).zipWith (fun i b => b ^^^ Config.planePad i) bs
/-- A plane header (R215). -/
def planeHeader (p : Option Plane) : Nat :=
  match p with
  | none => 64
  | some p => p.fmt.toNat + (if p.sp then 16 else 0) + (if p.mx then 32 else 0)
def hasSide (p : Option Plane) : Bool := match p with | some p => p.sp || p.mx | none => false
def sideBytes (p : Option Plane) : List Byte :=
  padded (bytesOf 1024 (planeBits p).keep.toNat ++ bytesOf 256 (planeBits p).scale.toNat)

/-- The parts that CTXSAVE writes, each with its VALID bit (R215, R217). -/
def Thread.parts (t : Thread) : List (Nat × List Part) :=
  (0, t.always) ::
  (if t.sbit vdirtyBit then [(1, [(0x0400, (List.range 32).flatMap fun i => bytesOf 64 (t.rv (BitVec.ofNat 5 i)).toNat)])] else []) ++
  ((List.range 8).filter fun n => t.sbit (tdirtyBit + n)).map (fun n =>
    (2 + n, [(0x0C00 + 0x400 * n, (List.range 16).flatMap fun r => bytesOf 64 (t.row (BitVec.ofNat 3 n) r).toNat)])) ++
  ((List.range 4).filter fun n => t.sbit (adirtyBit + n)).map (fun n =>
    (10 + n, [(0x2C00 + 0x1000 * n, (List.range 16).flatMap fun r => bytesOf 256 (t.arow (BitVec.ofNat 2 n) r).toNat)])) ++
  (if t.sbit wdirtyBit then
    [(14, [(0x6C00, padded (bytesOf 4096 (planeBits t.wp0).w.toNat)), (0x7C00, padded (bytesOf 4096 (planeBits t.wp1).w.toNat)),
      (0x8C00, bytesOf 8 (planeHeader t.wp0) ++ bytesOf 8 (planeHeader t.wp1))])] ++
    (if hasSide t.wp0 then [(15, [(0x9000, sideBytes t.wp0)])] else []) ++
    (if hasSide t.wp1 then [(16, [(0x9500, sideBytes t.wp1)])] else [])
   else [])

/-- VALID after a save (R217). -/
def Thread.validAfter (t : Thread) (old : Nat) : Nat :=
  let keep := if t.sbit wdirtyBit then old % 2 ^ 15 else old % 2 ^ 17
  t.parts.foldl (fun v p => v ||| 2 ^ p.1) keep

/-! ### Accesses to the area -/

/-- A page of the area on another layer or in another package is not present (R266): a trap in a pinned context; else the thread
parks in a group of the home. -/
def State.areaAbsent (s : State) (kind : AKind) (va : Word) (cause : Nat) (pinned malf : Bool) (lvl : Nat) : State :=
  if pinned then raise cause va (memInfo false true false true kind 0 0) s
  else
    let info := memInfo false false false true kind 0 0
    if dieOf va = 9 then s.setTh (s.th.parkFault cause va info (.group 9 0))
    else
      let home := homeOf s.myLayer va
      let (g, s) := s.joinGroup home s.th.tag va cause kind.recKind (s.myLayer + 8) ((if malf then 1 else 0) + lvl * 2) (s.place s.cur)
      s.setTh (s.th.parkFault cause va info (match g with | some n => .group home n | none => .deferral home))

/-- The 64-byte lines of the area are checked in order; the first that fails raises its cause (R218, R219). -/
def State.areaCheck (s : State) (kind : AKind) : (lines : Nat) → (va : Word) → Res Unit
  | 0, _ => .ok () s
  | k + 1, va =>
    (s.check 0 kind va 64 1 (if kind = .store then 0x0B else 0) 0).bind fun tg s =>
      match tg with
      | .away =>
        match s.reach s.cur s.th.tag s.th.sv kind va 64 with
        | (.fail c, s) => .stop (raise c va (memInfo false false false true kind 0 0) s)
        | (.absent c pinned malf lvl, s) => .stop (s.areaAbsent kind va c pinned malf lvl)
        | (.later, s) => .stop (s.wakeFor (homeOf s.myLayer va)).await
        | (_, s) => s.areaCheck kind k (va + 64#64)
      | .bd o _ =>
        if bdMapped o 64 || bdOutbound o 64 then s.areaCheck kind k (va + 64#64)
        else .stop (memTrap (if kind = .store then 0x0B else 0x09) kind 0 va s)
      | _ => s.areaCheck kind k (va + 64#64)

/-- Writes bytes from `va` on, performed at once; own-layer lines in the core's L1D.  The lines enter psig (R129, R240). -/
def State.areaPut (s : State) : (fuel : Nat) → (va : Word) → List Byte → State
  | 0, _, _ => s
  | fuel + 1, va, bs =>
    if bs.isEmpty then s
    else
      let k := 64 - va.toNat % 64
      let now := bs.take k
      match s.reach s.cur s.th.tag s.th.sv .store va now.length with
      | (r, s) =>
        let s := match r with
          | .to (.mem key mt) home =>
            if home = s.myLayer then s.store (storeLevel s.myCore mt) (s.colour s.th) key now else s.place_ r (s.colour s.th) now
          | r => s.place_ r (s.colour s.th) now
        let s := if isLocal s.myLayer va then s else s.rdcStore va now.length (valOf now)
        let s := s.setTh ((s.th.foldStore va now.length (valOf now)).sign va)
        s.areaPut fuel (va + BitVec.ofNat 64 k) (bs.drop k)

/-- Reads bytes from `va` on, from the home: the bytes, and the first poisoned line. -/
def State.areaGet (s : State) (kind : AKind) : (fuel : Nat) → (va : Word) → (n : Nat) → (List Byte × Option Word) × State
  | 0, _, _ => (([], none), s)
  | fuel + 1, va, n =>
    if n = 0 then (([], none), s)
    else
      let k := min n (64 - va.toNat % 64)
      match s.reach s.cur s.th.tag s.th.sv kind va k with
      | (r, s) =>
        match s.take s.cur r k with
        | ((bs, bad), s) =>
          match s.areaGet kind fuel (va + BitVec.ofNat 64 k) (n - k) with
          | ((rest, bad'), s) => ((bs ++ rest, if bad then some va else bad'), s)

def linesOf (n : Nat) : Nat := n / 64 + 2

/-- The place of a save area: its first byte in the package's memory, or its address elsewhere. -/
def State.areaKey (s : State) (va : Word) : Nat :=
  match (s.reach s.cur s.th.tag s.th.sv .load va 8).1 with
  | .to (.mem key _) _ => key
  | _ => 2 ^ 60 + va.toNat

/-- A save area holds the thread that ran. -/
def State.keepThread (s : State) (va : Word) : State := { s with saved := Table.put s.saved (s.areaKey va) s.th.who }

/-! ### CTXSAVE (R218) -/

/-- The waits of R218 are over. -/
def State.saveReady (s : State) : Bool :=
  s.performedAt 2#2 && s.th.te.all (·.done) && !s.copiesRunning

/-- A message's 0x16 belongs to the thread that leaves or comes; the host's calls go to the hardware thread (R301). -/
def onlyRpcs (i : Option Irq16) : Option Irq16 :=
  match i with
  | some i => if i.rpcs = 0 then none else some ⟨i.rpcs, true, 0, i.rpcs⟩
  | none => none

/-- What CTXSAVE leaves of the thread: the dirty bits clear, a message's 0x16 lost (R301), and the cc it took. -/
def Thread.saved (t : Thread) (cost : Nat) : Thread :=
  let t := t.irrev
  { t with
    status := t.status &&& ~~~ 0xFFFE000000#64
    saveCost := cost
    irq16 := onlyRpcs t.irq16 }

/-- A timing that the spec leaves open: at least the data time. -/
def State.freeCost (s : State) (bytes : Nat) : Nat × State :=
  ((bytes + 63) / 64 + (Config.freeWord s.free).toNat, { s with free := s.free + 1 })

def partBytes (ps : List (Nat × List Part)) : Nat := ps.foldl (fun n p => p.2.foldl (fun n q => n + q.2.length) n) 0

/-- R344: poison of tile registers travels with the save: the sectors of their slots become poisoned. -/
def State.savePoison (s : State) (va : Word) : State :=
  let slot (i : Nat) : Nat × Nat :=
    if i < 8 then (0x0C00 + 0x400 * i, 1024) else if i < 12 then (0x2C00 + 0x1000 * (i - 8), 4096) else (0x6C00 + 0x1000 * (i - 12), 4096)
  let dirtyPart (i : Nat) : Bool :=
    if i < 8 then s.th.sbit (tdirtyBit + i) else if i < 12 then s.th.sbit (adirtyBit + (i - 8)) else s.th.sbit wdirtyBit
  (s.th.poisoned.filter fun i => decide (i < 14) && dirtyPart i).foldl (fun s i =>
    let (o, n) := slot i
    (List.range (n / 64)).foldl (fun s j =>
      match s.reach s.cur s.th.tag s.th.sv .store (va + BitVec.ofNat 64 (o + 64 * j)) 64 with
      | (.to (.mem key _) _, s) => s.makePoison key 64
      | (_, s) => s) s) s

/-- R218.  DEDUCED: the old VALID is read for its bits only, and poison of its line is not consumed (log 44). -/
def execCtxsave (a : Reg) (s : State) : Out :=
  priv (encode (.ctxsave a)).bits s
    (let va := s.th.rx a
     (if va.toNat % 64 ≠ 0 then .stop (memTrap 0x0E .store 0 va s)
      else
        (s.areaCheck .store (areaBytes / 64) va).bind fun _ s =>
          (raiseDenial s).bind fun _ s =>
            if !s.saveReady then .stop s.await
            else
              match s.th.copyRecs with
              | r :: rs => .stop (raise 0x14 r.fva (BitVec.ofNat 64 (min (rs.length + 1) 127)) s)
              | [] =>
                let t := s.th
                let ((old, _), s) := s.areaGet .store 2 (va + 0xC8#64) 8
                let s := t.parts.foldl (fun s p => p.2.foldl (fun s q =>
                  s.areaPut (linesOf q.2.length) (va + BitVec.ofNat 64 q.1) q.2) s) s
                let s := s.areaPut 2 (va + 0xC8#64) (bytesOf 8 (t.validAfter (valOf old)))
                let s := s.savePoison va
                let (cost, s) := (s.keepThread va).freeCost (partBytes t.parts)
                .ok () (s.setTh ((s.th.saved cost).complete 4)) : Res Unit).out)

/-! ### CTXLOAD (R219) -/

/-- The thread that a save area holds; one that no CTXSAVE has put there is new. -/
def State.threadOf (s : State) (va : Word) : Nat × State :=
  match Table.find s.saved (s.areaKey va) with
  | some w => (w, s)
  | none => (s.nextId, { s with nextId := s.nextId + 1 })

/-- A load of the area waits for the thread's own writes there that have not been performed (R128, R135). -/
def State.areaBusy (s : State) (va : Word) : Bool :=
  (s.mine.any fun p => p.pending && p.kind.posted && (p.ownRadd || p.covers va.toNat areaBytes)) || (dieOf va == 14 && !s.myRope.isEmpty)

/-- The bytes of the area that a load reads for a part. -/
def partSpans : (bit : Nat) → List (Nat × Nat)
  | 0 => [(0x0000, 896)]
  | 1 => [(0x0400, 2048)]
  | 14 => [(0x6C00, 8192), (0x8C00, 16)]
  | 15 => [(0x9000, 1280)]
  | 16 => [(0x9500, 1280)]
  | n => if n < 10 then [(0x0C00 + 0x400 * (n - 2), 1024)] else [(0x2C00 + 0x1000 * (n - 10), 4096)]

/-- Little-endian elements of `w` bytes. -/
def elems (w : Nat) (bs : List Byte) : (n : Nat) → List Nat
  | 0 => []
  | n + 1 => valOf (bs.take w) :: elems w (bs.drop w) n

/-- A doubleword of the CSR block. -/
def blockWord (bs : List Byte) (o : Nat) : Word := BitVec.ofNat 64 (valOf ((bs.drop o).take 8))

/-- Rows numbered from `k` on, as table entries. -/
def rowTable {w : Nat} (k : Nat) (bs : List Byte) (n : Nat) : Table (BitVec w) :=
  (List.range n).zipWith (fun i v => (k + i, BitVec.ofNat w v)) (elems (w / 8) bs n)

/-- The always-written blocks are loaded: STATUS with SV = 1, PAIRED kept and the dirty bits 0 (R219). -/
def Thread.loadAlways (t : Thread) (bs : List Byte) : Thread :=
  let d (o : Nat) : Word := blockWord bs o
  let status := masked 0x87E#64 0#64 (d 0) ||| 1#64 ||| (t.status &&& 0x400#64)
  { t.retag ⟨(d 8).setWidth 12, (d 8).extractLsb' 12 8⟩ with
    status := status
    fcsr := d 0x10 &&& fcsrMask
    lc0 := (d 0x18).setWidth 32
    lc1 := (d 0x20).setWidth 32
    lbeg0 := d 0x28 &&& evenMask
    lend0 := d 0x30 &&& evenMask
    lbeg1 := d 0x38 &&& evenMask
    lend1 := d 0x40 &&& evenMask
    prg := (d 0x48).setWidth 7
    step := d 0x50
    cg := (List.range 8).map fun i => (i, cgValue ((d 0x58).toNat / 256 ^ i % 256))
    region := d 0x60 &&& 0xC0FFFFFFFFFFFFFE#64
    slice := (d 0x68).setWidth 32
    clampCnt := (d 0x70).setWidth 32
    epc := d 0x78 &&& evenMask
    ecause := d 0x80 &&& ecauseMask
    eva := d 0x88
    einfo := d 0x90 &&& einfoMask (d 0x80)
    evec := d 0x98 &&& evecMask
    kscratch := (List.range 4).map fun i => (i, d (0xA0 + 8 * i))
    x := (rowTable (w := 64) 0 (bs.drop 0x100) 32).drop 1
    f := rowTable 0 (bs.drop 0x200) 32
    k := (rowTable (w := 64) 0 (bs.drop 0x300) 8).drop 1
    psig := BitVec.ofNat 512 (valOf ((bs.drop 0x340).take 64)) }

/-- The always-written blocks take their Reset values (R19). -/
def Thread.resetAlways (t : Thread) : Thread :=
  let r := Thread.reset
  { t with
    status := Thread.resetStatus ||| (t.status &&& 0x400#64)
    tag := r.tag, fcsr := 0, lc0 := 0, lc1 := 0, lbeg0 := 0, lend0 := 0, lbeg1 := 0, lend1 := 0, prg := 0, step := 0, cg := []
    region := 0, slice := 0, clampCnt := 0, epc := 0, ecause := 0, eva := 0, einfo := 0, evec := 0, kscratch := []
    x := [], f := [], k := [], psig := 0 }

/-- What a load of the always-written blocks also does (R219, R242, R301, R305, R359).  DESIGN CHOICE: COUNT of R351 begins at 0 (log 114). -/
def Thread.arrived (t : Thread) (member reached : Bool) (cost : Nat) : Thread :=
  { t with
    ors := 0, fullAcq := 0, selInv := 0, irq16 := onlyRpcs t.irq16, irq17 := none, sliceE := 0, sliceRun := true
    switchCost := BitVec.ofNat 32 (min (t.saveCost + cost) (2 ^ 32 - 1)), resident := true, denial := none
    regionCount := 0, flipped := member && reached }

/-- Replaces the keys [k, k + n) of a table. -/
def putRange {α : Type} (tb : Table α) (k n : Nat) (vs : Table α) : Table α :=
  tb.filter (fun e => decide (e.1 < k)) ++ vs ++ tb.filter (fun e => decide (k + n ≤ e.1))

/-- A plane from its slots: none if EMPTY.  DESIGN CHOICE: any FMT is latched (log 106). -/
def loadPlane (w : List Byte) (header : Nat) (keep : BitVec 8192) (scale : BitVec 2048) : Option Plane :=
  if header / 64 % 2 = 1 then none
  else some ⟨BitVec.ofNat 4 header, header / 16 % 2 = 1, header / 32 % 2 = 1, BitVec.ofNat 32768 (valOf (padded w)), keep, scale⟩

/-- KEEP and SCALE that stand with a plane, empty or not. -/
def sideNow (p : Option Plane) (e : Side) : Side := match p with | some p => ⟨p.keep, p.scale⟩ | none => e
/-- A plane with other KEEP and SCALE. -/
def withSide (p : Option Plane) (e : Side) : Option Plane := p.map fun p => { p with keep := e.keep, scale := e.scale }

/-- The planes' part; KEEP and SCALE stay as they are, for parts 15 and 16 to load. -/
def Thread.loadPlanes (t : Thread) (bs : Option (List Byte)) : Thread :=
  let e0 := sideNow t.wp0 t.spare0
  let e1 := sideNow t.wp1 t.spare1
  let t := { t with spare0 := e0, spare1 := e1 }
  match bs with
  | none => { t with wp0 := none, wp1 := none }
  | some bs =>
    { t with
      wp0 := loadPlane (bs.take 4096) (valOf ((bs.drop 8192).take 8)) e0.keep e0.scale
      wp1 := loadPlane ((bs.drop 4096).take 4096) (valOf ((bs.drop 8200).take 8)) e1.keep e1.scale }

/-- KEEP and SCALE as a part holds them, or their Reset value. -/
def sideOf (bs : Option (List Byte)) : Side :=
  match bs with
  | some b => ⟨BitVec.ofNat 8192 (valOf ((padded b).take 1024)), BitVec.ofNat 2048 (valOf (((padded b).drop 1024).take 256))⟩
  | none => Side.zero

/-- Clears a dirty bit. -/
def Thread.clean (t : Thread) (i : Nat) : Thread := t.setStatus (putBit t.status i false)

/-- One part is loaded, or takes its Reset value (none); its dirty bit is cleared. -/
def Thread.loadPart (t : Thread) (bit : Nat) (bs : Option (List Byte)) : Thread :=
  if bit = 0 then (match bs with | some b => t.loadAlways b | none => t.resetAlways)
  else if bit = 1 then
    { t with v := match bs with | some b => rowTable 0 b 32 | none => [] }.clean vdirtyBit
  else if bit < 10 then
    let n := bit - 2
    (({ t with t := putRange t.t (16 * n) 16 (match bs with | some b => rowTable (16 * n) b 16 | none => []) }.clean (tdirtyBit + n)).cure n).own n
  else if bit < 14 then
    let n := bit - 10
    (({ t with a := putRange t.a (16 * n) 16 (match bs with | some b => rowTable (16 * n) b 16 | none => []) }.clean (adirtyBit + n)).cure (8 + n)).own (8 + n)
  else if bit = 14 then (((((t.loadPlanes bs).clean wdirtyBit).cure 12).cure 13).own 12).own 13
  else if bit = 15 then { t with wp0 := withSide t.wp0 (sideOf bs), spare0 := sideOf bs }.clean wdirtyBit
  else { t with wp1 := withSide t.wp1 (sideOf bs), spare1 := sideOf bs }.clean wdirtyBit

/-- The register writes of a part are folded into the fingerprint (R350); x0 and k0 are not written. -/
def Thread.foldPart (t : Thread) (bit : Nat) : Thread :=
  let many (from_ n tag w : Nat) (get : Nat → Nat) (t : Thread) : Thread :=
    ((List.range n).drop from_).foldl (fun t i => t.foldReg (tag + i) w (get i)) t
  if bit = 0 then
    many 1 8 0x60 8 (fun i => (t.rk (BitVec.ofNat 3 i)).toNat)
      (many 0 32 0x20 8 (fun i => (t.rf (BitVec.ofNat 5 i)).toNat) (many 1 32 0x00 8 (fun i => (t.rx (BitVec.ofNat 5 i)).toNat) t))
  else if bit = 1 then many 0 32 0x40 64 (fun i => (t.rv (BitVec.ofNat 5 i)).toNat) t
  else if bit < 10 then t.foldTile (BitVec.ofNat 3 (bit - 2))
  else if bit < 14 then t.foldAcc (BitVec.ofNat 2 (bit - 10))
  else t

/-- Reads the selected parts whose VALID bit is set: their bytes, or the first poisoned line. -/
def State.loadParts (s : State) (va : Word) (mask valid : Nat) : (fuel : Nat) → (bit : Nat) →
    (List (Nat × Option (List Byte)) × Option Word × Nat) × State
  | 0, _ => (([], none, 0), s)
  | fuel + 1, bit =>
    if mask / 2 ^ bit % 2 = 0 then s.loadParts va mask valid fuel (bit + 1)
    else
      let ((mine, bad, n), s) : (Option (List Byte) × Option Word × Nat) × State :=
        if valid / 2 ^ bit % 2 = 0 then ((none, none, 0), s)
        else
          let ((bs, bad), s) := (partSpans bit).foldl (fun (r : (List Byte × Option Word) × State) sp =>
            let ((b, p), s) := r.2.areaGet .load (linesOf sp.2) (va + BitVec.ofNat 64 sp.1) sp.2
            ((r.1.1 ++ b, r.1.2.orElse fun _ => p), s)) (([], none), s)
          ((some bs, bad, bs.length), s)
      let ((rest, bad', n'), s) := s.loadParts va mask valid fuel (bit + 1)
      (((bit, mine) :: rest, bad.orElse (fun _ => bad'), n + n'), s)

/-- R219. -/
def execCtxload (a b : Reg) (s : State) : Out :=
  let bits := (encode (.ctxload a b)).bits
  priv bits s
    (let va := s.th.rx a
     let mask := if b = 0#5 then 2 ^ 17 - 1 else (s.th.rx b).toNat % 2 ^ 17
     (if va.toNat % 64 ≠ 0 then .stop (memTrap 0x0E .load 0 va s)
      else
        (s.areaCheck .load (areaBytes / 64) va).bind fun _ s =>
          if s.areaBusy va then .stop s.await
          else
          match s.areaGet .load 2 (va + 0xC0#64) 16 with
          | ((_, some bad), s) => .stop (consumePoison bad (s.poisonInfo .load 0 bad) s)
          | ((hd, none), s) =>
            if valOf (hd.take 8) ≠ 1 then .stop (raise 0x05 bits 1#64 s)
            else
              match s.loadParts va mask (valOf (hd.drop 8)) 17 0 with
              | ((_, some bad, _), s) => .stop (consumePoison bad (s.poisonInfo .load 0 bad) s)
              | ((parts, none, n), s) =>
                let (cost, s) := s.freeCost n
                let (who, s) := s.threadOf va
                let c := s.cluster s.myCluster
                let fresh := mask / 2 ^ 14 % 2 = 1
                let s := if fresh then s.setCluster s.myCluster { c with nextPlane := c.nextPlane + 2 } else s
                let t := parts.foldl (fun t p => (t.loadPart p.1 p.2).foldPart p.1) s.th
                let t := if fresh then { t with plane0 := c.nextPlane, plane1 := c.nextPlane + 1 } else t
                let t := if mask % 2 = 1 then
                    { (t.arrived (decide (t.tag.ctx = s.cairn.ctx)) (decide (s.cairn.s ≤ t.step)) cost) with
                      status := t.status &&& ~~~ 0xFFFE000000#64, who := who }
                  else t
                let s := s.setTh ((t.irrev.complete 4).refetch)
                .ok () (if mask % 2 = 1 then s.stopIfStale s.cur else s) : Res Unit).out)

/-! ### KILL and RECLAIM (R220, R221) -/

/-- The current thread sends an ordered item with the pair (0x000, 0) and waits for it (R309). -/
def State.askZero (s : State) (i : Item) : State :=
  let id := s.nextId
  let i := { i with id := id, src := s.cur }
  let s := ({ s with nextId := id + 1 }).enqueue s.myLayer 0 i
  s.setTh { s.th with reqs := [id], sent := true, waiting := true }

/-- R220. -/
def execKill (d a : Reg) (s : State) : Out :=
  priv (encode (.kill d a)).bits s
    (let v := s.th.rx a
     match s.itemAnswer with
     | some r => finish 4 s fun t => (t.irrev).wx d (BitVec.ofNat 64 r.data.toNat)
     | none =>
       if s.th.reqs ≠ [] then .next s.await
       else if 4096 ≤ v.toNat then finish 4 s fun t => (t.irrev).wx d 3#64
       else .next (s.askZero { Item.blank with op := .kill, val := v }))

/-- R221: 3, 4 or 0 at once; else the pair that must leave. -/
def State.reclaimAtOnce (s : State) (c i : Word) : Option Nat :=
  if 4096 ≤ c.toNat ∨ 256 ≤ i.toNat then some 3
  else
    let e := s.incOf s.myLayer (c.setWidth 12)
    if i.toNat = e.cur.toNat then some 4
    else if e.pend && (e.cur - 1#8).toNat == i.toNat then none
    else some 0

/-- R221, R339: parks until the pair has left every agent and its record has been applied. -/
def execReclaim (d a b : Reg) (s : State) : Out :=
  priv (encode (.reclaim d a b)).bits s
    (let c := s.th.rx a
     let i := s.th.rx b
     match s.reclaimAtOnce c i with
     | some st => finish 4 s fun t => (t.irrev).wx d (BitVec.ofNat 64 st)
     | none =>
       let g : Tag := ⟨c.setWidth 12, i.setWidth 8⟩
       if s.leftEverywhere g && !s.reclaimSent c.toNat then
         let s := s.flash g
         let s := ({ s with nextId := s.nextId + 1 }).enqueue s.myLayer 0
           { Item.blank with op := .reclaim, id := s.nextId, src := s.cur, val := c }
         .next (s.parkOn (.reclaim g))
       else .next (s.parkOn (.reclaim g)))

/-! ### Fault queues (R222, R223) -/

/-- A record leaves the queue; one that waited for space enters it (R267, R269). -/
def State.popRecord (s : State) (layer : Nat) (r : Line) : State :=
  let y := s.layer layer
  let y := { y with fq := y.fq.erase r }
  match y.fqWaiting with
  | [] => s.setLayer layer y
  | w :: rest => ((s.setLayer layer { y with fqWaiting := [] }).queueRecord layer w).waitRecords layer rest

/-- FQPOP takes a copy record: ECAUSE names them, and one that it has taken is of TYPE 2 (R200, R222). -/
def Thread.popsCopies (t : Thread) : Bool :=
  match t.popped with
  | some r => r.toNat % 256 == 2
  | none => t.ecause.toNat % 256 == 0x14

/-- The record that FQPOP takes. -/
def State.nextRecord (s : State) : Option Line :=
  if s.th.popsCopies then s.th.copyRecs.head?.map (·.data) else (s.layer s.myLayer).fq.head?

/-- The record goes, with the decrement of R199 for a copy record. -/
def State.takeRecord (s : State) (r : Line) : State :=
  if s.th.popsCopies then
    match s.th.copyRecs with
    | [] => s
    | c :: rest => s.setTh (decCg { s.th with copyRecs := rest } c.cg)
  else s.popRecord s.myLayer r

/-- Another thread of the layer has a record of the queue on its way: each goes to one thread, so a second pop waits (R222). -/
def State.queueTaken (s : State) : Bool :=
  !s.th.popsCopies && s.threads.any fun e => e.1 != s.cur && layerOf e.1 == s.myLayer && e.2.popped.isSome && !e.2.popsCopies

/-- FQPOP to another layer or package, or to the BD, has its record written by the home, and an empty queue has the address checked there.  A
fault record leaves its queue when the home performs the write (`popAtHome`), a copy record when the write is answered. -/
def State.fqpopAway (s : State) (va : Word) (d : Reg) (pa mt : Nat) : Res Unit :=
  let put : Packet := { Packet.blank with kind := .put, va := va, n := 64, align := 64, mask := BitVec.allOnes 64, pa := pa, mt := mt }
  match s.answer va.toNat .store, s.th.popped with
  | some x, some r =>
    if x.held.isSome then .stop (s.parkHeld x va)
    else if x.cause ≠ 0 then .stop (raise x.cause va x.einfo s)
    else
      let s := if s.th.popsCopies then s.takeRecord r else s
      let s := s.rdcStoreLine va r (BitVec.allOnes 64)
      .ok () (s.setTh ((((s.th.foldStore va 64 r.toNat).sign va).irrev.wx d 0#64).complete 4))
  | some x, none =>
    if x.held.isSome then .stop (s.parkHeld x va)
    else if x.cause ≠ 0 then .stop (raise x.cause va x.einfo s)
    else if s.nextRecord.isNone then .ok () (s.setTh (((s.th.irrev).wx d 1#64).complete 4))
    else .stop (s.setTh { s.th with answers := [], waiting := true })
  | none, _ =>
    if s.th.reqs ≠ [] then .stop s.await
    else
      match s.nextRecord with
      | none =>
        if dieOf va ≠ 8 then .stop (s.ask { put with kind := .probe .store })
        else if bdMapped pa 64 ∨ bdOutbound pa 64 then .ok () (s.setTh (((s.th.irrev).wx d 1#64).complete 4))
        else .stop (memTrap 0x0B .store 0 va s)
      | some r =>
        if s.queueTaken then .stop s.await
        else
          let s := s.ask { put with data := r }
          .stop (s.setTh { s.th with popped := some r, sent := true })

/-- R222. -/
def execFqpop (d a : Reg) (s : State) : Out :=
  priv (encode (.fqpop d a)).bits s
    (let va := s.th.rx a
     ((s.check 0 .store va 64 64 0x0B 0).bind fun tg s =>
       match tg with
       | .away => s.fqpopAway va d 0 0
       | .bd pa mt => s.fqpopAway va d pa mt
       | _ =>
         if s.queueTaken then .stop s.await
         else
           match s.nextRecord with
           | none => .ok () (s.setTh (((s.th.irrev).wx d 1#64).complete 4))
           | some r =>
             (s.writeTo 0 va 64 r.toNat tg).bind fun _ s =>
               let s := s.takeRecord r
               .ok () (s.setTh (((s.th.irrev).wx d 0#64).complete 4))).out)

/-! ### REPLAY and interrupts of a parked thread (R223, R300, R397) -/

/-- The requests of a thread that a home holds for REPLAY and that no other reader has joined: an interrupt of the parked
thread withdraws them, and the instruction asks again when it runs again (R266, R300). -/
def State.withdraw (s : State) (p : Nat) : State :=
  let t := s.thread p
  let mine (q : Packet) : Bool := t.reqs.contains q.id && q.joined.isEmpty && (match q.stage with | .held _ => true | _ => false)
  (s.packets.filter mine).foldl (fun s q => (s.dropPacket q.id).consumePacket q) s

/-- R300: the interrupt is taken. -/
def State.interruptThread (s : State) (p : Nat) : State := (s.withdraw p).setThread p (s.thread p).takeInterrupt

/-- A thread parked in a fault group goes on (R223). -/
def Thread.release (layer g : Nat) (t : Thread) : Thread :=
  if t.parked = some (.group layer g) then { t with parked := none } else t

/-- A request that its instruction waits for and that writes at its home: once it is on its way it is not withdrawn (R300). -/
def PktKind.writesOnce : PktKind → Bool
  | .amo _ | .cas | .rel | .put => true
  | _ => false

/-- A held request goes on.  One that writes for an instruction that waits is not sent where that thread takes an interrupt now: the
interrupt comes first, and the instruction asks again after ERET (R397); else it can no longer be withdrawn (R300). -/
def State.releaseHeld (s : State) (p : Packet) : State :=
  let t := s.thread p.src
  if p.kind.writesOnce ∧ t.reqs.contains p.id then
    if t.takesInterrupt then s.interruptThread p.src
    else (s.setThread p.src { t with sent := true }).setPacket { p with stage := .toHome }
  else s.setPacket { p with stage := .toHome }

/-- R223: threads, held requests and held messages of group `g` go on, and the group ends. -/
def State.replayGroup (s : State) (layer g : Nat) : State :=
  let y := s.layer layer
  if (Table.find y.groups g).isSome then
    let s := s.setLayer layer { y with groups := Table.del y.groups g }
    let s : State := { s with
      threads := s.threads.map fun e => (e.1, e.2.release layer g)
      inbound := s.inbound.map fun m => if m.group = some (layer, g) then { m with group := none } else m }
    ((s.packets.filter fun p => decide (p.stage = .held g) && homeOf (layerOf p.src) p.va == layer).foldl State.releaseHeld s).offerWaiting
  else s

/-- R223. -/
def execReplay (a : Reg) (s : State) : Out :=
  priv (encode (.replay a)).bits s
    (if !s.performedAt 3#2 then .next s.await
     else finish 4 (s.replayGroup s.myLayer ((s.th.rx a).toNat % 65536)) Thread.irrev)

end Sys2Proof.Machine
end

