-- ==== Sys2Proof/Machine/EventsCore.lean ====
section
/-!
DEFINITION. Events of cores, tile engines and registers (R27, R142, R182, R275, R281 to R287, R300, R305, R313, R336, R350,
R369).  An event that the state does not make due changes nothing.
-/

namespace Sys2Proof.Machine

/-- An event of a hardware thread, core, cluster or layer.  One that names none of them, or that is not due in the state, does not
happen, and the machine stays as it is (log 75). -/
def event (s : State) (exists_ due : Bool) (s' : State) : Out := if exists_ && due then .next s' else .next s

/-- There are 2,048 hardware threads, 1,024 cores, 128 clusters and 8 layers (R12). -/
def isThread (p : Nat) : Bool := decide (p < 2048)
def isCore (c : Nat) : Bool := decide (c < 1024)
def isCluster (c : Nat) : Bool := decide (c < 128)
def isLayer (l : Nat) : Bool := decide (l < 8)

/-! ### Interrupts, slices, WAITNE -/

/-- R300. -/
def execInterruptEntry (p : Nat) (s : State) : Out :=
  let t := s.thread p
  event s (isThread p) (t.resident && !t.looped && t.takesInterrupt) (s.interruptThread p)

/-- R305: the floor of a slice. -/
def Thread.sliceFloor (t : Thread) : Nat := max t.slice.toNat (2 * t.switchCost.toNat)

def Thread.expire (t : Thread) : Thread :=
  let clamped := decide (t.slice.toNat < 2 * t.switchCost.toNat)
  { t with
    clampCnt := if clamped && t.clampCnt != BitVec.allOnes 32 then t.clampCnt + 1#32 else t.clampCnt
    irq17 := some clamped
    sliceRun := false }

def Thread.sliceDue (t : Thread) : Bool := t.resident && t.slice != 0#32 && t.sliceRun && decide (t.sliceFloor ≤ t.sliceE)

/-- R305. -/
def execSliceTimerExpiry (p : Nat) (s : State) : Out :=
  event s (isThread p) (s.thread p).sliceDue (s.setThread p (s.thread p).expire)

/-- R142: a parked WAITNE reads its word again. -/
def execWaitneRecheck (p : Nat) (s : State) : Out :=
  let t := s.thread p
  event s (isThread p) (match t.parked with | some .waitne | some (.watch _ _ _ _) => true | _ => false) (s.setThread p { t with answers := [], reqs := [], parked := none, waiting := false })

/-! ### Fetch and decode (R275, R276) -/

/-- A candidate: resident, not parked, with room in its fetch buffer and no instruction-cache miss outstanding. -/
def State.candidate (s : State) (p : Nat) : Bool :=
  let t := s.thread p
  t.resident && !t.looped && t.parked.isNone && decide (t.buffered < Config.fetchBuffer) &&
    !(s.packets.any fun q => t.reqs.contains q.id && decide (q.kind = .fetch))

/-- Entries of the reorder buffer of 384 that a thread can take: it always has 96, and leaves its sibling 96 (R276). -/
def Thread.robRoom (t sibling : Thread) : Nat := max 96 (384 - max 96 sibling.ahead) - t.ahead

/-- Entries of the load queue and of the store queue that a thread always has (R276). -/
def queueMin : Nat := 16

/-- The issue queues, or the load or store queue, may have no entry for a thread: instructions of the core wait to issue, or the thread holds
the entries that it always has (R276). -/
def Thread.mayStall (t sibling : Thread) : Bool := decide (0 < t.unissued + sibling.unissued ∨ queueMin ≤ t.ahead)

/-- A thread can decode: it has an instruction, and the reorder buffer an entry for it.  The issue, load and store queues, whose sizes
the spec does not give, stall it or not by a free value where they may (log 83). -/
def State.decodable (s : State) (p : Nat) (stalled : Bool) : Bool :=
  let t := s.thread p
  let sibling := s.thread (p ^^^ 1)
  t.resident && !t.looped && t.parked.isNone && decide (0 < t.buffered) && decide (0 < t.robRoom sibling) && !(stalled && t.mayStall sibling)

/-- The rule of R275 between the threads `a` and `b` of a core: who has not been served for 7 cc, else who has fewer instructions
between decode and issue, else who was not served in the previous cc.  DESIGN CHOICE: `a`, the lower-numbered thread, where both have gone
unserved for 7 cc, and `b` where both were (log 83). -/
def choose (a b : Nat) (canA canB : Bool) (ageA ageB waitA waitB : Nat) : Option Nat :=
  match canA, canB with
  | false, false => none
  | true, false => some a
  | false, true => some b
  | true, true =>
    if 7 ≤ ageA then some a
    else if 7 ≤ ageB then some b
    else if waitA < waitB then some a
    else if waitB < waitA then some b
    else if 1 ≤ ageA then some a else some b

/-- The thread of a core that is fetched. -/
def State.fetches (s : State) (core : Nat) : Option Nat :=
  let a := s.thread (2 * core)
  let b := s.thread (2 * core + 1)
  choose (2 * core) (2 * core + 1) (s.candidate (2 * core)) (s.candidate (2 * core + 1)) a.fetchAge b.fetchAge a.unissued b.unissued

/-- The thread of a core that is decoded; bits 0 and 1 of `w` say which are stalled. -/
def State.decodes (s : State) (core : Nat) (w : Word) : Option Nat :=
  let a := s.thread (2 * core)
  let b := s.thread (2 * core + 1)
  choose (2 * core) (2 * core + 1) (s.decodable (2 * core) (w.getLsbD 0)) (s.decodable (2 * core + 1) (w.getLsbD 1)) a.decodeAge b.decodeAge
    a.unissued b.unissued

/-- One cc of a thread: its ages, the instructions that it fetches and decodes (0: it does not), those that have not issued, and e of
R305. -/
def Thread.tick (t : Thread) (fetched decoded unissued : Nat) : Thread :=
  { t with
    fetchAge := if fetched = 0 then t.fetchAge + 1 else 0
    decodeAge := if decoded = 0 then t.decodeAge + 1 else 0
    buffered := t.buffered + fetched - decoded
    ahead := t.ahead + decoded
    unissued := unissued
    sliceE := if t.resident && t.sliceRun then t.sliceE + 1 else t.sliceE }

/-- Up to 32 bytes are fetched, which are 1 to 16 instructions: how many is a free value, as the bytes are not kept. -/
def Thread.fetchCount (t : Thread) (w : Word) : Nat := min (1 + w.toNat % 16) (Config.fetchBuffer - t.buffered)

/-- Up to 6 instructions are decoded. -/
def Thread.decodeCount (t sibling : Thread) (w : Word) : Nat := 1 + w.toNat % min 6 (min t.buffered (t.robRoom sibling))

/-- One cc of a thread of a core; how many of its instructions issue is a free value too (log 83). -/
def State.tickThread (s : State) (core p : Nat) : Thread :=
  let t := s.thread p
  let decoded := if s.decodes core (Config.freeWord (s.free + 1)) = some p then t.decodeCount (s.thread (p ^^^ 1)) (Config.freeWord (s.free + 2)) else 0
  t.tick (if s.fetches core = some p then t.fetchCount (Config.freeWord s.free) else 0) decoded
    ((Config.freeWord (s.free + 3 + p % 2)).toNat % (t.unissued + decoded + 1))

/-- R275, R276: one cc of the threads of a core. -/
def State.coreCc (s : State) (core : Nat) : State :=
  { (s.setThread (2 * core) (s.tickThread core (2 * core))).setThread (2 * core + 1) (s.tickThread core (2 * core + 1)) with free := s.free + 5 }

/-- R275, R276: CYCLE counts the cc (R24). -/
def execFetchCycle (core : Nat) (s : State) : Out :=
  let c := s.core core
  event s (isCore core) true ((s.coreCc core).setCore core { c with cycle := c.cycle + 1 })

/-- A squash (R281): entries from `seq` on leave the queue, and the map is that of the checkpoint taken there. -/
def Thread.squash (t : Thread) (seq : Nat) : Thread :=
  let t := match t.checkpoints.find? (fun c => c.seq == seq) with
    | some c => { t with plane0 := c.plane0, plane1 := c.plane1 }
    | none => t
  { t with
    ahead := 0, unissued := 0, buffered := 0, te := t.te.filter fun e => decide (e.seq < seq) || e.started
    checkpoints := t.checkpoints.filter fun c => decide (c.seq < seq) }

/-- R281: what the thread has fetched beyond the branch goes, and the rename map is that of the branch's checkpoint.  Nothing
younger than the next instruction has left anything in the TE, so `seq`, the reorder-buffer identity, is that of its next tile
instruction; checkpoints younger than the branch go with its own. -/
def execBranchMispredict (p seq : Nat) (s : State) : Out :=
  let t := s.thread p
  event s (isThread p) (t.resident && seq == t.teSeq)
    (s.setThread p (t.squash seq))

/-! ### The tile engine (R278 to R287) -/

/-- R281: an executed entry is retired, and the registers it replaced are free. -/
def execTeRetire (p seq : Nat) (s : State) : Out :=
  let t := s.thread p
  event s (isThread p) (t.te.any fun e => e.seq == seq && e.done)
    (s.setThread p { t with te := t.te.filter fun e => e.seq != seq })

/-- R278: entries whose INC is not current are not taken; they are discarded and counted (R333, R338). -/
def State.discardStale (s : State) (core : Nat) : State :=
  [2 * core, 2 * core + 1].foldl (fun s p =>
    let t := s.thread p
    let keeps (e : TeEntry) : Bool := e.started || s.current (layerOf p) e.tag
    let s := (t.te.filter fun e => !keeps e).foldl (fun s _ => s.countDrop (layerOf p) 4) s
    s.setThread p { t with te := t.te.filter keeps }) s

/-- The oldest array operation of a core, if it is ready: its wp0 is complete (R182, R281); of a TWSWAP that is the plane that
was wp0 before it. -/
def State.readyOp (s : State) (core : Nat) : Option Queued :=
  match s.coreQueue core with
  | (p, e) :: _ => if (s.cluster (core / 8)).twld.any (fun w => w.2.1 == (if e.op = 1 then e.other else e.plane)) then none else some (p, e)
  | [] => none

/-- start(h): a multiply whose plane is not active first loads it (R285); a marker behind the operation reaches the head (R286). -/
def State.startOp (s : State) (cl : Nat) (h : Queued) (fresh : Bool) : State :=
  let c := s.cluster cl
  let used := if fresh then 0 else c.used
  if h.2.op = 0 ∧ c.active ≠ some h.2.plane then
    s.setCluster cl { c with active := some h.2.plane, staging := c.active, loading := some (h.1, h.2.seq), used := used }
  else
    ((s.setCluster cl { c with running := some (h.1, h.2.seq), used := used + h.2.occ }).mapEntry h.1 h.2.seq
      fun e => { e with started := true }).yields (coreOf h.1) 65

/-- The cores of a cluster with a weight and a ready oldest operation, in the search order from `from_ + 1`. -/
def State.nextCore (s : State) (cl from_ : Nat) : Option (Nat × Queued) :=
  (List.range 8).findSome? fun i =>
    let core := 8 * cl + (from_ + 1 + i) % 8
    if s.weight core = 0 then none else (s.readyOp core).map fun h => (core, h)

/-- R284: one decision with the array free.  After a plane load, it ends the burst unless the load's operation still is the oldest ready one of the
core and fits (R399). -/
def State.decideArray (s : State) (cl : Nat) : State :=
  let s := (List.range 8).foldl (fun s i => (s.discardStale (8 * cl + i)).yields (8 * cl + i) 65) s
  let after := (s.cluster cl).loaded
  let c := { s.cluster cl with loaded := none }
  let fresh (from_ : Nat) : State :=
    match s.nextCore cl from_ with
    | some (core, h) => (s.setCluster cl { c with cur := some core, last := core % 8 }).startOp cl h true
    | none => s.setCluster cl { c with cur := none }
  match c.cur with
  | none => fresh c.last
  | some core =>
    let s := s.setCluster cl c
    let gone : Bool := match after with | some h => (s.readyOp core).map (fun x => (x.1, x.2.seq)) != some h | none => false
    if s.weight core = 0 ∨ gone = true then fresh (core % 8)
    else
      match s.readyOp core with
      | some h => if c.used + h.2.occ ≤ 4 * s.weight core then s.startOp cl h false else fresh (core % 8)
      | none =>
        match s.nextCore cl (core % 8) with
        | some _ => fresh (core % 8)
        | none => s

/-- R284. -/
def execArrayArbiterDecision (cl : Nat) (s : State) : Out :=
  let c := s.cluster cl
  event s (isCluster cl) (c.running.isNone && c.loading.isNone) (s.decideArray cl)

/-- A plane load has run its 4 ec (R285): the next decision learns of the operation for which it was begun (R399). -/
def State.loadDone (s : State) (cl : Nat) : State :=
  let c := s.cluster cl
  s.setCluster cl { c with loading := none, loaded := c.loading }

/-- R399: the next decision follows. -/
def execPlaneLoadComplete (cl : Nat) (s : State) : Out := event s (isCluster cl) (s.cluster cl).loading.isSome (s.loadDone cl)

/-- R183, R285: a TWSWAP exchanges the slots if they hold the thread's planes. -/
def swapSlots (c : Cluster) (e : TeEntry) : Cluster :=
  if e.op = 1 ∧ c.staging = some e.plane ∧ c.active = some e.other then { c with active := c.staging, staging := c.active } else c

/-- R283: the operation that runs has run its occupancy; one of a stale pair leaves nothing. -/
def State.opDone (s : State) (cl p seq : Nat) : State :=
  let c := { s.cluster cl with running := none }
  let t := s.thread p
  let c := match t.te.find? (fun e => e.seq == seq) with | some e => swapSlots c e | none => c
  let stale (e : TeEntry) : Bool := e.seq == seq && !s.current (layerOf p) e.tag
  let te := (t.te.map fun e => if e.seq = seq then { e with done := true } else e).filter fun e => !stale e
  let s := if t.te.any stale then s.countDrop (layerOf p) 4 else s
  (s.setCluster cl c).setThread p { t with te := te }

/-- R283. -/
def execArrayOpComplete (cl : Nat) (s : State) : Out :=
  match (s.cluster cl).running with
  | some (p, seq) => event s (isCluster cl) true (s.opDone cl p seq)
  | none => event s (isCluster cl) false s

/-- R182, R285: the oldest TWLD of the thread in expansion is complete; its plane goes to the staging slot in the background
if the active slot holds what was the thread's wp0 at the TWLD. -/
def State.planeDone (s : State) (p : Nat) (w : Nat × Nat × Nat × Tag) : State :=
  let cl := clusterOf p
  let c := s.cluster cl
  s.setCluster cl { c with
    twld := c.twld.erase w
    staging := if c.active = some w.2.2.1 then some w.2.1 else c.staging }

/-- R182. -/
def execTwldPlaneComplete (p : Nat) (s : State) : Out :=
  match (s.cluster (clusterOf p)).twld.find? (fun w => w.1 == p) with
  | some w => event s (isThread p) true (s.planeDone p w)
  | none => event s (isThread p) false s

/-! ### Register writes -/

/-- R282, R287. -/
def execEngweightWrite (cl : Nat) (v : Word) (s : State) : Out := event s (isCluster cl) true (s.writeEngweight cl v)
/-- R27. -/
def execBardescWrite (layer n : Nat) (v : Word) (s : State) : Out :=
  event s (isLayer layer && decide (n < 16)) true (s.writeBardesc layer n v)
/-- R305. -/
def execSliceWrite (p : Nat) (v : Word) (s : State) : Out :=
  event s (isThread p) true (s.setThread p ((s.thread p).writeSlice v))
/-- R15, R336. -/
def execCtxWrite (p : Nat) (v : Word) (s : State) : Out :=
  event s (isThread p) true ((s.setThread p ((s.thread p).writeCsr 0x402 v)).stopIfStale p)
/-- R313: accepted, a notice goes out; refused, nothing changes. -/
def execRopeslotWrite (layer n : Nat) (v : Word) (s : State) : Out :=
  event s (isLayer layer && decide (n < 64)) true
    (if s.slotAccepts layer n v then s.slotChange (256 * layer) n v (s.slotEntry 8 n) else s)
/-- R369: without effect on a cut that is neither armed nor closing nor draining. -/
def execSnapctlAbort (s : State) : Out := .next s.abortCut

/-- R350: of the thread of a core that is due. -/
def State.pairDue (s : State) (core : Nat) : Option Nat :=
  [2 * core, 2 * core + 1].find? fun p => (s.thread p).paired && (s.thread p).exchangeDue

/-- R350, R351. -/
def execFingerprintExchange (core : Nat) (s : State) : Out :=
  match s.pairDue core with
  | some p => event s (isCore core) true (s.exchangeAt p false).2
  | none => event s (isCore core) false s

end Sys2Proof.Machine
end

