-- ==== Sys2Proof/Machine/Fp.lean ====
section
/-!
DEFINITION. Number formats and their arithmetic (R97 to R112): every value is decoded to an exact dyadic, computed on
exactly, and rounded once.
-/

namespace Sys2Proof.Machine

/-! ### Formats (R97, R98) -/

/-- What the top exponent means. -/
inductive Top where
  /-- ∞ and NaN, as IEEE 754. -/
  | ieee
  /-- E4M3: finite except S.1111.111, which is NaN; no ∞. -/
  | e4m3
  /-- Finite; no ∞, no NaN. -/
  | finite
deriving DecidableEq, Repr

/-- A floating-point format: exponent bits, fraction bits, top exponent.  The bias is 2^(E − 1) − 1 in every row of R98. -/
structure Fmt where
  eb : Nat
  mb : Nat
  top : Top
deriving DecidableEq, Repr

def Fmt.width (f : Fmt) : Nat := 1 + f.eb + f.mb
def Fmt.bias (f : Fmt) : Nat := 2 ^ (f.eb - 1) - 1
/-- Precision: fraction bits and the leading bit. -/
def Fmt.prec (f : Fmt) : Nat := f.mb + 1
/-- Exponent of the last place of the smallest normal and of every subnormal. -/
def Fmt.qmin (f : Fmt) : Int := 1 - (f.bias : Int) - f.mb

def fp64 : Fmt := ⟨11, 52, .ieee⟩
def fp32 : Fmt := ⟨8, 23, .ieee⟩
def fp16 : Fmt := ⟨5, 10, .ieee⟩
def bf16 : Fmt := ⟨8, 7, .ieee⟩
def e4m3 : Fmt := ⟨4, 3, .e4m3⟩
def e5m2 : Fmt := ⟨5, 2, .ieee⟩
def e3m2 : Fmt := ⟨3, 2, .finite⟩
def e2m3 : Fmt := ⟨2, 3, .finite⟩
def e2m1 : Fmt := ⟨2, 1, .finite⟩

/-- The floating-point format of a format code (R97); codes 9 to 15 name none. -/
def fmtOf (code : Nat) : Fmt :=
  match code with
  | 0 => fp64
  | 1 => fp32
  | 2 => fp16
  | 3 => bf16
  | 4 => e4m3
  | 5 => e5m2
  | 6 => e3m2
  | 7 => e2m3
  | _ => e2m1

/-! ### Values -/

/-- A decoded value: m × 2^e with a sign; m = 0 is a zero. -/
inductive FVal where
  | nan (signalling : Bool)
  | inf (neg : Bool)
  | fin (neg : Bool) (m : Nat) (e : Int)
deriving DecidableEq, Repr

/-- The canonical NaN of a format (R99); +0 where the format has none (R107). -/
def Fmt.nan (f : Fmt) : Nat :=
  match f.top with
  | .ieee => (2 ^ f.eb - 1) * 2 ^ f.mb + 2 ^ (f.mb - 1)
  | .e4m3 => 0x7F
  | .finite => 0


def Fmt.signBit (f : Fmt) (neg : Bool) : Nat := if neg then 2 ^ (f.eb + f.mb) else 0
/-- ±largest finite (R98). -/
def Fmt.largest (f : Fmt) (neg : Bool) : Nat :=
  f.signBit neg +
    (match f.top with
     | .ieee => (2 ^ f.eb - 1) * 2 ^ f.mb - 1
     | .e4m3 => 2 ^ (f.eb + f.mb) - 2
     | .finite => 2 ^ (f.eb + f.mb) - 1)
/-- ±∞; where the format has none, what an overflow to ∞ gives (R107). -/
def Fmt.inf (f : Fmt) (neg : Bool) : Nat :=
  match f.top with
  | .ieee => f.signBit neg + (2 ^ f.eb - 1) * 2 ^ f.mb
  | .e4m3 => 0x7F
  | .finite => f.largest neg

/-- Decodes a pattern (R98, R99). -/
def Fmt.decode (f : Fmt) (v : Nat) : FVal :=
  let neg := v / 2 ^ (f.eb + f.mb) % 2 == 1
  let e := v / 2 ^ f.mb % 2 ^ f.eb
  let m := v % 2 ^ f.mb
  if f.top = .ieee ∧ e = 2 ^ f.eb - 1 then
    if m = 0 then .inf neg else .nan (m / 2 ^ (f.mb - 1) == 0)
  else if f.top = .e4m3 ∧ e = 2 ^ f.eb - 1 ∧ m = 2 ^ f.mb - 1 then .nan false
  else if e = 0 then .fin neg m f.qmin
  else .fin neg (2 ^ f.mb + m) (f.qmin + e - 1)

def bitLen (n : Nat) : Nat := if n = 0 then 0 else Nat.log2 n + 1

/-! ### Flags: INV 1, DVZ 2, OVF 4, UNF 8, INX 16 (R114) -/

def fINV : Nat := 1
def fDVZ : Nat := 2
def fOVF : Nat := 4
def fUNF : Nat := 8
def fINX : Nat := 16

/-- A pattern and the flags raised. -/
abbrev FRes := Nat × Nat

/-! ### Rounding (R43, R107) -/

/-- Whether a magnitude with quotient `q` and remainder `r` of `d` is rounded up in a mode: 0 to nearest even, 1 to nearest
away, 2 toward zero, 3 toward +∞, 4 toward −∞. -/
def roundUp (rm : Nat) (neg : Bool) (q r d : Nat) : Bool :=
  match rm with
  | 0 => decide (d < 2 * r ∨ (2 * r = d ∧ q % 2 = 1))
  | 1 => decide (d ≤ 2 * r)
  | 2 => false
  | 3 => !neg && decide (0 < r)
  | _ => neg && decide (0 < r)

/-- m × 2^e cut to a multiple of 2^q and rounded: the multiple, and whether it is exact. -/
def roundAt (rm : Nat) (neg : Bool) (m : Nat) (e q : Int) : Nat × Bool :=
  if q ≤ e then (m * 2 ^ (e - q).toNat, true)
  else
    let d := 2 ^ (q - e).toNat
    (m / d + (if roundUp rm neg (m / d) (m % d) d then 1 else 0), m % d == 0)

/-- The result of an overflow (R107). -/
def Fmt.overflow (f : Fmt) (rm : Nat) (sat neg : Bool) : Nat :=
  if sat then f.largest neg
  else
    match rm with
    | 0 => f.inf neg
    | 1 => f.inf neg
    | 2 => f.largest neg
    | 3 => if neg then f.largest neg else f.inf neg
    | _ => if neg then f.inf neg else f.largest neg

/-- Rounds (−1)^neg × m × 2^e once into a format, with the flags OVF, UNF and INX. -/
def Fmt.round (f : Fmt) (rm : Nat) (sat neg : Bool) (m : Nat) (e : Int) : FRes :=
  if m = 0 then (f.signBit neg, 0)
  else
    let len := bitLen m
    let qn := e + len - f.prec
    let q := if qn < f.qmin then f.qmin else qn
    let (sig0, exact) := roundAt rm neg m e q
    let (sig, q) := if sig0 = 2 ^ f.prec then (2 ^ (f.prec - 1), q + 1) else (sig0, q)
    let field : Nat := if sig < 2 ^ (f.prec - 1) then 0 else (q - f.qmin + 1).toNat
    let frac := sig % 2 ^ f.mb
    let tooBig :=
      match f.top with
      | .ieee => decide (2 ^ f.eb - 1 ≤ field)
      | .e4m3 => decide (2 ^ f.eb ≤ field) || (field == 2 ^ f.eb - 1 && frac == 2 ^ f.mb - 1)
      | .finite => decide (2 ^ f.eb ≤ field)
    if tooBig then (f.overflow rm sat neg, fOVF + fINX)
    else
      -- tininess after rounding: as if the exponent range were unbounded
      let (t, _) := roundAt rm neg m e qn
      let tiny := (if t = 2 ^ f.prec then qn + 1 else qn) < f.qmin
      (f.signBit neg + field * 2 ^ f.mb + frac, (if exact then 0 else fINX) + (if tiny ∧ !exact then fUNF else 0))

/-- A value strictly between m × 2^e and (m + 1) × 2^e, if `sticky`, as a dyadic that rounds the same way. -/
def stick (m : Nat) (e : Int) (sticky : Bool) : Nat × Int := if sticky then (4 * m + 1, e - 2) else (m, e)

/-! ### Arithmetic on decoded values -/

def FVal.isNan : FVal → Bool
  | .nan _ => true
  | _ => false
def FVal.isSnan : FVal → Bool
  | .nan b => b
  | _ => false
def FVal.neg : FVal → FVal
  | .nan b => .nan b
  | .inf n => .inf (!n)
  | .fin n m e => .fin (!n) m e
def FVal.isZero : FVal → Bool
  | .fin _ 0 _ => true
  | _ => false

/-- A signed integer × 2^e for a finite value at exponent `q ≤ e`. -/
def FVal.toInt (q : Int) : FVal → Int
  | .fin n m e => if n then -((m * 2 ^ (e - q).toNat : Nat) : Int) else ((m * 2 ^ (e - q).toNat : Nat) : Int)
  | _ => 0
def FVal.exp : FVal → Int
  | .fin _ _ e => e
  | _ => 0

/-- INV if a source is a signalling NaN. -/
def snanFlag (xs : List FVal) : Nat := if xs.any FVal.isSnan then fINV else 0

/-- The exact sum of two finite values, with the sign rule of an exact zero (R117). -/
def addFin (rm : Nat) (na : Bool) (ma : Nat) (ea : Int) (nb : Bool) (mb : Nat) (eb : Int) : Bool × Nat × Int :=
  let q := min ea eb
  let s := FVal.toInt q (.fin na ma ea) + FVal.toInt q (.fin nb mb eb)
  if s = 0 then
    (if ma = 0 ∧ mb = 0 ∧ na = nb then na else rm == 4, 0, q)
  else (decide (s < 0), s.natAbs, q)

/-- a + b, rounded (R117). -/
def Fmt.add (f : Fmt) (rm : Nat) (a b : FVal) : FRes :=
  match a, b with
  | .fin na ma ea, .fin nb mb eb =>
    let (n, m, e) := addFin rm na ma ea nb mb eb
    f.round rm false n m e
  | .inf na, .inf nb => if na = nb then (f.inf na, 0) else (f.nan, fINV)
  | .inf na, .fin _ _ _ => (f.inf na, 0)
  | .fin _ _ _, .inf nb => (f.inf nb, 0)
  | a, b => (f.nan, snanFlag [a, b])

/-- The exact product; none if it is invalid (0 × ∞) or a NaN. -/
def mulVal (a b : FVal) : Option FVal :=
  match a, b with
  | .fin na ma ea, .fin nb mb eb => some (.fin (na != nb) (ma * mb) (ea + eb))
  | .inf na, .inf nb => some (.inf (na != nb))
  | .inf na, .fin nb mb _ => if mb = 0 then none else some (.inf (na != nb))
  | .fin na ma _, .inf nb => if ma = 0 then none else some (.inf (na != nb))
  | _, _ => none

def Fmt.ofVal (f : Fmt) (rm : Nat) (v : FVal) : FRes :=
  match v with
  | .fin n m e => f.round rm false n m e
  | .inf n => (f.inf n, 0)
  | .nan _ => (f.nan, 0)

/-- a × b (R117). -/
def Fmt.mul (f : Fmt) (rm : Nat) (a b : FVal) : FRes :=
  if a.isNan || b.isNan then (f.nan, snanFlag [a, b])
  else
    match mulVal a b with
    | some v => f.ofVal rm v
    | none => (f.nan, fINV)

/-- a / b (R117). -/
def Fmt.div (f : Fmt) (rm : Nat) (a b : FVal) : FRes :=
  match a, b with
  | .fin na ma ea, .fin nb mb eb =>
    if mb = 0 then (if ma = 0 then (f.nan, fINV) else (f.inf (na != nb), fDVZ))
    else if ma = 0 then (f.signBit (na != nb), 0)
    else
      let k := f.prec + 3 + bitLen mb - bitLen ma
      let n := ma * 2 ^ k
      let (m, e) := stick (n / mb) (ea - eb - k) (n % mb != 0)
      f.round rm false (na != nb) m e
  | .inf na, .fin nb _ _ => (f.inf (na != nb), 0)
  | .fin na _ _, .inf nb => (f.signBit (na != nb), 0)
  | .inf _, .inf _ => (f.nan, fINV)
  | a, b => (f.nan, snanFlag [a, b])

/-- The integer square root, one bit of the result for each of the `n` steps: `r` so far, bit `2 ^ (n - 1)` next. -/
def isqrtBits (v : Nat) : Nat → Nat → Nat
  | 0, r => r
  | n + 1, r =>
    let r' := r + 2 ^ n
    isqrtBits v n (if r' * r' ≤ v then r' else r)

/-- √a (R117). -/
def Fmt.sqrt (f : Fmt) (rm : Nat) (a : FVal) : FRes :=
  match a with
  | .nan s => (f.nan, if s then fINV else 0)
  | .inf n => if n then (f.nan, fINV) else (f.inf false, 0)
  | .fin n m e =>
    if m = 0 then (f.signBit n, 0)
    else if n then (f.nan, fINV)
    else
      let k0 := 2 * f.prec + 6 - bitLen m
      let k := if (e - k0) % 2 = 0 then k0 else k0 + 1
      let v := m * 2 ^ k
      let r := isqrtBits v (bitLen v / 2 + 1) 0
      let (m', e') := stick r ((e - k) / 2) (r * r != v)
      f.round rm false false m' e'

/-- a × b + c, rounded once (R118); a product of ∞ and 0 is invalid even with a quiet NaN addend. -/
def Fmt.fma (f : Fmt) (rm : Nat) (a b c : FVal) : FRes :=
  if a.isNan || b.isNan then (f.nan, snanFlag [a, b, c])
  else
    match mulVal a b with
    | none => (f.nan, fINV)
    | some p => if c.isNan then (f.nan, snanFlag [c]) else f.add rm p c

/-- a < b and a = b for values that are not NaN; −0 equals +0. -/
def FVal.lt (a b : FVal) : Bool :=
  match a, b with
  | .fin na ma ea, .fin nb mb eb =>
    let q := min ea eb
    decide (FVal.toInt q (.fin na ma ea) < FVal.toInt q (.fin nb mb eb))
  | .inf na, .inf nb => na && !nb
  | .inf na, _ => na
  | _, .inf nb => !nb
  | _, _ => false
def FVal.eq (a b : FVal) : Bool :=
  match a, b with
  | .fin na ma ea, .fin nb mb eb =>
    let q := min ea eb
    decide (FVal.toInt q (.fin na ma ea) = FVal.toInt q (.fin nb mb eb))
  | .inf na, .inf nb => na == nb
  | _, _ => false
def FVal.sign : FVal → Bool
  | .nan _ => false
  | .inf n => n
  | .fin n _ _ => n

/-- The smaller (or larger) source, with −0 below +0 (R119). -/
def Fmt.minMax (f : Fmt) (max : Bool) (va vb : Nat) : FRes :=
  let a := f.decode va
  let b := f.decode vb
  let fl := snanFlag [a, b]
  if a.isNan && b.isNan then (f.nan, fl)
  else if a.isNan then (vb, fl)
  else if b.isNan then (va, fl)
  else
    let less := a.lt b || (a.eq b && a.sign && !b.sign)
    (if less != max then va else vb, fl)

/-! ### Conversions (R107, R108) -/

/-- Converts a value to a floating-point format (R108).  DEDUCED: an infinity or a NaN that raises INV raises no INX (log 107). -/
def Fmt.convert (f : Fmt) (rm : Nat) (sat : Bool) (v : FVal) : FRes :=
  match v with
  | .nan s => (f.nan, if s || decide (f.top = .finite) then fINV else 0)
  | .inf n =>
    match f.top with
    | .ieee => if sat then (f.largest n, fINX) else (f.inf n, 0)
    | .e4m3 => (if sat then f.largest n else 0x7F, fINV)
    | .finite => (f.largest n, fINV)
  | .fin n m e => f.round rm sat n m e

/-- A value rounded to an integer in a mode, and whether that is exact. -/
def roundInt (rm : Nat) (n : Bool) (m : Nat) (e : Int) : Int × Bool :=
  let (k, exact) := roundAt rm n m e 0
  (if n then -(k : Int) else k, exact)

/-- Converts a value to an integer range: saturates, NaN gives 0, both raising INV (R107, R108). -/
def toIntRange (rm : Nat) (lo hi : Int) (v : FVal) : Int × Nat :=
  match v with
  | .nan _ => (0, fINV)
  | .inf n => (if n then lo else hi, fINV)
  | .fin n m e =>
    let (k, exact) := roundInt rm n m e
    if k < lo then (lo, fINV) else if hi < k then (hi, fINV) else (k, if exact then 0 else fINX)

/-- Rounds an integer into a format. -/
def Fmt.ofInt (f : Fmt) (rm : Nat) (sat : Bool) (k : Int) : FRes := f.round rm sat (decide (k < 0)) k.natAbs 0

/-- R122. -/
def Fmt.classify (f : Fmt) (v : Nat) : Nat :=
  let neg := v / 2 ^ (f.eb + f.mb) % 2
  let c :=
    match f.decode v with
    | .nan s => if s then 5 else 4
    | .inf _ => 3
    | .fin _ m _ => if m = 0 then 0 else if m < 2 ^ f.mb then 1 else 2
  c + 8 * neg

end Sys2Proof.Machine
end

