-- ==== Sys2Proof/Machine/Flags.lean ====
section
/-!
DEFINITION. FCSR: rounding modes, exception flags and their traps (R43, R114 to R116).
-/

namespace Sys2Proof.Machine

/-- FCSR.RM. -/
def Thread.frm (t : Thread) : Nat := (t.fcsr.extractLsb' 13 3).toNat

/-- The mode that an rm field names, as 0 to 4; none if FCSR.RM names no mode (R43, R115). -/
def Thread.mode (t : Thread) (r : BitVec 3) : Option Nat :=
  if r.toNat < 5 then some r.toNat else if t.frm < 5 then some t.frm else none

/-- Cause 0x05 with EINFO 2: FCSR.RM names no mode (R115). -/
def badRm (bits : Word) (s : State) : Out := .next (raise 0x05 bits 2#64 s)

/-- ORs flags into FCSR; FDIRTY when there are any (R18, R114). -/
def Thread.flags (t : Thread) (fl : Nat) : Thread :=
  if fl = 0 then t else { t with fcsr := t.fcsr ||| BitVec.ofNat 64 fl }.dirty fdirtyBit

/-- A flag whose enable is set (R116). -/
def Thread.trapsOn (t : Thread) (fl : Nat) : Bool := ((t.fcsr >>> 7) &&& BitVec.ofNat 64 fl &&& 31#64) != 0#64

/-- The end of a floating-point instruction that raised `fl`: trap 0x11 with no destination written, or the write and
completion (R114, R116). -/
def fpFinish (len : Nat) (fl : Nat) (s : State) (f : Thread → Thread) : Out :=
  let t := s.th.flags fl
  if t.trapsOn fl then .next (s.setTh (t.trap 0x11 false t.pc 0#64 (BitVec.ofNat 64 fl)))
  else .next (s.setTh ((f t).complete len))

end Sys2Proof.Machine
end

