-- ==== Sys2Proof/Machine/ScalarFp.lean ====
section
/-!
DEFINITION. Scalar floating point (R113 to R124).
-/

namespace Sys2Proof.Machine

/-- The format of an sf field (R51): 0 FP64, 1 FP32, 2 FP16, 3 BF16. -/
def sfFmt (sf : BitVec 2) : Fmt := fmtOf sf.toNat
/-- Its width in bytes. -/
def sfBytes (sf : BitVec 2) : Nat := (sfFmt sf).width / 8

/-- An f register read at sf width (R113). -/
def Thread.rfs (t : Thread) (sf : BitVec 2) (r : Reg) : Nat := (t.rf r).toNat % 2 ^ (sfFmt sf).width
def Thread.rfv (t : Thread) (sf : BitVec 2) (r : Reg) : FVal := (sfFmt sf).decode (t.rfs sf r)
/-- A result written sign-filled (R113). -/
def Thread.wfs (t : Thread) (sf : BitVec 2) (r : Reg) (v : Nat) : Thread := t.wf r (signFill (sfBytes sf) v)

/-- An instruction with an rm field: its mode is resolved after decode (R43, R115). -/
def withMode (i : Instr) (r : BitVec 3) (s : State) (k : Nat → Out) : Out :=
  legal i s
    (needs 1#3 (encode i).bits s
      (match s.th.mode r with
       | some m => k m
       | none => badRm (encode i).bits s))

/-- fd := op(fs1, fs2), rounded (R117). -/
def fpArith (op : Fmt → Nat → FVal → FVal → FRes) (i : Instr) (sf : BitVec 2) (r : BitVec 3) (d a b : Reg) (s : State) : Out :=
  withMode i r s fun m =>
    let x := op (sfFmt sf) m (s.th.rfv sf a) (s.th.rfv sf b)
    fpFinish 4 x.2 s fun t => t.wfs sf d x.1

/-- R117. -/
def execFadd (z : BitVec 2) (r : BitVec 3) (d a b : Reg) (s : State) : Out := fpArith Fmt.add (.fadd z r d a b) z r d a b s
/-- R117. -/
def execFsub (z : BitVec 2) (r : BitVec 3) (d a b : Reg) (s : State) : Out :=
  fpArith (fun f m x y => f.add m x y.neg) (.fsub z r d a b) z r d a b s
/-- R117. -/
def execFmul (z : BitVec 2) (r : BitVec 3) (d a b : Reg) (s : State) : Out := fpArith Fmt.mul (.fmul z r d a b) z r d a b s
/-- R117. -/
def execFdiv (z : BitVec 2) (r : BitVec 3) (d a b : Reg) (s : State) : Out := fpArith Fmt.div (.fdiv z r d a b) z r d a b s
/-- R117. -/
def execFsqrt (z : BitVec 2) (r : BitVec 3) (d a : Reg) (s : State) : Out :=
  fpArith (fun f m x _ => f.sqrt m x) (.fsqrt z r d a) z r d a a s

/-- R119. -/
def fpMinMax (max : Bool) (bits : Word) (sf : BitVec 2) (d a b : Reg) (s : State) : Out :=
  needs 1#3 bits s
    (let x := (sfFmt sf).minMax max (s.th.rfs sf a) (s.th.rfs sf b)
     fpFinish 4 x.2 s fun t => t.wfs sf d x.1)
/-- R119. -/
def execFmin (z : BitVec 2) (d a b : Reg) (s : State) : Out := fpMinMax false (encode (.fmin z d a b)).bits z d a b s
/-- R119. -/
def execFmax (z : BitVec 2) (d a b : Reg) (s : State) : Out := fpMinMax true (encode (.fmax z d a b)).bits z d a b s

/-- A sign operation: the magnitude of fs1 with the sign that `sign` gives (R120). -/
def fpSign (sign : Bool → Bool → Bool) (bits : Word) (sf : BitVec 2) (d a b : Reg) (s : State) : Out :=
  needs 1#3 bits s
    (finish 4 s fun t =>
      let h := 2 ^ ((sfFmt sf).width - 1)
      let x := t.rfs sf a
      let y := t.rfs sf b
      t.wfs sf d (x % h + (if sign (x / h == 1) (y / h == 1) then h else 0)))
/-- R120. -/
def execFcpsgn (z : BitVec 2) (d a b : Reg) (s : State) : Out := fpSign (fun _ y => y) (encode (.fcpsgn z d a b)).bits z d a b s
/-- R120. -/
def execFxsgn (z : BitVec 2) (d a b : Reg) (s : State) : Out := fpSign (fun x y => x != y) (encode (.fxsgn z d a b)).bits z d a b s
/-- R120. -/
def execFneg (z : BitVec 2) (d a : Reg) (s : State) : Out := fpSign (fun x _ => !x) (encode (.fneg z d a)).bits z d a a s
/-- R120. -/
def execFabs (z : BitVec 2) (d a : Reg) (s : State) : Out := fpSign (fun _ _ => false) (encode (.fabs z d a)).bits z d a a s
/-- R120: all 64 bits. -/
def execFmov (d a : Reg) (s : State) : Out :=
  needs 1#3 (encode (.fmov d a)).bits s (finish 4 s fun t => t.wf d (t.rf a))

/-- R118, R52: ±(fs1 × fs2) ± fs3, rounded once: by FCSR.RM, or to nearest even. -/
def fpFma (negP negC : Bool) (i : Instr) (sf : BitVec 2) (r : BitVec 1) (d a b c : Reg) (s : State) : Out :=
  withMode i (if r = 1#1 then 0#3 else 5#3) s fun m =>
    let x := s.th.rfv sf a
    let y := s.th.rfv sf c
    let v := (sfFmt sf).fma m (if negP then x.neg else x) (s.th.rfv sf b) (if negC then y.neg else y)
    fpFinish 4 v.2 s fun t => t.wfs sf d v.1
/-- R118. -/
def execFma (z : BitVec 2) (r : BitVec 1) (d a b c : Reg) (s : State) : Out := fpFma false false (.fma z r d a b c) z r d a b c s
/-- R118. -/
def execFms (z : BitVec 2) (r : BitVec 1) (d a b c : Reg) (s : State) : Out := fpFma false true (.fms z r d a b c) z r d a b c s
/-- R118. -/
def execFnma (z : BitVec 2) (r : BitVec 1) (d a b c : Reg) (s : State) : Out := fpFma true true (.fnma z r d a b c) z r d a b c s
/-- R118. -/
def execFnms (z : BitVec 2) (r : BitVec 1) (d a b c : Reg) (s : State) : Out := fpFma true false (.fnms z r d a b c) z r d a b c s

/-- A comparison writes 1 or 0 to xd; any NaN gives 0 (R121). -/
def fpCompare (quiet : Bool) (rel : FVal → FVal → Bool) (bits : Word) (sf : BitVec 2) (d a b : Reg) (s : State) : Out :=
  needs 1#3 bits s
    (let x := s.th.rfv sf a
     let y := s.th.rfv sf b
     let nan := x.isNan || y.isNan
     let fl := if quiet then snanFlag [x, y] else if nan then fINV else 0
     fpFinish 4 fl s fun t => t.wx d (bool64 (!nan && rel x y)))
/-- R121. -/
def execFeq (z : BitVec 2) (d a b : Reg) (s : State) : Out := fpCompare true FVal.eq (encode (.feq z d a b)).bits z d a b s
/-- R121. -/
def execFlt (z : BitVec 2) (d a b : Reg) (s : State) : Out := fpCompare false FVal.lt (encode (.flt z d a b)).bits z d a b s
/-- R121. -/
def execFle (z : BitVec 2) (d a b : Reg) (s : State) : Out :=
  fpCompare false (fun x y => x.lt y || x.eq y) (encode (.fle z d a b)).bits z d a b s

/-- R122. -/
def execFclass (z : BitVec 2) (d a : Reg) (s : State) : Out :=
  needs 1#3 (encode (.fclass z d a)).bits s
    (finish 4 s fun t => t.wx d (BitVec.ofNat 64 ((sfFmt z).classify (t.rfs z a))))

/-- R123: FP to FP, sat = 0. -/
def execFcvtFf (z : BitVec 2) (r : BitVec 3) (u : BitVec 2) (d a : Reg) (s : State) : Out :=
  withMode (.fcvtFf z r u d a) r s fun m =>
    let v := (sfFmt z).convert m false (s.th.rfv u a)
    fpFinish 4 v.2 s fun t => t.wfs z d v.1

/-- An integer source or destination: `n` 1 natural, `g` 1 64-bit (R51). -/
def intOf (n g : BitVec 1) (v : Word) : Int :=
  if g = 1#1 then (if n = 1#1 then (v.toNat : Int) else v.toInt)
  else (if n = 1#1 then ((low32 v).toNat : Int) else (low32 v).toInt)
def intLo (n g : BitVec 1) : Int := if n = 1#1 then 0 else if g = 1#1 then -2 ^ 63 else -2 ^ 31
def intHi (n g : BitVec 1) : Int :=
  if g = 1#1 then (if n = 1#1 then 2 ^ 64 - 1 else 2 ^ 63 - 1) else (if n = 1#1 then 2 ^ 32 - 1 else 2 ^ 31 - 1)

/-- R123: integer to FP. -/
def execFcvtFInt (z : BitVec 2) (r : BitVec 3) (n g : BitVec 1) (d a : Reg) (s : State) : Out :=
  withMode (.fcvtFInt z r n g d a) r s fun m =>
    let v := (sfFmt z).ofInt m false (intOf n g (s.th.rx a))
    fpFinish 4 v.2 s fun t => t.wfs z d v.1

/-- R123: FP to integer; .i32 results are sign-extended, .n32 zero-extended. -/
def execFcvtIntF (z : BitVec 2) (r : BitVec 3) (n g : BitVec 1) (d a : Reg) (s : State) : Out :=
  withMode (.fcvtIntF z r n g d a) r s fun m =>
    let v := toIntRange m (intLo n g) (intHi n g) (s.th.rfv z a)
    let w : Word := BitVec.ofInt 64 v.1
    fpFinish 4 v.2 s fun t => t.wx d w

/-- R124. -/
def execFmvx (z : BitVec 2) (d a : Reg) (s : State) : Out :=
  needs 1#3 (encode (.fmvx z d a)).bits s (finish 4 s fun t => t.wx d (signFill (sfBytes z) (t.rfs z a)))
/-- R124. -/
def execFmvf (z : BitVec 2) (d a : Reg) (s : State) : Out :=
  needs 1#3 (encode (.fmvf z d a)).bits s
    (finish 4 s fun t => t.wfs z d ((t.rx a).toNat % 2 ^ (sfFmt z).width))

end Sys2Proof.Machine
end

