-- ==== Sys2Proof/Machine/Reduce.lean ====
section
/-!
DEFINITION. Reduce-add and the combining node (R135, R245, R246, R292).
-/

namespace Sys2Proof.Machine

/-- The sum of two addends, or of memory and an addend: modulo 2^(8n), or rounded to nearest even (R135). -/
def raddSum (fp : Bool) (n a b : Nat) : Nat :=
  if fp then
    let f := if n = 4 then fp32 else fp64
    (f.add 0 (f.decode a) (f.decode b)).1
  else (a + b) % 2 ^ (8 * n)

/-- The entry of the cluster's combining node that a RADD merges with: same address, width, kind, pair and colour; pairs
only (R292, R359).  The merged packet stands where the first stood, so a thread that has since sent another write to the line
does not merge (R245, R246).  DESIGN CHOICE: their privilege may differ (log 108). -/
def State.raddPartner (s : State) (fp : Bool) (va : Word) (n : Nat) : Option Packet :=
  s.packets.find? (fun q => decide (q.stage = .combining) && decide (q.kind = .radd fp) && q.va == va && q.n == n &&
    decide (q.tag = s.th.tag) && q.joined.isEmpty && clusterOf q.src == s.myCluster && q.colour == s.colour s.th &&
    !(s.mine.any fun p => decide (q.id < p.id) && p.pending && p.kind.posted && lineVa p.va == lineVa va))

/-- The RADD enters the node, merged if it can be; with no space it leaves at once. -/
def State.sendRadd (s : State) (fp : Bool) (va : Word) (n v : Nat) (counted : Nat) (pa mt : Nat) : State :=
  match s.raddPartner fp va n with
  | some q =>
    s.setPacket { q with
      data := BitVec.ofNat 512 (raddSum fp n (lineGet q.data 0 n) v), joined := [s.cur], counted := q.counted + counted }
  | none =>
    s.sendNode { Packet.blank with kind := .radd fp, va := va, n := n, data := BitVec.ofNat 512 v, counted := counted, pa := pa, mt := mt }

/-- R135: posted; retires once its checks pass, and then the cluster's RDC copy of the line is dropped (R252).  One of the own
layer, and one through a DIE 8 page on the layer's memory, does not count in ors. -/
def radd (fp : Bool) (w : BitVec 1) (va : Word) (v : Nat) (s : State) : Out :=
  let n := widthN w
  ((s.checkPosted .amo 0 va n n 0x0C 0x0B).bind fun tg s =>
    let send (s : State) (counted pa mt : Nat) : Res Unit :=
      let s := (s.rdcDrop s.myCluster s.th.tag (lineVa va)).sendRadd fp va n v counted pa mt
      .ok () (s.setTh ((({ s.th with ors := s.th.ors + counted }.sign va).irrev.foldStore va n v).complete 4))
    match tg with
    | .mem key mt => send s 0 (paOfKey key) mt
    | .rope _ => .stop (memTrap 0x0C .amo 0 va s)
    | .bd pa mt => if 256 ≤ s.th.ors then .stop s.await else send s 1 pa mt
    | .away =>
      if 256 ≤ s.th.ors then .stop s.await
      else send s 1 0 0).out

/-- R135. -/
def execRadd (w : BitVec 1) (a b : Reg) (s : State) : Out :=
  radd false w (s.th.rx a) ((s.th.rx b).toNat % 2 ^ (8 * widthN w)) s

/-- R135: needs FEN; f[rs2] is read per R113. -/
def execRaddF (w : BitVec 1) (a b : Reg) (s : State) : Out :=
  needs 1#3 (encode (.raddF w a b)).bits s
    (radd true w (s.th.rx a) ((s.th.rf b).toNat % 2 ^ (8 * widthN w)) s)

end Sys2Proof.Machine
end

