-- ==== Sys2Proof/Machine/EventsMemory.lean ====
section
/-!
DEFINITION. Events of requests away from a core: their arrival at the home, what is done there, and the responses
(R128, R135, R176, R252, R262 to R270, R273, R292, R326, R333, R334, R353, R385, R389, R398, R400).
-/

namespace Sys2Proof.Machine

/-! ### Kinds of requests -/

/-- The access that a request is (R125). -/
def PktKind.access : PktKind → AKind
  | .load | .waitne => .load
  | .hint w => if w = 2#2 then .store else .load
  | .pref k => if k = 1 then .store else .load
  | .fetch => .fetch
  | .store | .line | .sigclr | .put => .store
  | .probe k => k
  | .amo _ | .cas | .radd _ => .amo
  | .acq => .acq
  | .rel => .rel

/-- The address and kind under which the instruction that asked looks for its answer. -/
def Packet.key (p : Packet) : Nat × AKind :=
  match p.kind with
  | .load => (if dieOf p.va = 8 then p.va.toNat else readKey p.va p.align, .load)
  | .fetch => (lineVa p.va, .fetch)
  | k => (p.va.toNat, match k with | .waitne => .load | k => k.access)

/-- The HS that a response comes from. -/
def Packet.fromHs (p : Packet) : Nat :=
  match p.stage with
  | .denied _ | .failed _ _ | .turned => tsOf p.va
  | _ => hsOf p.pa

/-! ### The mesh (R271, R272, R274) -/

/-- The router (16 × layer + cluster) that a request or a response is going to: the HS that translates it, the home HS of its
address, or the cluster it comes from. -/
def Packet.goal (p : Packet) : Nat :=
  let home := homeOf (layerOf p.src) p.va
  match p.stage with
  | .toHome | .held _ => 16 * home + tsOf p.va
  | .atHome pa => 16 * home + hsOf pa
  | _ => clusterOf p.src

/-- It travels on a layer's mesh: DIE 8 and 9 have the riser, and the rest the Rope while `wire` is set. -/
def Packet.onMesh (p : Packet) : Bool :=
  !p.wire && dieOf p.va != 8 && dieOf p.va != 9 &&
    (match p.stage with | .toHome | .atHome _ | .done | .denied _ | .failed _ _ | .turned => p.pos != p.goal | _ => false)

/-- The virtual channel: request, response or posted (R271). -/
def Packet.channel (p : Packet) : Nat := if p.kind.posted then 2 else if p.answered then 1 else 0

/-- A port of a router, by the way it leads: the clusters of a layer stand in rows of four. -/
inductive Port where
  | north | south | east | west
deriving DecidableEq, Repr

/-- The router behind a port. -/
def Port.next (p : Port) (r : Nat) : Nat :=
  match p with
  | .north => r - 4
  | .south => r + 4
  | .east => r + 1
  | .west => r - 1

/-- The candidate ports at router `cur` of a packet that entered at `src` and goes to `dst`, clusters 0 to 15 (R272). -/
def candidates (src cur dst : Nat) : List Port :=
  let vertical : List Port := if dst / 4 < cur / 4 then [.north] else if cur / 4 < dst / 4 then [.south] else []
  if dst % 4 = cur % 4 then vertical
  else if cur % 4 < dst % 4 then
    if vertical.isEmpty then [.east]
    else
      (if cur % 4 % 2 = 1 ∨ cur = src then vertical else []) ++ (if dst % 4 % 2 = 1 ∨ dst % 4 - cur % 4 ≠ 1 then [.east] else [])
  else [.west] ++ (if cur % 4 % 2 = 0 then vertical else [])

def State.isGated (s : State) (r : Nat) : Bool := (s.cluster r).gated

/-- Packets of a channel that stand at a router; a gated one's buffers count as empty. -/
def State.crowd (s : State) (r ch : Nat) : Nat :=
  if s.isGated r then 0 else (s.packets.filter fun p => p.onMesh && p.pos == r && p.channel == ch).length

/-- The candidate with the most free slots behind it; E or W on a tie (R272). -/
def State.bestPort (s : State) (r ch : Nat) : List Port → Option Port
  | [] => none
  | p :: rest =>
    match s.bestPort r ch rest with
    | none => some p
    | some q =>
      let a := s.crowd (p.next r) ch
      let b := s.crowd (q.next r) ch
      if a < b then some p
      else if b < a then some q
      else if p = .east ∨ p = .west then some p else some q

/-- The router that a packet goes to next: over the pair bridge to the same place of the partner layer, or a neighbour. -/
def State.nextRouter (s : State) (p : Packet) : Nat :=
  if p.pos / 16 ≠ p.goal / 16 then 16 * (p.goal / 16) + p.pos % 16
  else
    match s.bestPort p.pos p.channel (candidates (p.entry % 16) (p.pos % 16) (p.goal % 16)) with
    | some q => q.next p.pos
    | none => p.goal

/-- The pair bridge between two routers is disabled: a layer of the pair is fenced (R353). -/
def State.noBridge (s : State) (a b : Nat) : Bool := a / 16 != b / 16 && (s.isFenced (a / 16) || s.isFenced (b / 16))

/-- One hop; a gated router on either side keeps the packet where it is (R274), and so does a bridge that is disabled. -/
def State.hop (s : State) (p : Packet) : State :=
  let n := s.nextRouter p
  if s.isGated p.pos || s.isGated n || s.noBridge p.pos n then s
  else s.setPacket { p with pos := n, entry := if n / 16 = p.pos / 16 then p.entry else n }

/-- A packet stands at a router, or at a neighbour that routes it there, or the node of its cluster port has one for it: it raises the wake
signal of a gated one (R274). -/
def State.wakeSignal (s : State) (r : Nat) : Bool :=
  s.packets.any fun p =>
    (p.onMesh && (p.pos == r || s.nextRouter p == r)) || (decide (p.stage = .combining) && clusterOf p.src == r) ||
      (p.pos == r && !p.wire && decide (dieOf p.va < 8) && (p.answered || (match p.stage with | .toHome | .atHome _ => true | _ => false)))

/-- A packet that the mesh has brought where it goes: no router and no slot of the Rope keeps it (R272, R274). -/
def State.reached (s : State) (p : Packet) : Bool := !p.wire && !p.onMesh && !(decide (dieOf p.va < 8) && s.isGated p.pos)

/-! ### Answers -/

/-- The request leaves the machine. -/
def State.finishPacket (s : State) (p : Packet) : State := (s.dropPacket p.id).consumePacket p

/-- A dropped packet is counted in the layer of the agent that drops it, and counts as received there (R338). -/
def State.dropCounted (s : State) (p : Packet) (layer cls : Nat) : State := ((s.countDrop layer cls).dropPacket p.id).consume layer p.colour

/-- A request of the oldest instruction is over: a thread that had parked for it goes on. -/
def Thread.unask (t : Thread) (id : Nat) : Thread :=
  { t with
    reqs := t.reqs.filter (· != id), parked := (match t.parked with | some (.group _ _) => none | k => k)
    answers := t.answers.filter fun a => a.held.isNone }

/-- Hands an answer to a hardware thread that still waits for it; a line read shows the thread's own later writes (R128). -/
def State.answerTo (s : State) (q : Nat) (p : Packet) (cause : Nat) (einfo : Word) (poison : BitVec 4) (data : BitVec 1024) : State :=
  let t := s.thread q
  let line := p.kind = .load ∧ dieOf p.va ≠ 8
  let data := if line then (s.ownOver q (lineVa p.va) (data.setWidth 512)).setWidth 1024 else data
  let poison := if line then poison &&& ~~~ s.ownCures q (lineVa p.va) else poison
  if t.reqs.contains p.id then
    let t := t.unask p.id
    s.setThread q { t with answers := t.answers ++ [⟨p.id, p.key.1, p.key.2, cause, einfo, poison, data, p.mt, none⟩] }
  else s

/-- A reader that the response cannot serve asks again by itself. -/
def State.askAgain (s : State) (q : Nat) (p : Packet) : State :=
  let t := s.thread q
  if t.reqs.contains p.id then s.setThread q (t.unask p.id) else s

/-- The response serves a joined reader: a device page is read for one access only (R253), and a line of a privileged page for
supervisor-level readers (R125, R262). -/
def Packet.suits (p : Packet) (t : Thread) : Bool := p.mt != 3 && (t.sv || !p.sup || (decide (dieOf p.va < 8) && !p.priv))

/-- EINFO of a cause found away from the core: REM but for the BD (R298). -/
def State.remInfo (s : State) (p : Packet) (pin : Bool) : Word :=
  memInfo (decide (p.kind = .fetch) && p.va != (s.thread p.src).pc) pin false (dieOf p.va != 8) p.kind.access p.unit 0

/-- Requests of the cluster under the same pair. -/
def State.kin (s : State) (p : Packet) : List Packet := s.packets.filter fun q => clusterOf q.src == clusterOf p.src && decide (q.tag = p.tag)

/-- An atomic, a RADD or a release of the cluster on the line is under way: what was read before it must not stay (R231). -/
def State.changing (s : State) (cl va : Nat) : Bool :=
  s.packets.any fun q => q.pending && clusterOf q.src == cl &&
    (match q.kind with
     | .amo _ | .cas | .radd _ | .put => lineVa q.va == va
     | .rel => lineVa q.va == va || lineVa q.va + 64 == va
     | _ => false)

/-- The cores whose L1D a line fills with the RDC: those that load it themselves, not through the tile engine or by a prefetch into
the RDC; a PHINT or a PREF that names the L1D fills that of its core (R46, R131). -/
def Packet.l1ds (p : Packet) : BitVec 8 :=
  if (p.kind = .load ∧ p.unit < 2) ∨ p.kind = .hint 1 ∨ p.kind = .hint 2 ∨ p.kind = .pref 0 ∨ p.kind = .pref 1 then
    (p.src :: p.joined).foldl (fun m q => m ||| (1#8 <<< (coreOf q % 8))) 0#8
  else 0#8

/-- Only copies read it: the line goes to the copy engine. -/
def Packet.onlyCopies (p : Packet) : Bool := p.unit == 3 && p.joined.isEmpty

/-- A released object on its way back takes in a line that its cluster has filled meanwhile from a read performed after the release. -/
def Packet.learns (q : Packet) (line : Nat) (data : Line) (poison : BitVec 4) : Packet :=
  if lineVa q.va = line then { q with reply := q.reply.extractLsb' 512 512 ++ data, poison := poison }
  else if lineVa q.va + 64 = line then { q with reply := data ++ (q.reply.setWidth 512), poison2 := poison }
  else q

/-- R252: a line that came back fills the RDC, unless its page is uncached or a device's (R253), or a drop has come after the
read.  Releases that the homes performed before that read, which stand before it, do not take the line back (R231). -/
def State.fillRdc (s : State) (p : Packet) (data : Line) : State :=
  if p.kind.fills && !p.onlyCopies && dieOf p.va != 8 && decide (p.mt < 2) && !p.noFill && !s.changing (clusterOf p.src) (lineVa p.va) then
    let earlier := ((s.packets.takeWhile fun q => q.id != p.id).filter fun q =>
      decide (q.kind = .rel) && decide (q.stage = .done) && clusterOf q.src == clusterOf p.src && decide (q.tag = p.tag)).map (·.id)
    let s : State := if earlier.isEmpty then s else
      { s with packets := s.packets.map fun q => if earlier.contains q.id then q.learns (lineVa p.va) data p.poison else q }
    s.rdcFill ⟨clusterOf p.src, lineVa p.va, p.tag, p.sup, p.poison &&& ~~~ overlayCures (s.kin p) (lineVa p.va),
      overlay (s.kin p) (lineVa p.va) data, p.l1ds⟩
  else s

/-- DEDUCED: a release at another home is a write of the thread, so RDC lines of the object that are present under its tag hold the
object as released, with its poison and with the writes of the cluster that have not been performed yet (R128, R139, R231, R344). -/
def State.rdcObject (s : State) (p : Packet) (o : BitVec 1024) : State :=
  let put (s : State) (line : Nat) (d : Line) (bad : BitVec 4) : State :=
    { s with rdc := s.rdc.map fun l =>
        if l.isAt (clusterOf p.src) line p.tag then
          { l with data := overlay (s.kin p) line d, poison := bad &&& ~~~ overlayCures (s.kin p) line } else l }
  put (put s (lineVa p.va) (o.setWidth 512) p.poison) (lineVa p.va + 64) (o.extractLsb' 512 512) p.poison2

/-- What comes back for the copies that a read carries: a line or a cause.  One that the page's level does not suit asks again. -/
def State.toCopies (s : State) (p : Packet) (cause : Nat) (data : Line) : State :=
  if p.copies.isEmpty then s
  else
    { s with copies := s.copies.map fun c =>
        if p.copies.contains c.id && !(p.look && p.mt == 3) && (c.sup || !p.sup || (decide (dieOf p.va < 8) && !p.priv)) && !(cause == 0x0D && c.sup && !p.sup) then
          { c with reads := c.reads ++ [⟨lineVa p.va, cause, p.poison != 0, data⟩] }
        else c }

/-- The response reaches its readers: each that still waits gets it; a departed reader's share is dropped (R398). -/
def State.deliver (s : State) (p : Packet) (data : BitVec 1024) : State :=
  let s := if p.kind = .rel then s.rdcObject p data else s.fillRdc p (data.setWidth 512)
  let s := s.toCopies p 0 (data.setWidth 512)
  let s := p.joined.foldl
    (fun s q => if p.suits (s.thread q) then s.answerTo q p 0 0#64 p.poison data else s.askAgain q p)
    (s.answerTo p.src p 0 0#64 (if p.kind = .rel then 0#4 else p.poison) data)
  s.finishPacket p

/-- A cause comes back to every reader; what a user-level request is denied for its level, a supervisor-level reader asks itself. -/
def State.deliverCause (s : State) (p : Packet) (cause : Nat) (pin : Bool) : State :=
  let s := (p.src :: p.joined).foldl (init := s.toCopies p cause 0)
    (fun s q => if cause = 0x0D ∧ (s.thread q).sv ∧ !p.sup then s.askAgain q p else s.answerTo q p cause (s.remInfo p pin) 0 0)
  s.finishPacket p

/-- The response leaves the home by the route of its request (R322), last of those on their way; through the BD it comes to its
cluster by the risers. -/
def State.respond (s : State) (p : Packet) : State :=
  let home := homeOf (layerOf p.src) p.va
  let s := (s.dropPacket p.id).consume p.agent p.colour
  let r := if p.path = .bd then clusterOf p.src else 16 * home + p.fromHs
  let s := { s with packets := s.packets ++ [{ p with wire := p.path == Path.rope, pos := r, entry := r }] }.inject p.agent p.colour
  if p.path = .rope then s.enqueue home 2 { Item.blank with op := .response p.id, id := p.id, src := 256 * home, tag := p.tag } else s

/-- A response that only turns the request back: it is sent again after 1,024 cc (R268, R270). -/
def State.turnBack (s : State) (p : Packet) : State := s.respond { p with stage := .turned, boxed := false }

/-- The home refuses: precisely for a request that waits, else as a denial (R128, R262); a hint is dropped (R46). -/
def State.refuse (s : State) (p : Packet) (cause : Nat) (pin : Bool) : State :=
  if p.kind.isHint then s.finishPacket p
  else if p.kind.posted then
    let c := if pin then 0x0A else if cause = 0x0D then 0x0D else 0x0B
    s.respond { p with stage := .denied c }
  else s.respond { p with stage := .failed cause pin }

/-- The entry of a request to another package is freed by its timeout. -/
def State.noteTimeout (s : State) (p : Packet) : State :=
  if dieOf p.va = 9 then { s with timedOut := s.timedOut ++ [(p.id, layerOf p.src)] } else s

/-- The request's destination is lost (R353 step 3, R389): poisoned data for what reads, a denial for a posted write, and the cause
of that denial for a write that its instruction waits for. -/
def State.lose (s : State) (p : Packet) : State :=
  if p.orphan then s.finishPacket p
  else
  match p.kind with
  | .store | .line | .sigclr | .radd _ =>
    s.setPacket { p with stage := .denied 0x0B, wire := false, pos := clusterOf p.src, entry := clusterOf p.src }
  | .rel | .put | .probe _ => s.deliverCause p 0x0B false
  | .hint _ => s.finishPacket p
  | _ =>
    let (bs, s) := s.freeBytes 128
    s.deliver { p with poison := 15#4, noFill := true } (BitVec.ofNat 1024 (valOf bs))

/-! ### At the home -/

/-- The record that FQPOP sent has been performed at its home, and leaves the queue of its thread's layer (R222). -/
def State.popAtHome (s : State) (p : Packet) : State :=
  if p.kind = .put ∧ !(s.thread p.src).popsCopies then s.popRecord (layerOf p.src) p.data else s

/-- The checks alone are asked for: of a device page, whose elements are read one by one (R164, R174), or by a PREF of a page that no L1D
holds (R253). -/
def Packet.unread (p : Packet) (mt : Nat) : Bool := (p.look && mt == 3) || (p.kind.isPref && decide (2 ≤ mt))

/-- Performs a request that waits: what it reads, and the write of an AMO, a CAS or a release (R132 to R134, R138 to R140). -/
def State.performWaiting (s : State) (p : Packet) (key mt : Nat) : State :=
  let lv : Level := if mt = 3 then .mem else .hs
  let line := key / 64 * 64
  let word (n : Nat) : BitVec 1024 := BitVec.ofNat 1024 (s.peekNat key n)
  let reply (s : State) (d : BitVec 1024) (bad : BitVec 4) : State := s.respond { p with stage := .done, reply := d, poison := bad, mt := mt, pa := paOfKey key }
  let bad (n : Nat) : BitVec 4 := if s.isPoisoned key n then 15#4 else 0#4
  match p.kind with
  | .load | .hint _ | .pref _ =>
    if p.unread mt then reply s 0 0#4 else reply s (BitVec.ofNat 1024 (s.peekNat line 64)) (s.linePoison key)
  | .fetch => reply s ((s.hsLine line).setWidth 1024) (s.hsLinePoison line)
  | .waitne => reply s (word p.n) (bad p.n)
  | .acq => reply s (word p.n) (bad p.n)
  | .rel =>
    let o := releaseObj (s.peekObj key) p.data2 p.n (lineGet p.data 0 p.n)
    let s := s.pokeObj lv p.colour key o
    s.respond { p with
      stage := .done, reply := o, poison := s.linePoison key, poison2 := s.linePoison (key + 64), mt := mt, pa := paOfKey key }
  | .put => reply ((s.store lv p.colour key (bytesOf 64 p.data.toNat)).popAtHome p) 0 0#4
  | .amo op =>
    if s.isPoisoned key p.n then reply s 0 15#4
    else
      let old := s.peekNat key p.n
      reply (s.store lv p.colour key (bytesOf p.n (amoOp op p.n old (lineGet p.data 0 p.n)))) (word p.n) 0#4
  | .cas =>
    if s.isPoisoned key p.n then reply s 0 15#4
    else
      let old := s.peekNat key p.n
      reply (if old = lineGet p.data2 0 p.n then s.store lv p.colour key (bytesOf p.n (lineGet p.data 0 p.n)) else s) (word p.n) 0#4
  | _ => reply s 0 0#4

/-- The threads that wait learn that their request is held for a group of the home; each parks as for a local fault when its
instruction meets the word (R266). -/
def State.parkWaiting (s : State) (p : Packet) (layer g cause : Nat) : State :=
  (p.src :: p.joined).foldl (fun s q =>
    let t := s.thread q
    if t.reqs.contains p.id then
      s.setThread q { t with
        sent := false, answers := t.answers ++ [⟨p.id, p.key.1, p.key.2, cause, s.remInfo p false, 0, 0, 0, some (layer, g)⟩] }
    else s) s

/-- Requests that an HS holds for REPLAY (R270). -/
def State.heldAt (s : State) (layer hs : Nat) : Nat :=
  (s.packets.filter fun q => (match q.stage with | .held _ => true | _ => false) && dieOf q.va == layer && tsOf q.va == hs).length

/-- Two requests act for one hardware thread. -/
def Packet.shares (p q : Packet) : Bool := (p.src :: p.joined).any fun t => q.src == t || q.joined.contains t

/-- An access to a device page waits for the thread's earlier writes that are or may be to device pages (R127, R232). -/
def State.deviceTurn (s : State) (p : Packet) : Bool := !(s.packets.any fun q => decide (q.id < p.id) && q.maybeDevice && q.shares p)

/-- Two writes go to one line: by address, or for RADDs on the own layer by where they lie. -/
def Packet.sameLine (p q : Packet) : Bool := lineVa q.va == lineVa p.va || (q.ownRadd && p.ownRadd && q.pa / 64 == p.pa / 64)

/-- No earlier write of its threads comes before a write: those to the line, an ACST's earlier rows, and for a device page those to
such pages (R232, R245, R248). -/
def State.ownTurn (s : State) (p : Packet) : Bool :=
  !(s.packets.any fun q => decide (q.id < p.id) && q.pending && q.kind.posted &&
    ((p.sameLine q && q.shares p) || (q.unit == 2 && p.unit == 2 && q.src == p.src))) &&
    (p.mt != 3 || s.deviceTurn p)

/-- The cause of a request whose context has no entry (R255). -/
def Packet.noCtx (p : Packet) : Nat := if p.kind = .probe .amo then 0x0B else noCtxCause p.kind.access

/-- A sync object or a release is asked for, which a device page does not take (R127). -/
def Packet.syncs (p : Packet) : Bool :=
  p.kind == .rel || p.kind == .sigclr || ((p.kind == .acq || p.kind == .probe .rel) && p.align == 128)

/-- The smallest page of an agent that translates an address is privileged (R257). -/
def State.pagePriv (s : State) (agent layer : Nat) (g : Tag) (va : Word) : Bool :=
  (smallest (s.tlbHits agent layer g (dieOf va) (offOf va))).any fun e => pteP e.pte

/-- A request that waits, at its home HS, has its turn: an access to a device page comes after the thread's earlier writes (R127, R232). -/
def State.waitTurn (s : State) (p : Packet) : Bool := p.mt != 3 || p.unread p.mt || s.deviceTurn p

/-- A packet that the ports deliver at a home HS before one which its cluster has sent later: one from the same MTLB's HS that is still on its
way, or one that has come and has its turn (R273). -/
def State.aheadAt (s : State) (p : Packet) (goal : Nat) : Bool :=
  (s.packets.takeWhile fun q => q.id != p.id).any fun q =>
    (match q.stage with | .atHome _ => dieOf q.va != 8 | _ => false) && clusterOf q.src == clusterOf p.src && q.goal == goal &&
      (if s.reached q then (if q.kind.posted then s.ownTurn q else s.waitTurn q) else tsOf q.va == tsOf p.va)

/-- A page is not present: copies that the request carries do not wait for it and get the cause (R199, R266); the request goes on for its
other readers, if it has any. -/
def State.failCopies (s : State) (p : Packet) : State × Option Packet :=
  if p.copies.isEmpty then (s, some p)
  else
    let s := s.toCopies p (absentCause p.kind.access) 0
    let p := { p with copies := [] }
    if p.onlyCopies then (s.finishPacket p, none) else (s.setPacket p, some p)

/-- R262 at the MTLB of a home layer.  What a PHINT or PREF that passes meets there leaves the layer as it was, and so does a PHINT that is
dropped (log 97).  DESIGN CHOICE: a request that finds the hold buffer full joins no fault group (log 110). -/
def State.arriveAt (s : State) (p : Packet) (layer : Nat) : State :=
  let hs := tsOf p.va
  let kind := p.kind.access
  let before := s
  match (let (x, s) := s.translate (mtlb layer hs) layer p.tag p.sup kind p.va (s.place p.src); (x, if p.kind.isHint then before else s)) with
  | (.deny c, s) => s.refuse p c false
  | (.noCtx, s) => s.refuse p p.noCtx false
  | (.absent true _ _, s) => s.refuse p (absentCause kind) true
  | (.absent false malf lvl, s) =>
    if p.kind.isHint then s.finishPacket p
    else
    match s.failCopies p with
    | (s, none) => s
    | (s, some p) =>
    if 64 ≤ s.heldAt layer hs then s.turnBack p
    else
      match s.joinGroup layer p.tag p.va (absentCause kind) kind.recKind (layerOf p.src + 8) ((if malf then 1 else 0) + lvl * 2) (s.place p.src) with
      | (none, s) => s.turnBack p
      | (some g, s) =>
        let s := s.setPacket { p with stage := .held g, boxed := false }
        if p.kind.posted then s else s.parkWaiting p layer g (absentCause kind)
  | (.ok pa mt, s') =>
    let p := { p with pa := pa, mt := mt, priv := s'.pagePriv (mtlb layer hs) layer p.tag p.va }
    let s := if p.mute then before else s'
    if p.va.toNat % p.align ≠ 0 then s.refuse p 0x0E false
    else if p.kind.isHint ∧ 2 ≤ mt then s.finishPacket p
    else if mt = 3 ∧ p.syncs then s.refuse p 0x0C false
    else s.setPacket { p with stage := .atHome pa, boxed := false }

/-- A request that waits is performed at its home HS, unless its pair has gone stale (R333) or its layer is fenced (R353). -/
def State.performAtHome (s : State) (p : Packet) (pa : Nat) : State :=
  let layer := homeOf (layerOf p.src) p.va
  if s.isFenced layer then s.lose p
  else if !s.current layer p.tag then s.dropCounted p layer 0
  else s.performWaiting p (physKey layer pa) p.mt

/-- It is due: the mesh has brought it, and nothing that its cluster has sent, and no write of its threads to a device page, comes before. -/
def State.waitDue (s : State) (p : Packet) : Bool := s.reached p && s.waitTurn p && !s.aheadAt p p.goal

/-- The runs of adjoining bytes of a mask: first byte, and how many; each is one PCIe write. -/
def maskRuns (mask : Word) : List (Nat × Nat) :=
  ((List.range 64).filter fun i => mask.getLsbD i && (i == 0 || !mask.getLsbD (i - 1))).map fun i =>
    (i, ((List.range (64 - i)).takeWhile fun j => mask.getLsbD (i + j)).length)

/-- A request to the BD (DIE 8): a posted one is performed there; a load of the outbound window becomes a PCIe read at OUTBASE and waits
for the host (R379, R385). -/
def State.arriveBd (s : State) (p : Packet) : State :=
  let forget (s : State) : State := s.bdForget (layerOf p.src) p.pa p.n
  let done (s : State) : State := if p.counted = 0 then (forget s).finishPacket p else (forget s).respond { p with stage := .done }
  match p.kind with
  | .store =>
    if bdMapped p.pa p.n ∨ bdOutbound p.pa p.n then done (s.bdStore p.pa (bytesOf p.n (lineGet p.data 0 p.n))) else s.refuse p 0x0B false
  | .sigclr =>
    if bdMapped p.pa 128 then
      done (s.bdWrite p.pa (bytesOf 128 (clearSig (BitVec.ofNat 1024 (valOf (s.bdReads p.pa 128)))).toNat))
    else s.refuse p 0x0B false
  | .line =>
    if bdMapped p.pa 64 then done (s.bdWrite p.pa (bytesOf 64 (lineMerge (BitVec.ofNat 512 (valOf (s.bdReads p.pa 64))) p.data p.mask).toNat))
    else if bdOutbound p.pa 64 then
      done ((maskRuns p.mask).foldl (fun s r => s.bdStore (p.pa + r.1) (bytesOf r.2 (lineGet p.data r.1 r.2))) s)
    else s.refuse p 0x0B false
  | .radd fp =>
    if bdMapped p.pa p.n then
      done (s.bdWrite p.pa (bytesOf p.n (raddSum fp p.n (valOf (s.bdReads p.pa p.n)) (lineGet p.data 0 p.n))))
    else s.refuse p 0x0B false
  | .put =>
    if bdMapped p.pa p.n ∨ bdOutbound p.pa p.n then
      ((forget (s.bdStore p.pa (bytesOf 64 p.data.toNat))).popAtHome p).respond { p with stage := .done }
    else s.refuse p 0x0B false
  | _ => ({ s with outReads := s.outReads ++ [(s.busAddress p.pa, p.n)] } : State).setPacket { p with stage := .atHome p.pa }

/-! ### Arrival (R262, R273) -/

/-- Earlier writes of the thread to the line, or to the bytes, come before a request (R232). -/
def State.afterOwn (s : State) (p : Packet) : Bool :=
  !(s.packets.any fun q =>
    decide (q.id < p.id) && q.pending && q.kind.posted && q.shares p && (lineVa q.va == lineVa p.va || q.covers p.va.toNat p.n))

/-- So do requests that its cluster has sent to the same HS before it (R273); one that has been delivered there and waits for writes of its
own thread keeps no other. -/
def State.arrivesInOrder (s : State) (p : Packet) : Bool :=
  s.afterOwn p &&
    !((s.packets.takeWhile fun q => q.id != p.id).any fun q =>
      decide (q.stage = .toHome) && clusterOf q.src == clusterOf p.src && dieOf q.va == dieOf p.va && tsOf q.va == tsOf p.va &&
        !(s.reached q && !s.afterOwn q))

/-- The request may arrive now: no router keeps it, its layer takes requests, and a write to the BD has its turn (R127, R248). -/
def State.arrivalDue (s : State) (p : Packet) : Bool :=
  decide (p.stage = .toHome) && s.reached p && s.arrivesInOrder p && (decide (8 ≤ dieOf p.va) || s.serves (dieOf p.va)) &&
    !(dieOf p.va == 8 && (p.kind.posted || p.kind == .put) && !s.ownTurn p)

/-- What a home answers of a release: the object as released, from what it held. -/
def Packet.released (p : Packet) (d : BitVec 1024) : BitVec 1024 :=
  if p.kind = .rel then releaseObj d p.data2 p.n (lineGet p.data 0 p.n) else d

/-- What another package answers to a request, which a free value picks (R264, R266, log 66): it performs it, with data from
outside the model and a memory type that a free value picks too, a store's when it was sent; holds it for a page that is not present; refuses
it; turns it back; or does not answer in time.  An access to a device page waits for its turn (R127, R232). -/
def State.foreignArrive (s : State) (p : Packet) : State :=
  let before := s
  let kind := p.kind.access
  let w := (Config.freeWord s.free).toNat % 16
  let s : State := { s with free := s.free + 1 }
  let performed (s : State) : State :=
    if p.va.toNat % p.align ≠ 0 then s.refuse p 0x0E false
    else
      let (bs, s) := s.freeBytes 128
      let d : BitVec 1024 := BitVec.ofNat 1024 (valOf bs)
      let mt := if p.isStore then p.mt else (Config.freeWord s.free).toNat % (if p.syncs ∨ kind = .amo then 3 else 4)
      if mt = 3 ∧ !s.deviceTurn p then before
      else (({ s with free := s.free + 1 } : State).popAtHome p).respond { p with stage := .done, mt := mt, reply := p.released d }
  if w = 0 then (s.lose p).noteTimeout p
  else if w = 1 then
    if p.kind.isHint then s.finishPacket p
    else if p.tag.ctx = 0#12 then s.refuse p (absentCause kind) true
    else
      match s.failCopies p with
      | (s, none) => s
      | (s, some p) =>
        let s := s.setPacket { p with stage := .held 0 }
        if p.kind.posted then s else s.parkWaiting p 9 0 (absentCause kind)
  else if w = 2 then s.refuse p (absentCause kind) true
  else if w = 3 then s.refuse p p.noCtx false
  else if w = 4 then s.refuse p (if kind = .fetch then 0x03 else 0x0D) false
  else if w = 5 ∧ kind = .amo then s.refuse p 0x0B false
  else if w = 6 ∧ kind = .amo then s.refuse p 0x0C false
  else if w = 7 ∧ p.syncs then s.refuse p 0x0C false
  else if w = 8 then s.turnBack p
  else performed s

def State.arrive (s : State) (p : Packet) : State :=
  let layer := homeOf (layerOf p.src) p.va
  if p.ownRadd then s.setPacket { p with stage := .atHome p.pa }
  else if (dieOf p.va = 8 ∨ dieOf p.va = 9) ∧ !s.currentNow p.tag then s.dropCounted p (layerOf p.src) 0
  else if dieOf p.va = 8 then s.arriveBd p
  else if dieOf p.va = 9 then s.foreignArrive p
  else if layer = layerOf p.src then s.setPacket { p with stage := .atHome p.pa }
  else if s.isFenced layer then s.lose p
  else if !s.current layer p.tag then s.dropCounted p layer 0
  else s.arriveAt p layer

/-- R262: at the MTLB, and, for a request that waits, at the home HS to which that forwards it (step 4). -/
def execRemoteRequestArrival (id : Nat) (s : State) : Out :=
  match s.packet id with
  | none => .next s
  | some p =>
    match p.stage with
    | .atHome pa => event s true (!p.kind.posted && dieOf p.va != 8 && s.waitDue p) (s.performAtHome p pa)
    | _ => event s true (s.arrivalDue p) (s.arrive p)

/-- A request that was turned back leaves its cluster again (R322). -/
def State.reissue (s : State) (p : Packet) : State :=
  (s.dropPacket p.id).route { p with pos := clusterOf p.src, entry := clusterOf p.src }

/-- R270: sent again by the route of R322. -/
def execRetryReissue (id : Nat) (s : State) : Out :=
  match s.packet id with
  | none => .next s
  | some p => event s true (decide (p.stage = .retry)) (s.reissue p)

/-- R268. -/
def execFaultDeferralExpiry (p : Nat) (s : State) : Out :=
  let t := s.thread p
  event s (isThread p) (match t.parked with | some (.deferral _) => true | _ => false)
    (s.setThread p { t with parked := none })

/-! ### Posted requests at their home (R128, R135, R400) -/

/-- A write may be performed at its home: no earlier one of its threads comes before it, and none that its cluster has sent to that HS
before it still stands there (R232, R245, R273). -/
def State.firstOnLine (s : State) (p : Packet) : Bool := s.reached p && s.ownTurn p && !s.aheadAt p p.goal

/-- A response that brings lines takes in a write. -/
def Packet.takesIn (q p : Packet) : Packet :=
  if q.kind.fills then
    { q with reply := (p.over (lineVa q.va) (q.reply.setWidth 512)).setWidth 1024, poison := q.poison &&& ~~~ p.cures (lineVa q.va) }
  else if q.kind = .rel then
    { q with
      reply := p.over (lineVa q.va + 64) (q.reply.extractLsb' 512 512) ++ p.over (lineVa q.va) (q.reply.setWidth 512)
      poison := q.poison &&& ~~~ p.cures (lineVa q.va), poison2 := q.poison2 &&& ~~~ p.cures (lineVa q.va + 64) }
  else q

/-- Lines on their way to the same cluster take in a store of that cluster that the home performs after the read (R128). -/
def State.updateFills (s : State) (p : Packet) : State :=
  { s with packets := s.packets.map fun q =>
      if decide (q.stage = .done) && clusterOf q.src == clusterOf p.src && decide (q.tag = p.tag) then q.takesIn p else q }

/-- The write of a store, a line or a SIGCLR at `key`. -/
def State.performStore (s : State) (p : Packet) (key : Nat) : State :=
  let lv : Level := if p.mt = 3 then .mem else .hs
  match p.kind with
  | .store =>
    (s.store lv p.colour key (bytesOf p.n (lineGet p.data 0 p.n))).updateFills p
  | .line =>
    (s.storeLine lv p.colour (key / 64 * 64) p.data p.mask).updateFills p
  | .sigclr => (s.clearObj lv p.colour key).updateFills p
  | .radd fp =>
    (s.store lv p.colour key (bytesOf p.n (raddSum fp p.n (s.peekNat key p.n) (lineGet p.data 0 p.n)))).stopFills (clusterOf p.src)
      fun q line => line == lineVa p.va && decide (q.tag = p.tag)
  | _ => s

/-- A posted request that stands at its home is performed and acknowledged; one of a stale pair is dropped (R333), and a write of a device page
that stalls at the controller keeps its packet (R365). -/
def State.performPosted (s : State) (p : Packet) (pa : Nat) : State :=
  let layer := homeOf (layerOf p.src) p.va
  if !s.current layer p.tag then s.dropCounted p layer 0
  else if p.mt = 3 ∧ s.stallsAt (physKey layer pa / 16) p.colour then s.want (physKey layer pa / 16) false
  else
    let s := s.performStore p (physKey layer pa)
    if p.counted = 0 then s.finishPacket p else s.respond { p with stage := .done }

def Packet.isPlainStore (p : Packet) : Bool := p.kind.posted && !p.isRadd

/-- R400. -/
def execRemoteStoreAtHome (id : Nat) (s : State) : Out :=
  match s.packet id with
  | none => .next s
  | some p =>
    match p.stage with
    | .atHome pa => event s true (p.isPlainStore && s.firstOnLine p) (s.performPosted p pa)
    | _ => .next s

/-- R135: in arrival order. -/
def execRaddAtHome (id : Nat) (s : State) : Out :=
  match s.packet id with
  | none => .next s
  | some p =>
    match p.stage with
    | .atHome pa => event s true (p.isRadd && s.firstOnLine p) (s.performPosted p pa)
    | _ => .next s

/-- One fewer store is outstanding (R128). -/
def State.release1 (s : State) (q : Nat) : State :=
  let t := s.thread q
  s.setThread q { t with ors := t.ors - 1 }

/-- The response is not stale: its reader is still there. -/
def State.wanted (s : State) (p : Packet) : Bool := s.currentNow p.tag

/-- R273: responses of one HS to one cluster come in the order sent, and when the mesh has brought them. -/
def State.responseInOrder (s : State) (p : Packet) : Bool :=
  s.reached p &&
    match s.packets.find? (fun q => q.answered && clusterOf q.src == clusterOf p.src && dieOf q.va == dieOf p.va && q.fromHs == p.fromHs) with
    | some q => q.id == p.id
    | none => true

/-- R128: ors counts one fewer for each thread; a stale response is orphaned (R334). -/
def State.ackPacket (s : State) (p : Packet) : State :=
  if s.wanted p then
    (if p.counted = 0 then s else (p.src :: p.joined).foldl State.release1 s).finishPacket p
  else s.dropCounted p (layerOf p.src) 1

/-- An acknowledgement comes after performance, from wherever the home is. -/
def State.ackDue (s : State) (p : Packet) : Bool := p.kind.posted && decide (p.stage = .done) && s.responseInOrder p

/-- A response of another package that meets no entry any longer is dropped and counted (R334, R338, R389). -/
def State.lateResponse (s : State) (id : Nat) : State :=
  match s.timedOut.find? (fun e => e.1 == id) with
  | some e => { s.countDrop e.2 1 with timedOut := s.timedOut.erase e }
  | none => s

/-- R128. -/
def execRemoteStoreAck (id : Nat) (s : State) : Out :=
  match s.packet id with
  | none => .next (s.lateResponse id)
  | some p => event s true (s.ackDue p) (s.ackPacket p)

/-- The first denial of a thread is recorded, later ones are counted (R128); `n` is 0 for an element of a line that another element
counts in ors (R164). -/
def Thread.deny (t : Thread) (cause : Nat) (kind : AKind) (va : Word) (unit n : Nat) : Thread :=
  { t with
    ors := t.ors - n
    denial := match t.denial with
      | none => some ⟨cause, kind, va, unit, 0⟩
      | some d => some { d with more := d.more + 1 } }

/-- Each of the two threads of a merged RADD counts it once (R135, R246). -/
def State.denyPacket (s : State) (p : Packet) (cause : Nat) : State :=
  if s.wanted p then
    ((p.src :: p.joined).foldl (fun s q =>
      s.setThread q ((s.thread q).deny cause p.kind.access p.va p.unit (min 1 p.counted))) s).finishPacket p
  else s.dropCounted p (layerOf p.src) 1

/-- Another package denies: which of the causes of R128 it is, is a free value (log 66). -/
def State.foreignDenial (s : State) (p : Packet) : State :=
  let w := (Config.freeWord s.free).toNat % 3
  { s with free := s.free + 1 }.denyPacket p (if w = 0 then 0x0B else if w = 1 then 0x0D else 0x0A)

/-- R128. -/
def execRemoteStoreDenial (id : Nat) (s : State) : Out :=
  match s.packet id with
  | none => .next (s.lateResponse id)
  | some p =>
    match p.stage with
    | .denied c => event s true (p.kind.posted && s.responseInOrder p) (s.denyPacket p c)
    | .toHome => event s true (p.kind.posted && dieOf p.va == 9) (s.foreignDenial p)
    | _ => .next s

/-- R292: an entry leaves the combining node: a RADD on the own layer's memory to its home, anything else by its route. -/
def State.leaveNode (s : State) (p : Packet) : State :=
  if p.ownRadd then s.setPacket { p with stage := .atHome p.pa } else (s.dropPacket p.id).route p

/-- Entries of one thread to one line leave in order (R245). -/
def State.leaveDue (s : State) (p : Packet) : Bool :=
  decide (p.stage = .combining) &&
    !(s.packets.any fun q => decide (q.id < p.id) && decide (q.stage = .combining) && q.shares p && p.sameLine q)

/-- R292. -/
def execCombineWindowExpiry (id : Nat) (s : State) : Out :=
  match s.packet id with
  | none => .next s
  | some p => event s true (s.leaveDue p) (s.leaveNode p)

/-! ### Responses with data (R252, R334, R398) -/

/-- The data that comes back: what the home has read, or what the host or another package supplies. -/
def State.responseData (s : State) (p : Packet) (data : Line) : Option (BitVec 1024) :=
  match p.stage with
  | .done => if p.reply.setWidth 512 = data ∧ s.responseInOrder p then some p.reply else none
  | .atHome _ => if dieOf p.va = 8 then some (data.setWidth 1024) else none
  | .toHome =>
    if dieOf p.va = 9 ∧ p.va.toNat % p.align = 0 then
      some (p.released (data.setWidth 1024 ||| ((BitVec.ofNat 512 (valOf (s.freeBytes 64).1)).setWidth 1024 <<< 512)))
    else none
  | _ => none

/-- A response is taken, or dropped as an orphan. -/
def State.takeResponse (s : State) (p : Packet) (d : BitVec 1024) : State :=
  if s.wanted p then s.deliver p d else s.dropCounted p (layerOf p.src) 1

/-- A retry response is taken: the request goes again, unless its pair is stale (R334). -/
def State.takeTurned (s : State) (p : Packet) : State :=
  if s.wanted p then s.setPacket { p with stage := .retry } else s.dropCounted p (layerOf p.src) 1

/-- A refusal is taken. -/
def State.takeRefusal (s : State) (p : Packet) (cause : Nat) (pin : Bool) : State :=
  if s.wanted p then s.deliverCause p cause pin else s.dropCounted p (layerOf p.src) 1

/-- R252; a refusal comes by the same way (R262). -/
def execLineFillResponse (id : Nat) (data : Line) (s : State) : Out :=
  match s.packet id with
  | none => .next (s.lateResponse id)
  | some p =>
    match p.stage with
    | .failed cause pin => event s true (s.responseInOrder p) (s.takeRefusal p cause pin)
    | .turned => event s true (s.responseInOrder p) (s.takeTurned p)
    | _ =>
    match s.responseData p data with
    | some d => event s true (!p.kind.posted && p.joined.isEmpty) (s.takeResponse p d)
    | none => .next s

/-- R398. -/
def execMergedFillReturn (id : Nat) (data : Line) (s : State) : Out :=
  match s.packet id with
  | none => .next s
  | some p =>
    match s.responseData p data with
    | some d => event s true (!p.kind.posted && !p.joined.isEmpty) (s.takeResponse p d)
    | none => .next s

/-- The oldest line that a thread's tile instruction has asked for and that has come. -/
def State.tileLine (s : State) (p : Nat) : Option Packet :=
  s.packets.find? fun q => q.src == p && q.unit == 2 && decide (q.kind = .load) && decide (q.stage = .done) && s.responseInOrder q

/-- R178. -/
def execTileRowArrival (p : Nat) (s : State) : Out :=
  match s.tileLine p with
  | some q => event s (isThread p) true (s.takeResponse q q.reply)
  | none => event s (isThread p) false s

/-- R334: the retry timer or the Ridge timeout frees an orphan; a response that comes later is counted then. -/
def execOrphanTimeout (id : Nat) (s : State) : Out :=
  match s.packet id with
  | none => .next s
  | some p => event s true p.orphan ((s.finishPacket p).noteTimeout p)

/-- R389. -/
def execDie9Timeout (id : Nat) (s : State) : Out :=
  match s.packet id with
  | none => .next s
  | some p => event s true (dieOf p.va == 9 && decide (p.stage = .toHome)) ((s.lose p).noteTimeout p)

/-- R385: poisoned data. -/
def execOutboundReadTimeout (id : Nat) (s : State) : Out :=
  match s.packet id with
  | none => .next s
  | some p =>
    event s true (dieOf p.va == 8 && !p.kind.posted && (match p.stage with | .atHome _ => true | _ => false)) (s.lose p)

/-- R326. -/
def execBdHeldRequest (id : Nat) (s : State) : Out :=
  match s.packet id with
  | none => .next s
  | some p => event s true (decide (p.stage = .bdHeld) && (s.layer (dieOf p.va)).power == .asleep) (s.startWake (dieOf p.va))

end Sys2Proof.Machine
end

