-- ==== Sys2Proof/Machine/EventsCopy.lean ====
section
/-!
DEFINITION. Events of copies and messages (R192 to R199, R204 to R207, R337).
-/

namespace Sys2Proof.Machine

def State.copy (s : State) (id : Nat) : Option Copy := s.copies.find? fun c => c.id == id

/-! ### Copies -/

/-- R192, R198, R199: piece `piece` goes on: the rest of its data, and its arrival update when its turn has come; a fault stops the
copy. -/
def execCopyPieceArrivalUpdate (id piece : Nat) (s : State) : Out :=
  match s.copy id with
  | none => .next s
  | some c =>
    match s.pieceStep c piece with
    | .ok s => .next s
    | .fault s cause kind fva => .next (s.stopOn id cause kind fva)
    | .later => .next s

/-- R192. -/
def execCopyCompletion (id : Nat) (s : State) : Out :=
  match s.copy id with
  | none => .next s
  | some c => event s true c.finished (s.completeCopy c)

/-- The fault of a copy's next piece, by range: the state, and the record's FCAUSE, KIND and FVA. -/
def State.copyFault (s : State) (c : Copy) : Option (State × Nat × Nat × Word) :=
  (List.range c.ranges).findSome? fun r =>
    match s.pieceStep c (c.cursor r) with
    | .fault s cause kind fva => some (s, cause, kind, fva)
    | _ => none

/-- R199. -/
def execCopyFaultStop (id : Nat) (s : State) : Out :=
  match s.copy id with
  | none => .next s
  | some c =>
    match s.copyFault c with
    | some (s, cause, kind, fva) => .next (s.stopOn id cause kind fva)
    | none => .next s

/-! ### Messages -/

/-- A message comes in from outside the package.  The pair and the colour that its packet carries, and the Ridge port by which it comes, are the
sending package's: free values (R359, R387; log 76).  That port, or the BD for the host, counts it as injected. -/
def State.messageIn (s : State) (queue sender : Nat) (data : List Byte) : State :=
  let w := Config.freeWord s.free
  let colour := s.inboundColour sender (w.getLsbD 63)
  let agent := if 4096 ≤ sender then 8 else s.ridgeAgent sender ((w.extractLsb' 20 16).toNat % 18)
  (({ s with nextId := s.nextId + 1, free := s.free + 1 } : State).inject agent colour).offer
    ⟨s.nextId, queue, sender, data, none, none, some (⟨w.extractLsb' 0 12, w.extractLsb' 12 8⟩, colour, agent)⟩

/-- R204, R207: sender is [11:0] package, [12] host. -/
def execMessageArrival (queue sender : Nat) (data : List Byte) (s : State) : Out :=
  event s (decide (queue < 4096)) (decide (data.length ≤ longest ∧ sender < 8192)) (s.messageIn queue sender data)

/-- R207: after 1 ms the message is discarded; its sender is answered NACK, for want of a buffer or of a page. -/
def State.giveUp (s : State) (m : Inbound) : State :=
  let s := { s with inbound := s.inbound.filter fun x => x.id != m.id }.consumeInbound m
  if m.buf.isNone then s.answerSend m.id 0x10 0 0 else s.answerSend m.id 0x11 0x0A 0

/-- R207. -/
def execMessagePlacementTimeout (id : Nat) (s : State) : Out :=
  match s.inbound.find? (fun m => m.id == id) with
  | some m => event s true true (s.giveUp m)
  | none => .next s

/-- A message to a queue of this package. -/
def State.isOwn (s : State) (m : Message) : Bool := !epHost m.endpoint && epPkg m.endpoint == s.basecamp.pkg.toNat

/-- The causes that a line of a buffer or a status word may meet (R125, R255, R337). -/
def isFaultCause (c : Nat) : Bool := c == 0x0A || c == 0x0B || c == 0x0D || c == 0x0F || c == 0x18

/-- R206: the answers that a send to the host or to another package may get; a NACK places nothing. -/
def statusFits (m : Message) (status detail len : Nat) : Bool :=
  if status = 0x10 then detail == 0 && len == 0
  else if status = 0x11 then isFaultCause detail && len == 0
  else if m.persist then (detail == 0) && (status == 0x13 || (status == 2 && !epHost m.endpoint))
  else detail == 0 && status == 1

/-- The completion word can be written now: its layer is not asleep (R326). -/
def State.completes (s : State) (m : Message) : Bool := !s.isAsleep (homeOf (layerOf m.src) m.comp) || !s.currentNow m.tag

/-- R386: the data of a message goes to the host as outbound writes, then its receive-status word, then MSI-X vector 1.  Where the host has
registered its buffer is not given: each goes to a free host bus address (log 57). -/
def State.hostTakes (s : State) (m : Message) (len : Nat) : State :=
  let flags := 1 + if len < m.data.length then 2 else 0
  let word := bytesOf 16 (receiveStatus m.data.length flags s.basecamp.pkg.toNat)
  { s with
    outbound := s.outbound ++ [((Config.freeWord s.free).toNat, m.data.take len), ((Config.freeWord (s.free + 1)).toNat, word)]
    free := s.free + 2
    msix := s.msix ++ [1] }

/-- R206, R337: the completion word is written unless the sender's pair has gone stale; the host's arrival raises MSI-X
vector 1 (R386). -/
def State.completeSend (s : State) (m : Message) (status detail len : Nat) : State :=
  let s := { s with messages := s.messages.filter fun x => x.id != m.id }.consume m.agent m.colour
  let s := if epHost m.endpoint ∧ (status = 1 ∨ status = 0x13) then s.hostTakes m len else s
  if s.currentNow m.tag then s.putWord m.src m.tag m.sup m.colour m.comp (completion status detail len) else s.countDrop (layerOf m.src) 0

/-- R206. -/
def execMsendCompletion (id status detail len : Nat) (s : State) : Out :=
  match s.messages.find? (fun m => m.id == id) with
  | none => .next s
  | some m =>
    event s true
      ((match m.answer with
       | some a => a == (status, detail, len)
       | none => !s.isOwn m && statusFits m status detail len && decide (len ≤ m.data.length)) && s.completes m)
      (s.completeSend m status detail len)

end Sys2Proof.Machine
end

