-- ==== Sys2Proof/Machine/EventsRope.lean ====
section
/-!
DEFINITION. Events of the Rope, barriers, routers, and layers that sleep, wake, are fenced and restart
(R274, R288 to R291, R307 to R317, R324 to R327, R353).
-/

namespace Sys2Proof.Machine

/-! ### Slots -/

/-- R307: what has landed is applied or consumed before. -/
def execRopeSlotTransmit (s : State) : Out :=
  event s true ((s.landed true).isNone && (s.landed false).isNone) s.slotStep

/-- R315: by a receiver that hears the Rope. -/
def execRopeVeto (layer : Nat) (s : State) : Out :=
  match s.vetoable layer with
  | some x => event s (decide (layer ≤ 8)) (layer == 8 || s.hears layer) (s.veto x true)
  | none => event s (decide (layer ≤ 8)) false s

/-- R316. -/
def execRopeOrderedApply (s : State) : Out :=
  match s.landed true with
  | some x => .next (s.applyOrdered x)
  | none => .next s

/-- R317. -/
def execRopeBeatReceive (s : State) : Out :=
  match s.landed false with
  | some x => .next (s.receiveBeats x)
  | none => .next s

/-- R314. -/
def execSlotTableTakeForce (s : State) : Out := event s true s.forceDue s.takeForce

/-! ### Barriers (R288) -/

/-- A token that may reach a cluster: the row token from its east neighbour, or the column token from its south neighbour. -/
def State.sweeps (s : State) (layer n cl : Nat) : Option Bool :=
  let d := s.bardesc layer n
  let here := s.barCl layer n cl
  let east := s.barCl layer n (cl + 1)
  let south := s.barCl layer n (cl + 4)
  if barIn d cl && !barLastCol d cl && s.barRow layer n (cl + 1) && !east.sentRow && !here.east && here.phase == east.phase then some true
  else if barIn d cl && cl % 4 == barCol0 d && !barLastRow d cl && s.barColumn layer n (cl + 4) && !south.sentCol && !here.south &&
      here.phase == south.phase then some false
  else none

/-- The token passes; the corner may become layer-complete. -/
def State.sweepTo (s : State) (layer n cl : Nat) (row : Bool) : State :=
  let from_ := if row then cl + 1 else cl + 4
  let a := s.barCl layer n from_
  let s := s.setBarCl layer n from_ (if row then { a with sentRow := true } else { a with sentCol := true })
  let b := s.barCl layer n cl
  (s.setBarCl layer n cl (if row then { b with east := true } else { b with south := true })).barCheck layer n

/-- R288 steps 2 and 3. -/
def execBarrierSweepToken (layer n cl : Nat) (s : State) : Out :=
  match s.sweeps layer n cl with
  | some row => event s (isLayer layer && decide (n < 16 ∧ cl < 16)) true (s.sweepTo layer n cl row)
  | none => event s (isLayer layer && decide (n < 16 ∧ cl < 16)) false s

/-- The cluster from which the release reaches another; the corner has none. -/
def barBefore (d : Word) (cl : Nat) : Option Nat :=
  if cl = barCorner d then none
  else if cl % 4 = barCol0 d then some (cl - 4)
  else some (cl - 1)

/-- R288 step 5: the release may reach a cluster. -/
def State.releaseDue (s : State) (layer n cl : Nat) : Bool :=
  let d := s.bardesc layer n
  let b := s.barCl layer n cl
  barV d && barIn d cl && decide (b.phase < (s.bar layer n).released) &&
    (match barBefore d cl with
     | some c => decide (b.phase < (s.barCl layer n c).phase)
     | none => true)

/-- The phase has released at a cluster: arrivals beyond NTHR begin the next (R290). -/
def BarCluster.next_ (b : BarCluster) (nthr : Nat) : BarCluster :=
  { cur := min b.next nthr, next := b.next - min b.next nthr, phase := b.phase + 1, east := false, south := false
    sentRow := false, sentCol := false }

/-- The phase has released at the thread's cluster: a BAR or BARWAIT that waits for it completes (R288, R293). -/
def Thread.barReleased (t : Thread) (n phase : Nat) : Thread :=
  match t.parked with
  | some (.bar m ph) => if m = n ∧ ph < phase then { t.complete 4 with prg := 0 } else t
  | some (.barwait m ph) => if m = n ∧ ph < phase then t.complete 4 else t
  | _ => t

def State.releaseThreads (s : State) (layer n cl phase : Nat) : State :=
  { s with threads := s.threads.map fun e =>
      if clusterOf e.1 = 16 * layer + cl then (e.1, e.2.barReleased n phase) else e }

def State.releaseAt (s : State) (layer n cl : Nat) : State :=
  let s := s.releaseThreads layer n cl ((s.barCl layer n cl).phase + 1)
  let s := s.setBarCl layer n cl ((s.barCl layer n cl).next_ (barNthr (s.bardesc layer n)))
  let s := if cl = barCorner (s.bardesc layer n) then s.setBar layer n { s.bar layer n with sent := false } else s
  s.barCheck layer n

/-- R288. -/
def execBarrierRelease (layer n cl : Nat) (s : State) : Out :=
  event s (isLayer layer && decide (n < 16 ∧ cl < 16)) (s.releaseDue layer n cl) (s.releaseAt layer n cl)

/-! ### Routers (R274) -/

/-- R274: a router with nothing to pass powers down; a wake signal wins. -/
def execRouterPowerGate (layer cl : Nat) (s : State) : Out :=
  let g := 16 * layer + cl
  event s (isLayer layer && decide (cl < 16)) (!s.isGated g && !s.wakeSignal g)
    (s.setCluster g { s.cluster g with gated := true })

/-- R274: at a wake signal. -/
def execRouterWake (layer cl : Nat) (s : State) : Out :=
  let g := 16 * layer + cl
  event s (isLayer layer && decide (cl < 16)) (s.isGated g && s.wakeSignal g)
    (s.setCluster g { s.cluster g with gated := false })

/-! ### Sleep and wake (R324 to R327) -/

/-- The layer sends a sleep notice in its next ordered slot. -/
def State.sleepNotice (s : State) (l : Nat) : State :=
  s.enqueue l 0 { Item.blank with op := .sleep l, id := s.nextId, src := 256 * l }

/-- The BD forwards what it holds for a layer, in arrival order (R327 step 4); what is stale is dropped (R333). -/
def State.forwardHeld (s : State) (l : Nat) : State :=
  let s := s.dropHeld l
  { s with packets := s.packets.map fun p => if p.stage = .bdHeld ∧ dieOf p.va = l then p.forwarded else p }

/-- One step of the wake sequence: 2 the buffered items, 3 the incarnations, 4 the held requests, 5 the notice. -/
def State.wakeStep (s : State) (l n : Nat) : State :=
  let s :=
    if n = 1 then s.applyBuffered l
    else if n = 2 then s.takeInc l
    else if n = 3 then s.forwardHeld l
    else s.enqueue l 0 { Item.blank with op := .wake l, id := s.nextId, src := 256 * l }
  s.setPower l (.waking (n + 1))

/-- R327. -/
def execLayerWake (layer : Nat) (s : State) : Out :=
  match (s.layer layer).power with
  | .waking n => event s (isLayer layer) (decide (n < 5)) (s.wakeStep layer n)
  | _ => event s (isLayer layer) false s

/-! ### Fencing (R353) -/

/-- The threads, caches, translations, replica and station of a layer. -/
def State.loseLayer (s : State) (l : Nat) : State :=
  { s with
    threads := s.threads.filter fun e => layerOf e.1 != l
    l1d := s.l1d.filter fun e => layerOfKey (16 * e.1) != l
    hs := s.hs.filter fun e => layerOfKey (16 * e.1) != l
    l1i := s.l1i.filter fun e => e.core / 128 != l
    rdc := s.rdc.filter fun e => e.cl / 16 != l
    tlb := s.tlb.filter fun e => e.layer != l
    walkers := s.walkers.filter fun e => e.layer != l
    ctxCache := s.ctxCache.filter fun e => (if e.1 < 1024 then e.1 / 128 else (e.1 - 1024) / 16) != l
    cores := s.cores.map fun e => if e.1 / 128 = l then (e.1, { Core.reset with cycle := e.2.cycle }) else e
    hbmPoison := s.hbmPoison.filter fun k => layerOfKey (16 * k) != l
    hsPoison := s.hsPoison.filter fun k => layerOfKey (16 * k) != l
    bdLines := s.bdLines.filter fun e => e.1 / 2 ^ 40 != l
    clusters := s.clusters.filter fun e => e.1 / 16 != l
    copies := s.copies.filter fun c => layerOf c.src != l
    messages := s.messages.filter fun m => layerOf m.src != l }

/-- What a fenced layer has sent and what waits in it goes, and counts as consumed (R405): its requests, copies and messages. -/
def State.consumeLost (s : State) (l : Nat) : State :=
  let gone := ((s.packets.filter fun p => layerOf p.src == l).map (·.colour)) ++ ((s.copies.filter fun c => layerOf c.src == l).map (·.colour)) ++
    ((s.messages.filter fun m => layerOf m.src == l).map (·.colour))
  gone.foldl (fun s c => s.consume l c) s

/-- Step 3: requests of other layers to the layer are completed, those whose response has not landed too; requests of its own threads go. -/
def State.completeLost (s : State) (l : Nat) : State :=
  let s : State := { s with packets := s.packets.filter fun p => layerOf p.src != l }
  (s.packets.filter fun p => dieOf p.va == l && (p.pending || p.wire || p.pos / 16 == l)).foldl State.lose s

/-- Step 4: a KILL for every context whose layer set includes the layer, in CTXID order. -/
def State.killSets (s : State) (l : Nat) : State :=
  (s.basecamp.layerSets.filter fun e => e.2.getLsbD l && e.1 != 0).foldl (fun s e =>
    s.bdItem { Item.blank with op := .kill, src := 256 * l, val := BitVec.ofNat 64 e.1 }) s

/-- What a fenced layer's cut comes to (R358, R369). -/
def State.cutOnFence (s : State) (l : Nat) : State :=
  if s.cairn.lmask.getLsbD l ∧ (s.cairn.state = 1 ∨ s.cairn.state = 2) then s.abortCut
  else if s.cairn.lmask.getLsbD l ∧ s.cairn.state = 3 then s.endCut 5
  else s

/-- A record about a layer (R354). -/
def layerRecord (sev st act l : Nat) : Record := recordOf sev st act (256 * l) 0 Tag.zero

/-- R353: the layer is fenced. -/
def State.fenceLayer (s : State) (l st : Nat) : State :=
  let s := s.bdItem { Item.blank with op := .fence l, src := 256 * l }
  let s := ((((s.cutOnFence l).consumeLost l).loseLayer l).completeLost l)
  let y := s.layer l
  let s := s.setLayer l { y with power := .fenced, buffered := [], bulkIn := [], reserved := [] }
  let s := (y.bulkIn.filter fun e => e.2.off == l).foldl (fun s e => (s.landBulk l e.2).getD s) s
  let s : State := if l = 0 then { s with rpcItem := none } else s
  (s.killSets l).recordError (layerRecord 3 st 6 l)

/-- R353. -/
def execLayerFence (layer : Nat) (s : State) : Out :=
  event s (isLayer layer) (!s.isFenced layer) (s.fenceLayer layer 16)

/-- The bytes of a fenced layer's HBM are lost: each that was listed reads a free value. -/
def State.loseHbm (s : State) (l : Nat) : State :=
  let lost := s.hbm.filter fun c => layerOfKey c.1 == l
  let s : State := { s with poison := s.poison.filter fun k => layerOfKey (16 * k) != l }
  lost.foldl (fun s c => { s with hbm := Memory.write s.hbm c.1 (Config.freeByte s.free), free := s.free + 1 }) s

/-- R353: a fenced layer restarts: steps 3 to 5 of R327; its kernel and its slots of R312 follow.  As it has no slot until then, its wake
notice goes out in a slot of the BD (log 59). -/
def State.restartLayer (s : State) (l : Nat) : State :=
  let s := s.loseHbm l
  let y := s.layer l
  let s := s.setLayer l { Layer.reset with
    ropeslot := (s.layer 8).ropeslot, retired := y.retired, drops := y.drops, power := .fenced }
  let s := s.startWake l
  let s := ((s.takeInc l).forwardHeld l).setPower l (.waking 6)
  s.bdItem { Item.blank with op := .wake l, src := 256 * l }

/-- R353. -/
def execLayerRestart (layer : Nat) (s : State) : Out :=
  event s (isLayer layer) (s.isFenced layer && !s.fencePending layer) (s.restartLayer layer)

end Sys2Proof.Machine
end

