-- ==== Sys2Proof/Machine/EventsCare.lean ====
section
/-!
DEFINITION. Events of errors, records, power and temperature, and of Cairn (R344, R352 to R355, R361 to R368, R392 to R394).
-/

namespace Sys2Proof.Machine

/-! ### Counting (R352, R355) -/

/-- A record of an error, `n` of whose kind are in the window (R354): of a hardware thread's place, with the pair of what it hit. -/
def State.report (s : State) (sev st act p addr index : Nat) (g : Tag) (n : Nat) : State :=
  let r := recordOf sev st act p addr g
  (s.tally sev st (layerOf p)).record { r with place := r.place + 4096 * (index % 2 ^ 20), count := n }

/-- One that is counted with it. -/
def State.tell (s : State) (sev st act p addr index : Nat) (g : Tag) : State :=
  let k := st + if 2 ≤ sev then 64 else 0
  (s.countError k (layerOf p) index).report sev st act p addr index g (s.recent k (layerOf p) index)

/-! ### What a lost or retired line is (lines by address / 64) -/

/-- The sectors of a line of a layer's memory. -/
def lineKeys (layer index : Nat) : List Nat := lineSectors (physKey layer (64 * index) / 16)

/-- The hardware thread's place (R354) of a unit: the first of a core or of a cluster. -/
def unitPlace (st layer unit : Nat) : Nat := 256 * layer + if st ≤ 1 then 2 * unit else 16 * unit

/-- The pair of a line of an L1I or an RDC. -/
def State.lineTag (s : State) (st layer unit index : Nat) : Tag :=
  if st = 0 then ((s.l1i.find? fun l => l.core == 128 * layer + unit && l.va / 64 == index).map (·.tag)).getD Tag.zero
  else if st = 4 then ((s.rdc.find? fun l => l.cl == 16 * layer + unit && l.va / 64 == index).map (·.tag)).getD Tag.zero
  else Tag.zero

/-- The unit of a layer, core, HS or cluster, whose line it is: one that holds it, else one that a free value picks, since an error names none
(log 51); 0 for a structure without lines. -/
def State.unitOf (s : State) (st layer index : Nat) : Nat × State :=
  if !(st == 0 || st == 1 || st == 2 || st == 4) then (0, s) else
  let found : Option Nat :=
    if st = 0 then (s.l1i.find? fun l => l.core / 128 == layer && l.va / 64 == index).map fun l => l.core % 128
    else if st = 1 then (lineKeys layer index).findSome? fun k => (Table.find s.l1d k).map fun d => d.owner % 128
    else if st = 2 then some (hsOf (64 * index))
    else (s.rdc.find? fun l => l.cl / 16 == layer && l.va / 64 == index).map fun l => l.cl % 16
  match found with
  | some u => (u, s)
  | none => ((Config.freeWord s.free).toNat % (if st = 4 then 16 else 128), { s with free := s.free + 1 })

/-- The set of a line, and the ways of a set (R249). -/
def setOfLine (st layer index : Nat) : Nat :=
  if st = 0 then Config.cacheSet 0 index % 128
  else if st = 1 then l1dSet (.own (physKey layer (64 * index) / 64))
  else if st = 2 then hsSet (physKey layer (64 * index) / 64)
  else Config.cacheSet 1 index % 1024
def waysOf (st : Nat) : Nat := if st = 0 ∨ st = 1 then 8 else 16

/-- The line leaves the unit of a layer, of an RDC one that stands under its address; or the page's translations and pointer entries leave the
layer (R252, R344). -/
def State.dropStruct (s : State) (st layer unit index : Nat) : State :=
  if st = 0 then { s with l1i := s.l1i.filter fun l => !(l.core == 128 * layer + unit && l.va / 64 == index) }
  else if st = 4 then
    match s.rdc.find? fun l => l.cl == 16 * layer + unit && l.va / 64 == index with
    | some l => { s with rdc := s.rdc.erase l }
    | none => s
  else if st = 5 then
    { s with
      tlb := s.tlb.filter fun e => !(e.layer == layer && e.base / 4096 == index)
      walkers := s.walkers.filter fun e => !(e.layer == layer && e.base == index / 2 ^ (9 * e.level)) }
  else s

/-- Structures that R352 gives a threshold: lines of L1I, L1D, HS and RDC, rows, and lanes. -/
def standing (st : Nat) : Bool := st == 0 || st == 1 || st == 2 || st == 4 || decide (9 ≤ st ∧ st ≤ 13)

/-- What can still be retired: all ways of a set but one, Rope lanes but the three that the longest item needs (R309), and of rows and
other lanes as many as the package has spare (log 54). -/
def State.hasSpare (s : State) (st layer unit index : Nat) : Bool :=
  if st = 10 then decide (3 < s.lanes)
  else if 9 ≤ st then decide (((s.layer layer).retired.filter fun e => e.1 == st).length < Config.spares st)
  else decide (1 < s.waysLeft layer st unit (setOfLine st layer index) (waysOf st))

/-- The standing action (R352): the line is dropped, written back and invalidated, and its way no longer allocated; or the lane or row is
replaced. -/
def State.retire (s : State) (st layer unit index : Nat) : State :=
  let s := if st = 1 ∨ st = 2 then s.wbLine (physKey layer (64 * index) / 64) else s.dropStruct st layer unit index
  let s := if st = 10 then s.retireLane else s
  let y := s.layer layer
  s.setLayer layer { y with retired := y.retired ++ [(st, if st < 9 then wayKey unit (setOfLine st layer index) else index)] }

/-- A count has reached its threshold: the standing action, or a report that the spares are exhausted (R352). -/
def State.standingAction (s : State) (sev st layer unit index n : Nat) : State :=
  let g := s.lineTag st layer unit index
  if s.hasSpare st layer unit index then
    (s.retire st layer unit index).report sev st (if st = 9 then 3 else 2) (unitPlace st layer unit) (if sev = 0 then 0 else 16 * index) index g n
  else s.report sev st 7 (unitPlace st layer unit) (if sev = 0 then 0 else 16 * index) index g n

/-- R352: a corrected error is counted; a count that reaches the threshold takes the action. -/
def State.corrected (s : State) (st layer index : Nat) : State :=
  let n := s.recent st layer index
  match (s.countError st layer index).unitOf st layer index with
  | (unit, s) =>
    if standing st ∧ (s.threshold st).toNat % 2 ^ 32 ≤ n then s.standingAction 0 st layer unit index n
    else s.report 0 st 0 (unitPlace st layer unit) 0 index (s.lineTag st layer unit index) n

/-- STRUCT codes of units that correct errors (R344, R354). -/
def isStruct (st : Nat) : Bool := decide (st ≤ 13)

/-- R352. -/
def execCorrectedError (struct layer index : Nat) (s : State) : Out :=
  event s (isStruct struct && isLayer layer) true (s.corrected struct layer index)

/-! ### Uncorrectable errors (R344): caches by line; tile registers by 16 × thread + register; HBM by sector -/

/-- The sectors of a line that a cache holds dirty become poisoned; a clean line is refilled.  One of an HS that an L1D holds newer is not
seen. -/
def State.poisonDirty (s : State) (tb : Table Dirty) (st layer index : Nat) : State :=
  let ks := (lineKeys layer index).filter fun k => (Table.find tb k).isSome
  let hurt (s : State) (k : Nat) : State :=
    if st = 2 ∧ (Table.find s.l1d k).isSome then { s with hsPoison := k :: s.hsPoison.filter (· != k) } else s.makePoison (16 * k) 16
  match s.unitOf st layer index with
  | (unit, s) =>
    if ks.isEmpty then s.tell 0 st 1 (unitPlace st layer unit) (64 * index) index Tag.zero
    else (ks.foldl hurt s).tell 2 st 0 (unitPlace st layer unit) (64 * index) index Tag.zero

/-- Register `k` of a thread of the layer consumes poison when it is next read. -/
def State.poisonReg (s : State) (st layer index : Nat) : State :=
  let p := 256 * layer + index / 16 % 256
  let t := s.thread p
  (s.setThread p { t with poisoned := (index % 16) :: t.poisoned.filter (· != index % 16) }).tell 2 st 0 p 0 index t.tag

/-- A sector of memory becomes poisoned; one that a cache holds dirty is not read from memory. -/
def State.poisonHbm (s : State) (k : Nat) : State :=
  if s.isDirty k then { s with hbmPoison := k :: s.hbmPoison.filter (· != k) } else s.makePoison (16 * k) 16

/-- A code line in an L1I of the layer has an error: no instruction of it is about to retire, so the error is deferred (R304). -/
def State.codeError (s : State) (layer index : Nat) : State :=
  let held := s.l1i.any fun l => l.core / 128 == layer && l.va / 64 == index
  match s.unitOf 0 layer index with
  | (unit, s) =>
    (s.dropStruct 0 layer unit index).tell (if held then 1 else 0) 0 1 (unitPlace 0 layer unit) 0 index (s.lineTag 0 layer unit index)

/-- An RDC line of one cluster is dropped and refilled (R252). -/
def State.rdcError (s : State) (layer index : Nat) : State :=
  match s.unitOf 4 layer index with
  | (unit, s) => (s.dropStruct 4 layer unit index).tell 0 4 1 (unitPlace 4 layer unit) 0 index (s.lineTag 4 layer unit index)

/-- A row of HBM has an uncorrectable error: its sector becomes poisoned, and a count that reaches the threshold, which is 1 by
default, spares the row at once (R352). -/
def State.hbmError (s : State) (layer index : Nat) : State :=
  let n := s.recent 73 layer index
  let s := (s.poisonHbm (physKey layer (16 * index) / 16)).countError 73 layer index
  if (s.threshold 73).toNat % 2 ^ 32 ≤ n then s.standingAction 2 9 layer 0 index n
  else s.report 2 9 0 (256 * layer) (16 * index) index Tag.zero n

/-- DESIGN CHOICE: an error of a core that none of the checks of R344 meets, the kind that a Belay pair is for (STRUCT 14): results of the shadow
of a paired thread of the layer differ, and with them the bits `index / 256` of its fingerprint (R350, log 94). -/
def State.strike (s : State) (layer index : Nat) : State :=
  let p := 256 * layer + index % 256
  let t := s.thread p
  if t.paired then s.setThread p { t with shadowCrc := t.shadowCrc ^^^ BitVec.ofNat 64 (index / 256) } else s

/-- R344: the failures of a TE array operation by thread, of tile registers, and of the rest. -/
def State.uncorrected (s : State) (st layer index : Nat) (dirty : Bool) : State :=
  if st = 0 then s.codeError layer index
  else if st = 4 then s.rdcError layer index
  else if st = 1 then s.poisonDirty s.l1d st layer index
  else if st = 2 then s.poisonDirty s.hs st layer index
  else if st = 3 then if s.isFenced layer then s else s.fenceLayer layer 3
  else if st = 5 then if dirty ∧ s.isFenced layer = false then s.fenceLayer layer 5 else (s.dropStruct st layer 0 index).tell 0 st 1 (256 * layer) 0 index Tag.zero
  else if st = 6 then if dirty then s.poisonReg st layer (index / 16 * 16 + poisonArray) else s.tell 0 st 0 (256 * layer + 2 * (index / 16 % 128)) 0 index Tag.zero
  else if st = 7 then s.poisonReg st layer index
  else if st = 9 then s.hbmError layer index
  else if st = 14 then s.strike layer index
  else s.tell 0 st (if st = 8 then 1 else 0) (256 * layer) 0 index Tag.zero

/-- R344. -/
def execUncorrectableError (struct layer index : Nat) (dirty : Bool) (s : State) : Out :=
  event s ((isStruct struct || struct == 14) && isLayer layer) true (s.uncorrected struct layer index dirty)

/-- The drop counts and deferrals of a layer, in one record of STRUCT 17 (R268, R338, R354). -/
def State.reportDrops (s : State) (l : Nat) : State :=
  let n := (List.range 5).foldl (fun n c => n + Table.at 0 (s.layer l).drops c) (s.layer l).deferrals
  if n = 0 then s else s.record { recordOf 0 17 0 (256 * l) 0 Tag.zero with count := n }

/-- The lifetime histograms go to flash; with them Basecamp reports the drop counts (log 84). -/
def State.writeHistograms (s : State) : State :=
  let s := (List.range 8).foldl State.reportDrops s
  { s with basecamp := { s.basecamp with flash := s.basecamp.hist, flashedAt := s.slot } }

/-- R355. -/
def execLifetimeHistogramWrite (s : State) : Out := .next s.writeHistograms

/-! ### Power and temperature (R392 to R394) -/

/-- Islands 0 to 127 are the clusters', 128 to 135 the layers' meshes, 136 to 143 the BD's. -/
def isIsland (i : Nat) : Bool := decide (i < 144)

/-- The point of an island: P0 at start. -/
def State.movePoint (s : State) (i pt : Nat) : State :=
  let b := s.basecamp
  { s with basecamp := { b with
    points := Table.put b.points i pt, moving := b.moving.filter (· != i) ++ [i], ccBase := s.rebase i b.ccBase } }

/-- A cluster island that can go down by one point. -/
def State.canLower (s : State) (i : Nat) : Bool := decide (i < 128) && decide (s.point i < 7)

/-- The island that a sample above the limit lowers: the one it names if that can go down, else one that a free value picks of those that
can (R393). -/
def State.toLower (s : State) (i : Nat) : Option Nat :=
  if s.canLower i then some i
  else
    let can := (List.range 128).filter s.canLower
    can[(Config.freeWord s.free).toNat % can.length]?

/-- The island is at the lowest point of all. -/
def State.isLowest (s : State) (i : Nat) : Bool := decide (0 < s.point i) && s.basecamp.points.all fun e => decide (e.2 ≤ s.point i)

/-- The lowest island, which ten samples below 95 % raise: the one that the sample names if it is, else one that a free value picks (R393). -/
def State.toRaise (s : State) (i : Nat) : Option Nat :=
  if s.isLowest i then some i
  else
    let low := (s.basecamp.points.map (·.1)).filter s.isLowest
    low[(Config.freeWord s.free).toNat % low.length]?

def State.setBelow (s : State) (n : Nat) : State := { s with basecamp := { s.basecamp with below := n } }

/-- Below 95 % of PLIMIT. -/
def State.isBelow (s : State) (watts : Nat) : Bool := decide (100 * watts < 95 * s.basecamp.plimit)

/-- One sample: `island` is the one that draws the most above the limit, or the lowest where power has stayed below 95 % for
ten samples (R393). -/
def State.powerStep (s : State) (watts island : Nat) : State :=
  if s.basecamp.plimit < watts then
    (match s.toLower island with
     | some i => { s with free := s.free + 1 }.movePoint i (s.point i + 1)
     | none => s).setBelow 0
  else if s.isBelow watts then
    (if 10 ≤ s.basecamp.below + 1 then
      match s.toRaise island with
      | some i => { s with free := s.free + 1 }.movePoint i (s.point i - 1)
      | none => s
     else s).setBelow (s.basecamp.below + 1)
  else s.setBelow 0

/-- R393. -/
def execPowerSample (watts island : Nat) (s : State) : Out := event s (isIsland island) true (s.powerStep watts island)

/-- The layer of an island of a compute layer. -/
def islandLayer (i : Nat) : Nat := if i < 128 then i / 16 else i - 128

/-- R355: hours at a temperature and at a core voltage, in samples of 100 µs: the first from the layer's mesh island and the BD's first. -/
def tempBin (c : Nat) : Nat := if c < 40 then 0 else min (c / 10 - 3) 8

def State.heat (s : State) (i c : Nat) : State :=
  let s := if 128 ≤ i ∧ i ≤ 136 then s.bump 0 (i - 128) (tempBin c) else s
  let s := s.bump 1 i ((Config.voltageBin i (s.point i)) % 16)
  let hot := if 115 ≤ c then Table.at 0 s.basecamp.hot i + 1 else 0
  let s : State := { s with basecamp := { s.basecamp with hot := Table.put s.basecamp.hot i hot } }
  let s := if 100 ≤ c ∧ s.canLower i = true then s.movePoint i (s.point i + 1) else s
  if 115 ≤ c ∧ 136 ≤ i then { s with devState := 3, startStep := 0 }.recordError (recordOf 4 16 0 2048 0 Tag.zero)
  else if 10 ≤ hot ∧ i < 136 ∧ s.isFenced (islandLayer i) = false then s.fenceLayer (islandLayer i) 16
  else s

/-- R394. -/
def execTemperatureSample (island celsius : Nat) (s : State) : Out := event s (isIsland island) true (s.heat island celsius)

/-- R393. -/
def execPointChangeComplete (island : Nat) (s : State) : Out :=
  event s (isIsland island) (s.basecamp.moving.contains island)
    { s with basecamp := { s.basecamp with moving := s.basecamp.moving.filter (· != island) } }

/-! ### Cairn -/

/-- R361. -/
def execCutCloseRound (s : State) : Out := event s true (s.cairn.state == 2) s.closeRound

/-- R362: CLOSE reaches this package, which has met step 1 and is not the root. -/
def execPodClose (s : State) : Out := event s true (s.cairn.state == 2 && s.cairn.pod && s.cairn.met && !s.isRoot) s.podCloses

/-- R364, R365: a dirty sector of an HS is written back, after those of its line in colour E (R404); a write that stalls leaves it there. -/
def execControllerWrite (layer sector : Nat) (s : State) : Out :=
  if 2 ^ 33 ≤ sector then .fault .noSuchPlace
  else
    let k := physKey layer (16 * sector) / 16
    let c := (Table.find s.hs k).map (·.colour)
    let s' := if c = some (!s.cairn.epoch) then s.wbColour (k / 4) s.cairn.epoch else s
    event s (isLayer layer) c.isSome ((s'.wbHs k).countBack layer (c.getD false))

/-- R367: status 2 is PERSISTED; any other fails the cut. -/
def execDrainCompletion (seq status : Nat) (s : State) : Out :=
  match s.cairn.flying.find? (fun f => f.seq == seq) with
  | none => .next s
  | some f => event s true (s.cairn.state == 3) (if status = 2 then s.drainedOne f else s.endCut 5)

/-- R367. -/
def execDrainSend (s : State) : Out :=
  match s.nextGranule with
  | some (l, g) => event s true (s.cairn.state == 3) (s.sendGranule l g)
  | none => .next s

end Sys2Proof.Machine
end

