-- ==== Sys2Proof/Machine/EventsHost.lean ====
section
/-!
DEFINITION. Events of the host port and of Basecamp's commands (R371 to R386, R390, R391), and what the device kernel does for
a request of the host (R376).
-/

namespace Sys2Proof.Machine

/-! ### Starts (R390, R391) -/

/-- A package reset: every reset value; package flash and what comes from outside stay (R355, R390). -/
def State.packageReset (s : State) : State :=
  { State.reset with
    agenda := s.agenda, free := s.free, nextId := s.nextId
    basecamp := { Basecamp.reset with hist := s.basecamp.flash, flash := s.basecamp.flash, trained := s.basecamp.trained } }

/-- R390. -/
def execPackageReset (s : State) : Out := .next s.packageReset

/-- What Basecamp keeps over a start: the clock, records, counts, flash. -/
def Basecamp.restarted (b : Basecamp) : Basecamp :=
  { b with layerSets := [], again := [], points := [], moving := [], below := 0, hot := [] }

/-- What a layer keeps of a cut over a start that keeps HBM (R370): a start that has not read the record yet leaves its SEQ. -/
def Layer.keepCut (seq : Nat) (y : Layer) : Layer :=
  { Layer.reset with drained := y.drained, staged := y.staged, cutRecord := (y.cutRecord.map fun r => { r with seq := max r.seq seq }), retired := y.retired }
def Layer.loseCut (y : Layer) : Layer := { Layer.reset with retired := y.retired }

/-- A start begins at step 1: every thread, context and cache line is lost.  A warm start that keeps HBM needs the saved
results of HBM training.  DESIGN CHOICE: the memory of the BD, which no step of R390 names, stays, and with it the rings (log 105). -/
def State.beginStart (s : State) (warm keep : Bool) : State :=
  let cold := !warm || (keep && !s.basecamp.trained)
  let keeps := !cold && keep
  { s.packageReset with
    slot := s.slot
    lanes := s.lanes
    bd := s.bd
    isig := s.isig
    outbound := s.outbound
    outReads := s.outReads
    hostReads := s.hostReads
    msix := s.msix
    cores := Table.mapVals (fun c => { Core.reset with cycle := c.cycle }) s.cores
    basecamp := s.nominal.restarted
    hbm := s.hbm
    poison := s.poison.filter (fun k => !s.isDirty k) ++ s.hbmPoison
    layers := Table.mapVals (if keeps then Layer.keepCut s.cairn.seq else Layer.loseCut) (s.layers.filter fun e => decide (e.1 < 8))
    refused := s.refused
    cold := cold
    kept := s.kept && !cold
    warm := !cold
    keep := keeps }

/-- R391: a request while STARTING is refused. -/
def State.requestStart (s : State) (warm keep : Bool) : State :=
  if s.devState = 1 then { s with refused := true } else s.beginStart warm keep

/-- R391. -/
def execStartCold (s : State) : Out := .next (s.requestStart false false)
/-- R391. -/
def execStartWarm (keep : Bool) (s : State) : Out := .next (s.requestStart true keep)

/-! ### The mailbox (R372 to R375) -/

/-- A write of the host into BD memory. -/
def State.hostWrite (s : State) (o n v : Nat) : State := { s with bd := Memory.writeBytes s.bd o (bytesOf n v) }
def State.mail (s : State) (o n : Nat) : Nat := valOf (s.bdReads o n)

/-- The RPC thread: hardware thread 0 of core 1 of cluster (0,0) on L0. -/
def rpcThread : Nat := 2

/-- A host RPC makes 0x16 pending at the RPC thread (R301). -/
def Irq16.rpc : Option Irq16 → Irq16
  | some i => { i with count := i.count + 1, rpcs := i.rpcs + 1 }
  | none => ⟨1, true, 0, 1⟩

/-- R375: bits [63:32] of the counter are reserved. -/
def State.writeReqtail (s : State) (v : Nat) : State :=
  let old := s.mail 0x8000 4
  let s := s.hostWrite 0x8000 4 v
  if v % 2 ^ 32 = old then s
  else
    let t := s.thread rpcThread
    s.setThread rpcThread { t with irq16 := some (Irq16.rpc t.irq16) }

/-- R375. -/
def execHostReqtailWrite (v : Word) (s : State) : Out := .next (s.writeReqtail v.toNat)

/-- A host write of 4 or 8 bytes at an aligned offset of BAR0 (R373): the request ring, REQTAIL, RSPHEAD, START and OUTBASE. -/
def State.bar0Write (s : State) (o n v : Nat) : State :=
  if o < 0x8000 then s.hostWrite o n v
  else if o = 0x8000 then s.writeReqtail v
  else if o = 0x8018 then s.hostWrite 0x8018 4 v
  else if o = 0x8028 then s.requestStart (v.testBit 0) (v.testBit 1)
  else if 0x8030 ≤ o ∧ o < 0x8038 then s.hostWrite o n v
  else s

/-- A read or an AtomicOp of the host completes. -/
def State.hostReply (s : State) (r : Option (List Byte × Bool)) : State := { s with hostReads := s.hostReads ++ [r] }

/-- A read of BAR0 completes with the data; one of DEVSTATE clears REFUSED (R374). -/
def State.bar0Read (s : State) (off size : Nat) : State := (s.hostReply (some (s.bdReads off size, false))).bdTake off size

/-- R372: any other size or alignment completes as Unsupported Request and changes nothing. -/
def execHostBar0Access (off size : Nat) (write : Bool) (v : Word) (s : State) : Out :=
  .next (
    if (size = 4 ∨ size = 8) ∧ off % size = 0 ∧ off + size ≤ 0x10000 then
      if write then s.bar0Write off size v.toNat else s.bar0Read off size
    else s.hostReply none)

/-- R374. -/
def execHostDevstateRead (s : State) : Out := .next (s.bar0Read 0x8020 8)

/-! ### Inbound data (R380 to R384) -/

/-- The window entry that covers an offset of BAR2. -/
def State.windowEntry (s : State) (off : Nat) : BitVec 128 := BitVec.ofNat 128 (s.mail (0x100000 + 16 * (off / 2 ^ 21)) 16)
def weV (e : BitVec 128) : Bool := e.getLsbD 0
def weR (e : BitVec 128) : Bool := e.getLsbD 1
def weW (e : BitVec 128) : Bool := e.getLsbD 2
def weSync (e : BitVec 128) : Bool := e.getLsbD 3
def weLayer (e : BitVec 128) : Nat := (e.extractLsb' 9 3).toNat
def weFrame (e : BitVec 128) : Nat := (e.extractLsb' 21 27).toNat * 2 ^ 21
def weVa (e : BitVec 128) : Nat := (e.extractLsb' 64 56).toNat

/-- A request of the host that the link can carry: within BAR2, at most 4,096 bytes, within 4 KiB (R371, R380). -/
def isInbound (off n : Nat) : Bool := decide (0 < n ∧ off + n ≤ 2 ^ 36 ∧ off % 4096 + n ≤ 4096)

/-- BADWR saturates (R373). -/
def State.badWrite (s : State) : State := s.hostWrite 0x8038 8 (min (s.mail 0x8038 8 + 1) (2 ^ 64 - 1))

/-- The hash bits of the lines of `n` bytes from a virtual address. -/
def linesSig (va n : Nat) : Line :=
  (List.range ((va + n - 1) / 64 + 1 - va / 64)).foldl (fun g i => g ||| sigOf (64 * (va / 64 + i))) 0#512

/-- R382: a release on a sync object. -/
def isFlag (e : BitVec 128) (off n : Nat) : Bool := weSync e && decide ((n = 4 ∨ n = 8) ∧ off % n = 0 ∧ off % 128 + n ≤ 8)

/-- The write is performed at the home HS (R381, R382). -/
def State.inbound_ (s : State) (e : BitVec 128) (off : Nat) (data : List Byte) : State :=
  let key := physKey (weLayer e) (weFrame e + off % 2 ^ 21)
  if isFlag e off data.length then
    let k := key / 128 * 128
    { s.pokeObj .hs s.devColour k (releaseObj (s.peekObj k) s.isig data.length (valOf data)) with isig := 0 }
  else
    let s : State := if weVa e = 0 then s else { s with isig := s.isig ||| linesSig (weVa e + off % 2 ^ 21) data.length }
    s.store .hs s.devColour key data

/-- R380, R382: a write to a fenced layer is lost; a layer that sleeps is woken (R326). -/
def execHostInboundWrite (off : Nat) (data : List Byte) (s : State) : Out :=
  let e := s.windowEntry off
  if !(weV e && weW e) then event s true (isInbound off data.length) s.badWrite
  else if hbmEnd < weFrame e + off % 2 ^ 21 + data.length then .fault .noSuchPlace
  else
    event s true (isInbound off data.length)
      (if s.isFenced (weLayer e) then s else (s.wakeFor (weLayer e)).inbound_ e off data)

/-- R371: an AtomicOp completes as Unsupported Request. -/
def execHostInboundAtomicop (s : State) : Out := .next (s.hostReply none)

/-- R380, R383: the home HS serves a read, whose earlier writes have been performed; a poisoned sector is indicated and not consumed.  A layer
that sleeps is woken (R326), and the data of a fenced one is lost (R353). -/
def State.hostRead (s : State) (off len : Nat) : State :=
  let e := s.windowEntry off
  let pa := weFrame e + off % 2 ^ 21
  if !(weV e && weR e) || decide (hbmEnd < pa + len) then s.hostReply none
  else if s.isFenced (weLayer e) then
    match s.freeBytes len with
    | (bs, s) => s.hostReply (some (bs, true))
  else
    let key := physKey (weLayer e) pa
    (s.wakeFor (weLayer e)).hostReply (some (s.peekBytes key len, s.isPoisoned key len))

/-- R383. -/
def execHostInboundRead (off len : Nat) (s : State) : Out := event s true (isInbound off len) (s.hostRead off len)

/-! ### Basecamp's tables and commands (R377, R378) -/

/-- An entry of a table, or the STATUS. -/
def State.tableEntry (s : State) (t i : Nat) : Nat × Word :=
  let b := s.basecamp
  let here (ok : Bool) (v : Word) : Nat × Word := if ok then (0, v) else (2, 0#64)
  if t = 0 then here (decide (i < 128 ∧ i % 64 < 18)) (s.threshold i)
  else if t = 1 then here (i == 0) (BitVec.ofNat 64 b.plimit)
  else if t = 2 then here (i == 0) b.drain
  else if t = 3 then here (decide (i < 4096)) ((Table.at 0#18 b.routes i).setWidth 64)
  else if t = 4 then here (decide (i < 19)) (Table.at 0#64 b.tree i)
  else if t = 5 then here (i == 0) (b.pkg.setWidth 64)
  else if t = 6 then here (decide (i < 2)) (BitVec.ofNat 64 (if i = 0 then s.clockNs / 10 ^ 9 else s.clockNs % 10 ^ 9))
  else (1, 0#64)

def State.setBasecamp (s : State) (b : Basecamp) : State := { s with basecamp := b }

/-- Whether a write of an entry that exists is in range, and whether the state allows it. -/
def entryRange (t i : Nat) (v : Word) : Bool :=
  if t = 1 then decide (2000 ≤ v.toNat ∧ v.toNat ≤ 4200)
  else if t = 3 then decide (v.toNat < 2 ^ 18)
  else if t = 4 then decide (v.toNat < 2 ^ 13)
  else if t = 5 then decide (v.toNat < 2 ^ 12)
  else if t = 6 then decide (v.toNat < if i = 0 then 2 ^ 48 else 10 ^ 9)
  else true

def State.entryAllowed (s : State) (t : Nat) : Bool :=
  if t = 2 then !s.cairn.active
  else if t = 4 then !(s.cairn.active && s.cairn.pod)
  else if t = 5 then s.devState == 1 && decide (s.startStep ≤ 7)
  else true

def State.putEntry (s : State) (t i : Nat) (v : Word) : State :=
  let b := s.basecamp
  s.setBasecamp (
    if t = 0 then { b with thresholds := Table.put b.thresholds i v }
    else if t = 1 then { b with plimit := v.toNat }
    else if t = 2 then { b with drain := v }
    else if t = 3 then { b with routes := Table.put b.routes i (v.setWidth 18) }
    else if t = 4 then { b with tree := Table.put b.tree i v }
    else if t = 5 then { b with pkg := v.setWidth 12 }
    else
      { b with
        clock := if i = 0 then v.toNat * 10 ^ 9 + s.clockNs % 10 ^ 9 else s.clockNs / 10 ^ 9 * 10 ^ 9 + v.toNat
        setAt := s.slot })

/-- Command 0x02: STATUS and the state. -/
def State.writeEntry (s : State) (t i : Nat) (v : Word) : Nat × State :=
  let st := (s.tableEntry t i).1
  if st ≠ 0 then (st, s)
  else if !entryRange t i v then (2, s)
  else if !s.entryAllowed t then (3, s)
  else (0, s.putEntry t i v)

/-- Samples of 100 µs in an hour. -/
def samplesPerHour : Nat := 36000000

/-- Command 0x03 (R355). -/
def State.lifetime (s : State) (h u bin : Nat) : Nat × Word × State :=
  let n (u : Nat) : Nat := Table.at 0 s.basecamp.hist (histKey h u bin)
  let here (ok : Bool) (v : Nat) : Nat × Word × State := if ok then (0, BitVec.ofNat 64 v, s) else (2, 0#64, s)
  if h = 0 then here (decide (u < 9 ∧ bin < 9)) (n u / samplesPerHour)
  else if h = 1 then
    if u < 144 ∧ bin < 16 then (0, BitVec.ofNat 64 (Table.at 0 s.basecamp.hist (histKey 1 u bin) / samplesPerHour), s) else (2, 0#64, s)
  else if h = 2 then here (decide (u < 18 ∧ bin < 18)) (n u)
  else if h = 3 then here (decide (bin < 8)) (n 0)
  else (2, 0#64, s)

/-- What a command answers: STATUS, Q0, and the state (R378). -/
def State.command (s : State) (cmd : Nat) (d0 d1 d2 : Word) : Nat × Word × State :=
  let a := d0.toNat
  let b := d1.toNat
  let plain (r : Nat × State) : Nat × Word × State := (r.1, 0#64, r.2)
  if cmd = 1 then ((s.tableEntry a b).1, (s.tableEntry a b).2, s)
  else if cmd = 2 then plain (s.writeEntry a b d2)
  else if cmd = 3 then s.lifetime a b d2.toNat
  else if cmd = 4 then
    if a < 8 ∧ b < 5 then (0, BitVec.ofNat 64 (Table.at 0 (s.layer a).drops b), s) else (2, 0#64, s)
  else if cmd = 5 then plain (if s.devState = 1 then 3 else 0, s.requestStart (d0.getLsbD 0) (d0.getLsbD 1))
  else if cmd = 6 then
    plain (if 8 ≤ a then (2, s) else if s.isAwake a && s.quiescent a then (0, s.sleepNotice a) else (3, s))
  else if cmd = 7 then
    plain (if 8 ≤ a then (2, s) else if (s.layer a).power = .asleep then (0, s.startWake a) else (3, s))
  else if cmd = 8 then
    plain (if 64 ≤ a ∨ 64 ≤ b ∨ ¬(slotTx d1 = 8 ∨ slotTx d1 = 15) then (2, s)
      else if s.slotAccepts 8 a d1 then (0, s.slotChange 0 a d1 (s.slotEntry 8 a)) else (3, s))
  else if cmd = 9 then
    plain (if 4096 ≤ a ∨ 256 ≤ b then (2, s)
      else (0, s.setBasecamp { s.basecamp with layerSets := Table.put s.basecamp.layerSets a (d1.setWidth 8) }))
  else (1, 0#64, s)

/-! ### The Basecamp ring (R377) -/

/-- An entry of 256 bytes: two 4-byte fields and doublewords. -/
def entryBytes (a b : Nat) (ws : List Word) : List Byte :=
  let bs := bytesOf 4 a ++ bytesOf 4 b ++ ws.flatMap fun w => bytesOf 8 w.toNat
  bs ++ List.replicate (256 - bs.length) 0#8

def State.ringPosted (s : State) : Bool := s.mail 0xC000 4 != s.mail 0xC008 4
def State.ringEntry (s : State) : Nat := 0xC100 + 256 * (s.mail 0xC008 4 % 16)
def State.ringCmd (s : State) : Nat := s.mail s.ringEntry 4
def State.ringArg (s : State) (i : Nat) : Word := BitVec.ofNat 64 (s.mail (s.ringEntry + 8 + 8 * i) 8)

/-- Basecamp writes the reply entry, then advances BCHEAD and BRTAIL. -/
def State.reply (s : State) (status : Nat) (q : Word) : State :=
  let head := s.mail 0xC008 4
  let tail := s.mail 0xC010 4
  let s := s.bdWrite (0xD100 + 256 * (tail % 16)) (entryBytes (s.mail (s.ringEntry + 4) 4) status [q])
  (s.hostWrite 0xC008 4 (head + 1)).hostWrite 0xC010 4 (tail + 1)

/-- Basecamp takes the oldest command of the ring, and replies to each. -/
def State.takeCommand (s : State) : State :=
  match s.command s.ringCmd (s.ringArg 0) (s.ringArg 1) (s.ringArg 2) with
  | (st, q, s) => s.reply st q

/-- The ring's oldest command is this one. -/
def State.ringHas (s : State) (cmd : Nat) (ds : List Word) : Bool :=
  s.ringPosted && s.ringCmd == cmd && (List.range ds.length).all fun i => s.ringArg i == ds.getD i 0#64

/-- A command that came over MCTP: its reply is a message whose body is the reply entry; SEQ, which the event does not give, is a free value
(R377, R391). -/
def State.mctpCommand (s : State) (cmd : Nat) (d0 d1 d2 : Word) : State :=
  let seq := (Config.freeWord s.free).toNat % 2 ^ 32
  match ({ s with free := s.free + 1 } : State).command cmd d0 d1 d2 with
  | (st, q, s) => s.sendMctp (entryBytes seq st [q])

/-- Basecamp performs a command: the oldest of the ring if that is it, else one that came over MCTP. -/
def State.perform (s : State) (cmd : Nat) (ds : List Word) : Out :=
  if s.ringHas cmd ds then .next s.takeCommand
  else .next (s.mctpCommand cmd (ds.getD 0 0#64) (ds.getD 1 0#64) (ds.getD 2 0#64))

def w64 (n : Nat) : Word := BitVec.ofNat 64 n

/-- R378. -/
def execReadTableEntry (t i : Nat) (s : State) : Out := s.perform 1 [w64 t, w64 i]
/-- R378. -/
def execWriteTableEntry (t i : Nat) (v : Word) (s : State) : Out := s.perform 2 [w64 t, w64 i, v]
/-- R378. -/
def execReadLifetimeCounter (h u bin : Nat) (s : State) : Out := s.perform 3 [w64 h, w64 u, w64 bin]
/-- R378. -/
def execReadDropCounts (layer cls : Nat) (s : State) : Out := s.perform 4 [w64 layer, w64 cls]
/-- R378, R391. -/
def execBasecampStart (v : Word) (s : State) : Out := s.perform 5 [v]
/-- R324, R378; held while a CPY.BC is outstanding (R193). -/
def execSleepLayer (layer : Nat) (s : State) : Out :=
  if s.broadcasting then .next s else s.perform 6 [w64 layer]
/-- R326, R378. -/
def execWakeLayer (layer : Nat) (s : State) : Out := s.perform 7 [w64 layer]
/-- R313, R378. -/
def execWriteBdSlot (slot : Nat) (v : Word) (s : State) : Out := s.perform 8 [w64 slot, v]
/-- R353, R378. -/
def execRegisterLayerSet (c : Nat) (mask : BitVec 8) (s : State) : Out := s.perform 9 [w64 c, mask.setWidth 64]

/-! ### Requests of the host (R375, R376) -/

def State.rpcPosted (s : State) : Bool := s.devState == 2 && s.mail 0x8000 4 != s.mail 0x8008 4
def State.rpcEntry (s : State) : Nat := 256 * (s.mail 0x8008 4 % 64)
def State.rpcOp (s : State) : Nat := s.mail s.rpcEntry 4
def State.rpcArg (s : State) (i : Nat) : Word := BitVec.ofNat 64 (s.mail (s.rpcEntry + 8 + 8 * i) 8)

/-- The kernel takes the request, writes the response, advances RSPTAIL and raises MSI-X vector 0. -/
def State.respondRpc (s : State) (status : Nat) (rs : List Word) : State :=
  let head := s.mail 0x8008 4
  let tail := s.mail 0x8010 4
  let s := s.bdWrite (0x4000 + 256 * (tail % 64)) (entryBytes (s.mail (s.rpcEntry + 4) 4) status rs)
  (s.bdWrite 0x8008 (bytesOf 4 (head + 1))).bdStore 0x8010 (bytesOf 4 (tail + 1))

/-- The oldest request has this OP, and the kernel is not still waiting for an item of the one it has taken. -/
def rpc (op : Nat) (due : Bool) (s s' : State) : Out := event s true (s.rpcPosted && s.rpcItem.isNone && s.rpcOp == op && due) s'

/-- An ordered item that the kernel on L0 sends for a request of the host, and whose application its answer waits for (R376): it acts for
context 0x000, and no hardware thread counts it. -/
def State.kernelItem (s : State) (i : Item) : State :=
  let id := s.nextId
  ({ s with nextId := id + 1, rpcItem := some (id, none) } : State).enqueue 0 0 { i with id := id, src := 2048 }

def badArgument : Nat := 0x51
def busy : Nat := 0x52

/-! #### Contexts -/

/-- The layers of a context's set. -/
def State.setOf (s : State) (c : Nat) : List Nat :=
  (List.range 8).filter (Table.at 0#8 s.basecamp.layerSets c).getLsbD

/-- A kernel store to its own layer's memory. -/
def State.kstore (s : State) (layer pa : Nat) (bs : List Byte) : State := s.store .hs s.devColour (physKey layer pa) bs
def State.kread (s : State) (layer pa : Nat) : Word := BitVec.ofNat 64 (s.peekNat (physKey layer pa) 8)

/-- The context-table entry of a new context: no roots, V = 1, PINNED (R255); agents that hold the old entry drop it. -/
def State.makeContext (s : State) (c : Nat) (mask : BitVec 8) (pinned : Bool) : State :=
  let s := ((List.range 8).filter mask.getLsbD).foldl (fun s l =>
    (s.kstore l (32 * c) (bytesOf 24 0 ++ bytesOf 8 (if pinned then 3 else 1))).dropCtx l (some c)) s
  s.setBasecamp { s.basecamp with layerSets := Table.put s.basecamp.layerSets c mask }

/-- R376 OP 0x01: `c` is the number that the kernel has chosen, one that no context bears. -/
def State.rpcContext (s : State) (c : BitVec 12) : State :=
  let mask := s.rpcArg 0
  if mask.toNat = 0 ∨ 256 ≤ mask.toNat ∨ 2 ≤ (s.rpcArg 1).toNat then s.respondRpc badArgument []
  else
    (s.makeContext c.toNat (mask.setWidth 8) (s.rpcArg 1 == 1#64)).respondRpc 0
      [c.setWidth 64, (s.mirrorEntry c.toNat).cur.setWidth 64]

/-- R376. -/
def execRpcCreateContext (c : BitVec 12) (s : State) : Out :=
  rpc 1 (c != 0#12 && (Table.find s.basecamp.layerSets c.toNat).isNone) s (s.rpcContext c)

/-! #### Threads (R22) -/

/-- A hardware thread that can be given to a program: none of a fenced layer is (R353). -/
def State.isFree (s : State) (p : Nat) : Bool := !(s.thread p).resident && !(s.thread p).shadow && !s.isFenced (layerOf p)

/-- A new thread of context `c`: every register at its reset value but those that R22 names. -/
def State.newThread (s : State) (p : Nat) (c : BitVec 12) (entry sp tp : Word) (args : List Word) : State :=
  let pinned := s.kread (layerOf p) (32 * c.toNat + 24)
  let x := Table.put (Table.put [] 2 sp) 3 tp
  { s with nextId := s.nextId + 1 }.setThread p { (s.thread p).stopped with
    resident := true
    who := s.nextId
    switchCost := 0
    pc := putBit entry 0 false
    x := (List.range 8).foldl (fun tb i => Table.put tb (10 + i) (args.getD i 0#64)) x
    tag := ⟨c, (s.mirrorEntry c.toNat).cur⟩
    status := if pinned.getLsbD 1 then 0x80A#64 else 0xA#64 }

/-- PLACE of a hardware thread (R13): what its CSR reads. -/
def State.placeOf (s : State) (p : Nat) : Word := BitVec.ofNat 64 (s.place p)

/-- R376 OP 0x03 with the hardware thread, stack and thread pointer that the kernel has chosen. -/
def State.rpcThreadAt (s : State) (p : Nat) (sp tp : Word) : State :=
  let c : BitVec 12 := (s.rpcArg 0).setWidth 12
  let l := (s.rpcArg 2).toNat
  if 4096 ≤ (s.rpcArg 0).toNat ∨ ¬ (s.setOf c.toNat).contains l then s.respondRpc badArgument []
  else if !((List.range 256).any fun i => s.isFree (256 * l + i)) then s.respondRpc busy []
  else
    (s.newThread p c (s.rpcArg 1) sp tp ((List.range 8).map fun i => s.rpcArg (3 + i))).respondRpc 0 [s.placeOf p]

/-- The kernel's choice fits: a free hardware thread of the layer, which is awake (R327), and a stack top of 64-byte alignment; a refusal
needs none. -/
def State.threadFits (s : State) (p : Nat) (sp : Word) : Bool :=
  let l := (s.rpcArg 2).toNat
  decide (4096 ≤ (s.rpcArg 0).toNat) || !(s.setOf (s.rpcArg 0).toNat).contains l ||
    !((List.range 256).any fun i => s.isFree (256 * l + i)) ||
    (decide (layerOf p = l ∧ sp.toNat % 64 = 0) && s.isFree p && s.isAwake l)

/-- R376. -/
def execRpcCreateThread (p : Nat) (sp tp : Word) (s : State) : Out :=
  rpc 3 (s.threadFits p sp) s (s.rpcThreadAt p sp tp)

/-! #### Ends of contexts -/

/-- R376 OP 0x04: the kernel executes KILL, which sends its item; status 3 is decided at issue (R220). -/
def State.rpcEnd (s : State) : State :=
  let a := s.rpcArg 0
  if 4096 ≤ a.toNat then s.respondRpc badArgument [] else s.kernelItem { Item.blank with op := .kill, val := a }

/-- R376. -/
def execRpcEndContext (s : State) : Out := rpc 4 true s s.rpcEnd

/-- The response of OP 0x04 by the outcome of its KILL. -/
def State.rpcKilled (s : State) (r : Nat) : State :=
  let old := w64 (r / 256 % 256)
  let new := w64 (r / 65536 % 256)
  if r % 256 = 0 then s.respondRpc 0 [old, new]
  else if r % 256 = 1 then s.respondRpc busy [old, new]
  else s.respondRpc badArgument []

/-- The item that the kernel waits for has been applied: it answers the request, OP 0x02 with success (R75). -/
def State.rpcGo (s : State) : Option State :=
  match s.rpcItem with
  | some (_, some r) =>
    let s : State := { s with rpcItem := none }
    some (if s.rpcOp = 4 then s.rpcKilled r else s.respondRpc 0 [])
  | _ => none

/-! #### Windows -/

/-- Copies window entries from a device address of the RPC thread; none if one cannot be read. -/
def State.mapEntries (s : State) (at_ : Nat) (va : Word) : (n : Nat) → Option State
  | 0 => some s
  | n + 1 =>
    match s.reach rpcThread Tag.zero true .load va 16 with
    | (.to tg h, s) =>
      let ((bs, _), s) := s.take rpcThread (.to tg h) 16
      (s.bdWrite at_ bs).mapEntries (at_ + 16) (va + 16#64) n
    | _ => none

/-- R376 OP 0x05. -/
def State.rpcWindow (s : State) : State :=
  let w := (s.rpcArg 0).toNat
  let first := (s.rpcArg 1).toNat
  let count := (s.rpcArg 2).toNat
  if 16 ≤ w ∨ 2048 < first + count ∨ (s.rpcArg 3).toNat % 16 ≠ 0 then s.respondRpc badArgument []
  else
    match s.mapEntries (0x100000 + 16 * (2048 * w + first)) (s.rpcArg 3) count with
    | some s => s.respondRpc 0 []
    | none => s.respondRpc badArgument []

/-- R376. -/
def execRpcMapWindow (s : State) : Out := rpc 5 true s s.rpcWindow

/-! #### Snapshots and management -/

/-- R376 OP 0x06: SNAPCTL, then SNAPARM by the RPC thread. -/
def State.rpcArm (s : State) : State :=
  match (s.writeSnapctl (s.rpcArg 1)).snaparm (s.rpcArg 0) (s.thread rpcThread).step with
  | (st, s) => s.respondRpc 0 [w64 st]

/-- R376. -/
def execRpcArmSnapshot (s : State) : Out := rpc 6 true s s.rpcArm

/-- The kernel posts a command in the ring. -/
def State.postCommand (s : State) (cmd : Nat) (ds : List Word) : State :=
  let tail := s.mail 0xC000 4
  (s.bdWrite (0xC100 + 256 * (tail % 16)) (entryBytes cmd tail ds)).bdWrite 0xC000 (bytesOf 4 (tail + 1))

/-- R376 OP 0x07, R377: the command goes through the ring and its reply comes back. -/
def State.rpcManage (s : State) : State :=
  let s1 := (s.postCommand ((s.rpcArg 0).toNat % 2 ^ 32) ((List.range 30).map fun i => s.rpcArg (i + 1)))
  if s1.ringCmd = 5 ∧ s1.devState ≠ 1 then s1.takeCommand
  else
    let s2 := s1.takeCommand
    let brhead := s2.mail 0xC018 4
    let at_ := 0xD100 + 256 * (brhead % 16)
    let q (i : Nat) : Word := w64 (s2.mail (at_ + 8 + 8 * i) 8)
    (s2.bdWrite 0xC018 (bytesOf 4 (brhead + 1))).respondRpc 0 (w64 (s2.mail (at_ + 4) 4) :: (List.range 30).map q)

/-- The ring is empty, both ways: the kernel's command is the next that Basecamp takes. -/
def State.ringIdle (s : State) : Bool := !s.ringPosted && s.mail 0xC010 4 == s.mail 0xC018 4

/-- R376: an OP that the table does not name is answered 0x50. -/
def execRpcManagement (s : State) : Out :=
  if 8 ≤ s.rpcOp ∨ s.rpcOp = 0 then rpc s.rpcOp true s (s.respondRpc 0x50 [])
  else rpc 7 (s.ringIdle && !(s.broadcasting && (s.rpcArg 0).toNat % 2 ^ 32 == 6)) s s.rpcManage

end Sys2Proof.Machine
end

