-- ==== Sys2Proof/Machine/Integer.lean ====
section
/-!
DEFINITION. The integer and address instructions (R76 to R84).
-/

namespace Sys2Proof.Machine

/-- The number of one bits (R83). -/
def bitCount (a : Word) : Nat := (List.range 64).foldl (fun n i => if a.getLsbD i then n + 1 else n) 0

/-- R78. -/
def execAdd (d a b : Reg) (s : State) : Out := aluR (fun a b => a + b) d a b s

/-- R78. -/
def execSub (d a b : Reg) (s : State) : Out := aluR (fun a b => a - b) d a b s

/-- R78. -/
def execAnd (d a b : Reg) (s : State) : Out := aluR (fun a b => a &&& b) d a b s

/-- R78. -/
def execOr (d a b : Reg) (s : State) : Out := aluR (fun a b => a ||| b) d a b s

/-- R78. -/
def execXor (d a b : Reg) (s : State) : Out := aluR (fun a b => a ^^^ b) d a b s

/-- R78. -/
def execSll (d a b : Reg) (s : State) : Out := aluR (fun a b => sll a (cnt6 b)) d a b s

/-- R78. -/
def execSrl (d a b : Reg) (s : State) : Out := aluR (fun a b => srl a (cnt6 b)) d a b s

/-- R78. -/
def execSra (d a b : Reg) (s : State) : Out := aluR (fun a b => sra a (cnt6 b)) d a b s

/-- R78. -/
def execRol (d a b : Reg) (s : State) : Out := aluR (fun a b => rol a (cnt6 b)) d a b s

/-- R78. -/
def execRor (d a b : Reg) (s : State) : Out := aluR (fun a b => ror a (cnt6 b)) d a b s

/-- R78. -/
def execSlt (d a b : Reg) (s : State) : Out := aluR (fun a b => bool64 (a.slt b)) d a b s

/-- R78. -/
def execSltu (d a b : Reg) (s : State) : Out := aluR (fun a b => bool64 (a < b)) d a b s

/-- R78. -/
def execMin (d a b : Reg) (s : State) : Out := aluR (minS) d a b s

/-- R78. -/
def execMax (d a b : Reg) (s : State) : Out := aluR (maxS) d a b s

/-- R78. -/
def execMinu (d a b : Reg) (s : State) : Out := aluR (minU) d a b s

/-- R78. -/
def execMaxu (d a b : Reg) (s : State) : Out := aluR (maxU) d a b s

/-- R80. -/
def execAddw (d a b : Reg) (s : State) : Out := aluW (fun a b => a + b) d a b s

/-- R80. -/
def execSubw (d a b : Reg) (s : State) : Out := aluW (fun a b => a - b) d a b s

/-- R80. -/
def execSllw (d a b : Reg) (s : State) : Out := aluW (fun a b => a <<< cnt5 b) d a b s

/-- R80. -/
def execSrlw (d a b : Reg) (s : State) : Out := aluW (fun a b => a >>> cnt5 b) d a b s

/-- R80. -/
def execSraw (d a b : Reg) (s : State) : Out := aluW (fun a b => a.sshiftRight (cnt5 b)) d a b s

/-- R81. -/
def execMul (d a b : Reg) (s : State) : Out := aluR (fun a b => a * b) d a b s

/-- R81. -/
def execMulh (d a b : Reg) (s : State) : Out := aluR (mulh) d a b s

/-- R81. -/
def execMulhu (d a b : Reg) (s : State) : Out := aluR (mulhu) d a b s

/-- R81, R82. -/
def execDiv (d a b : Reg) (s : State) : Out := aluR divS d a b s

/-- R81, R82. -/
def execDivu (d a b : Reg) (s : State) : Out := aluR divU d a b s

/-- R81, R82. -/
def execRem (d a b : Reg) (s : State) : Out := aluR remS d a b s

/-- R81, R82. -/
def execRemu (d a b : Reg) (s : State) : Out := aluR remU d a b s

/-- R81. -/
def execMulw (d a b : Reg) (s : State) : Out := aluW (fun a b => a * b) d a b s

/-- R81, R82: the 32-bit operands, then sext of the 32-bit result. -/
def execDivw (d a b : Reg) (s : State) : Out := aluW divS d a b s

/-- R81, R82: the 32-bit operands, then sext of the 32-bit result. -/
def execDivuw (d a b : Reg) (s : State) : Out := aluW divU d a b s

/-- R81, R82: the 32-bit operands, then sext of the 32-bit result. -/
def execRemw (d a b : Reg) (s : State) : Out := aluW remS d a b s

/-- R81, R82: the 32-bit operands, then sext of the 32-bit result. -/
def execRemuw (d a b : Reg) (s : State) : Out := aluW remU d a b s

/-- R79; with rd = x0 and imm12 not 0 it is a hint and changes nothing else (R46). -/
def execAddi (d a : Reg) (i : BitVec 12) (s : State) : Out := aluI (fun a => a + imm12 i) d a s

/-- R79; with rd = x0 and imm12 not 0 it is a hint and changes nothing else (R46). -/
def execAndi (d a : Reg) (i : BitVec 12) (s : State) : Out := aluI (fun a => a &&& imm12 i) d a s

/-- R79; with rd = x0 and imm12 not 0 it is a hint and changes nothing else (R46). -/
def execXori (d a : Reg) (i : BitVec 12) (s : State) : Out := aluI (fun a => a ^^^ imm12 i) d a s

/-- R79; with rd = x0 and imm12 not 0 it is a hint and changes nothing else (R46). -/
def execSlti (d a : Reg) (i : BitVec 12) (s : State) : Out := aluI (fun a => bool64 (a.slt (imm12 i))) d a s

/-- R79; with rd = x0 and imm12 not 0 it is a hint and changes nothing else (R46). -/
def execSltiu (d a : Reg) (i : BitVec 12) (s : State) : Out := aluI (fun a => bool64 (a < imm12 i)) d a s

/-- R79; with rd = x0 and imm12 not 0 it is a hint and changes nothing else (R46). -/
def execOri (d a : Reg) (i : BitVec 12) (s : State) : Out := aluI (fun a => a ||| imm12 i) d a s

/-- R79. -/
def execSlli (d a : Reg) (h : BitVec 6) (s : State) : Out := aluI (fun a => sll a h.toNat) d a s

/-- R79. -/
def execSrli (d a : Reg) (h : BitVec 6) (s : State) : Out := aluI (fun a => srl a h.toNat) d a s

/-- R79. -/
def execSrai (d a : Reg) (h : BitVec 6) (s : State) : Out := aluI (fun a => sra a h.toNat) d a s

/-- R79. -/
def execRori (d a : Reg) (h : BitVec 6) (s : State) : Out := aluI (fun a => ror a h.toNat) d a s

/-- R80. -/
def execAddiw (d a : Reg) (i : BitVec 12) (s : State) : Out := aluWI (fun a => a + i.signExtend 32) d a s

/-- R80. -/
def execSlliw (d a : Reg) (h : BitVec 5) (s : State) : Out := aluWI (fun a => a <<< h.toNat) d a s

/-- R80. -/
def execSrliw (d a : Reg) (h : BitVec 5) (s : State) : Out := aluWI (fun a => a >>> h.toNat) d a s

/-- R80. -/
def execSraiw (d a : Reg) (h : BitVec 5) (s : State) : Out := aluWI (fun a => a.sshiftRight h.toNat) d a s

/-- R84. -/
def execLui (d : Reg) (i : BitVec 20) (s : State) : Out := finish 4 s fun t => t.wx d (imm20 i)

/-- R84: pc is the address of the AUIPC. -/
def execAuipc (d : Reg) (i : BitVec 20) (s : State) : Out := finish 4 s fun t => t.wx d (t.pc + imm20 i)

/-- R83. -/
def execClz (d a : Reg) (s : State) : Out := aluI (fun a => BitVec.ofNat 64 (clzFrom a 64)) d a s

/-- R83. -/
def execCtz (d a : Reg) (s : State) : Out := aluI (fun a => BitVec.ofNat 64 (ctzFrom a 64)) d a s

/-- R83. -/
def execPopc (d a : Reg) (s : State) : Out := aluI (fun a => BitVec.ofNat 64 (bitCount a)) d a s

/-- R83. -/
def execBswap (d a : Reg) (s : State) : Out := aluI (fun a => bswap a) d a s

/-- R83. -/
def execSextI8 (d a : Reg) (s : State) : Out := aluI (fun a => (a.setWidth 8).signExtend 64) d a s

/-- R83. -/
def execSextI16 (d a : Reg) (s : State) : Out := aluI (fun a => (a.setWidth 16).signExtend 64) d a s

/-- R83. -/
def execSextI32 (d a : Reg) (s : State) : Out := aluI (fun a => (a.setWidth 32).signExtend 64) d a s

/-- R83. -/
def execZextN8 (d a : Reg) (s : State) : Out := aluI (fun a => (a.setWidth 8).setWidth 64) d a s

/-- R83. -/
def execZextN16 (d a : Reg) (s : State) : Out := aluI (fun a => (a.setWidth 16).setWidth 64) d a s

/-- R83. -/
def execZextN32 (d a : Reg) (s : State) : Out := aluI (fun a => (a.setWidth 32).setWidth 64) d a s

/-- R83. -/
def execSel (d a b c : Reg) (s : State) : Out := finish 4 s fun t => t.wx d (if t.rx c ≠ 0#64 then t.rx a else t.rx b)

/-- R83. -/
def execShadd (d a b : Reg) (h : BitVec 2) (s : State) : Out := aluR (fun a b => (a <<< h.toNat) + b) d a b s

/-- R83. -/
def execMkva (d a b : Reg) (s : State) : Out := aluR (fun a b => setDie a (b.setWidth 4)) d a b s

/-- R83. -/
def execMkvai (d a : Reg) (i : BitVec 4) (s : State) : Out := aluI (fun a => setDie a i) d a s

end Sys2Proof.Machine
end

