-- ==== Sys2Proof/Machine/Loader.lean ====
section
/-!
DEFINITION. The loader of code objects: what the device kernel does for RPC 0x02 (R71, R73 to R75).
-/

namespace Sys2Proof.Machine

/-! ### The object -/

/-- A little-endian field of a file; bytes beyond its end read 0. -/
def field (f : List Byte) (o n : Nat) : Nat := valOf ((f.drop o).take n)

/-- A PT_LOAD segment: R, W, X flags, virtual address, the bytes of the file, and the size in memory. -/
structure Segment where
  flags : Nat
  va : Word
  bytes : List Byte
  size : Nat
deriving DecidableEq, Repr

/-- Program headers of a type: their offsets. -/
def headers (f : List Byte) (ty : Nat) : List Nat :=
  ((List.range (field f 56 2)).map fun i => field f 32 8 + 56 * i).filter fun h => field f h 4 == ty

/-- R74 step 1: the header of R71, with program headers and segments within the file. -/
def headerOk (f : List Byte) : Bool :=
  decide (64 ≤ f.length) && field f 0 4 == 0x464C457F && field f 4 1 == 2 && field f 5 1 == 1 && field f 6 1 == 1 &&
    field f 16 2 == 2 && field f 18 2 == 0x0D6C && field f 48 4 == 0 && field f 54 2 == 56 &&
    decide (field f 32 8 + 56 * field f 56 2 ≤ f.length) &&
    (headers f 1).all fun h => decide (field f (h + 8) 8 + field f (h + 32) 8 ≤ f.length)

/-- `n` rounded up to a multiple of 4. -/
def pad4 (n : Nat) : Nat := (n + 3) / 4 * 4

/-- A feature-level note stands at `o` (R73); its reserved bytes must be 0 (log 80). -/
def isNote (f : List Byte) (o : Nat) : Bool :=
  field f o 4 == 7 && field f (o + 4) 4 == 8 && field f (o + 8) 4 == 1 && field f (o + 12) 8 == 0x6C6572736143 && field f (o + 24) 4 == 0

/-- The feature-level notes among the notes from `o` to `e`. -/
def notesIn (f : List Byte) (e : Nat) : (fuel : Nat) → (o : Nat) → List Nat
  | 0, _ => []
  | fuel + 1, o =>
    if e < o + 12 then []
    else
      let rest := notesIn f e fuel (o + 12 + pad4 (field f o 4) + pad4 (field f (o + 4) 4))
      if isNote f o ∧ o + 28 ≤ e then o :: rest else rest

/-- The feature-level notes among `n` bytes from `o`. -/
def notesFrom (f : List Byte) (o n : Nat) : List Nat := notesIn f (min f.length (o + n)) (f.length / 12 + 1) o

/-- The feature-level notes of the PT_NOTE segments. -/
def notes (f : List Byte) : List Nat := (headers f 4).flatMap fun h => notesFrom f (field f (h + 8) 8) (field f (h + 32) 8)

/-- The section headers: their offsets. -/
def sections (f : List Byte) : List Nat := (List.range (field f 60 2)).map fun i => field f 40 8 + field f 58 2 * i

/-- The feature-level notes of the note sections, which have type 7. -/
def sectionNotes (f : List Byte) : List Nat :=
  ((sections f).filter fun h => field f (h + 4) 4 == 7).flatMap fun h => notesFrom f (field f (h + 24) 8) (field f (h + 32) 8)

/-- The name of a section: `.note.casrel` and the zero byte behind it. -/
def noteName : List Byte := [0x2E#8, 0x6E#8, 0x6F#8, 0x74#8, 0x65#8, 0x2E#8, 0x63#8, 0x61#8, 0x73#8, 0x72#8, 0x65#8, 0x6C#8, 0#8]

/-- The note at `o` is the section `.note.casrel`. -/
def inSection (f : List Byte) (o : Nat) : Bool :=
  let names := field f ((sections f).getD (field f 62 2) 0 + 24) 8
  (sections f).any fun h => (f.drop (names + field f h 4)).take 13 == noteName && field f (h + 24) 8 == o && field f (h + 32) 8 == 28

/-- R73: the level that the one note declares, which no other section repeats; 0 for none. -/
def noteLevel (f : List Byte) : Nat :=
  match notes f with
  | [o] => if inSection f o && (sectionNotes f).all (· == o) then field f (o + 20) 4 else 0
  | _ => 0

def segments (f : List Byte) : List Segment :=
  (headers f 1).map fun h =>
    ⟨field f (h + 4) 4, BitVec.ofNat 64 (field f (h + 16) 8), (f.drop (field f (h + 8) 8)).take (field f (h + 32) 8), field f (h + 40) 8⟩

/-- The table of R71: X 1, W 2, R 4; and the segment can be mapped, which R256 does up to offset 2^48 (log 81). -/
def Segment.fits (g : Segment) : Bool :=
  let d := dieOf g.va
  g.va.extractLsb' 56 8 == 0#8 && decide (g.bytes.length ≤ g.size) && decide (offOf g.va + g.size ≤ 2 ^ 48) &&
    ((d == 15 && (g.flags == 5 || g.flags == 4 || g.flags == 6)) || ((decide (d < 8) || d == 14) && g.flags == 6))

/-- R74.  DEDUCED: a segment of size 0 strictly inside another overlaps it (log 81). -/
def Segment.overlaps (g h : Segment) : Bool :=
  decide (g.va.toNat < h.va.toNat + h.size ∧ h.va.toNat < g.va.toNat + g.size)

/-- R74 step 4 for a segment of context `c`. -/
def State.placed (s : State) (c : Nat) (g : Segment) : Bool :=
  g.fits && (decide (8 ≤ dieOf g.va) || (s.setOf c).contains (dieOf g.va)) &&
    (dieOf g.va != 14 || (decide (offOf g.va + g.size ≤ 0x10000) && s.grantedAt 8 (BitVec.ofNat 12 c) (offOf g.va) g.size))

/-- R71: e_entry lies in an executable segment with DIE = 15. -/
def entryOk (f : List Byte) : Bool :=
  let e := field f 24 8
  (segments f).any fun g => g.flags == 5 && dieOf g.va == 15 && decide (g.va.toNat ≤ e ∧ e < g.va.toNat + g.size)

/-- The segments that stand on a layer. -/
def onLayer (f : List Byte) (l : Nat) : List Segment := (segments f).filter fun g => dieOf g.va == 15 || dieOf g.va == l

/-! ### Placing (R75) -/

/-- A frame that reads zero. -/
def State.clearFrame (s : State) (l pa : Nat) : State := s.kstore l pa (List.replicate 4096 0#8)

/-- The next free frame from `pa` on, where `used` lists the pages of a layer that are taken. -/
def nextFrame (used : List Nat) : (fuel : Nat) → (pa : Nat) → Nat
  | 0, pa => pa
  | fuel + 1, pa => if used.contains (pa / 4096) then nextFrame used fuel (pa + 4096) else pa

def frameAfter (used : List Nat) (pa : Nat) : Nat := nextFrame used used.length (pa + 4096)

/-- A page that is mapped already keeps its frame, and its entry becomes that of the object (log 62). -/
def remap (e perm : Word) : Word := (e &&& ~~~ 0xE3E#64) ||| perm

/-- The `n` entries, each for `size` bytes, that map what the leaf `e` maps (R256, R257). -/
def splitLeaf (e : Word) (size n : Nat) : List Byte :=
  (List.range n).flatMap fun i =>
    bytesOf 8 ((e &&& ~~~ 0x1FFFFFFFFF000#64) ||| w64 (pteFrame e / (n * size) * (n * size) + i * size)).toNat

/-- Maps the page at `off` under `table` of level `lvl`: the frame it has, or the next free one; and the next free one then.  A larger
page that holds it is split into pages of the next size first, so the flags reach the segment's pages alone (R75). -/
def State.mapPage (s : State) (l : Nat) (used : List Nat) (perm : Word) (off : Nat) : (lvl table free : Nat) → Nat × Nat × State
  | 0, table, free =>
    let idx := off / 4096 % 512
    let at_ := table + 8 * idx
    let whole := s.kread l at_
    let s := if pteV whole && pteC whole then s.kstore l (table + 8 * (idx / 16 * 16)) (splitLeaf whole 4096 16) else s
    let e := s.kread l at_
    if pteV e then (pteFrame e, free, s.kstore l at_ (bytesOf 8 (remap e perm).toNat))
    else (free, frameAfter used free, (s.clearFrame l free).kstore l at_ (bytesOf 8 (w64 free ||| perm).toNat))
  | lvl + 1, table, free =>
    let at_ := table + 8 * (off / 2 ^ (12 + 9 * (lvl + 1)) % 512)
    let e := s.kread l at_
    if pteV e && (pteR e || pteW e || pteX e) then
      ((s.kstore l free (splitLeaf e (2 ^ (12 + 9 * lvl)) 512)).kstore l at_ (bytesOf 8 (free + 1))).mapPage l used perm off lvl free
        (frameAfter used free)
    else if pteV e then s.mapPage l used perm off lvl (pteFrame e) free
    else ((s.clearFrame l free).kstore l at_ (bytesOf 8 (free + 1))).mapPage l used perm off lvl free (frameAfter used free)

/-- R75: write-back, P clear, R, W and X as the flags give them, A with W. -/
def Segment.perm (g : Segment) : Word :=
  w64 (1 + (if g.flags.testBit 2 then 2 else 0) + (if g.flags.testBit 1 then 4 + 16 else 0) + (if g.flags.testBit 0 then 8 else 0))

/-- What a page of a die field permits: what the segments on it do. -/
def pagePerm (gs : List Segment) (die page : Nat) : Word :=
  (gs.filter fun g => dieOf g.va == die && decide (offOf g.va / 4096 ≤ page ∧ 4096 * page < offOf g.va + g.size)).foldl
    (fun w g => w ||| g.perm) 0#64

/-- The bytes of a segment that lie in a page, with the offset of the first in the page. -/
def Segment.pageBytes (g : Segment) (page : Nat) : Nat × List Byte :=
  let first := offOf g.va
  let bs := g.bytes ++ List.replicate (g.size - g.bytes.length) 0#8
  if first ≤ 4096 * page then (0, (bs.drop (4096 * page - first)).take 4096) else (first % 4096, bs.take (4096 - first % 4096))

/-- The root of a die field's tables, made if there is none. -/
def State.rootFor (s : State) (l c die : Nat) (used : List Nat) (free : Nat) : Nat × Nat × State :=
  let at_ := 32 * c + (if die = 15 then 8 else 0)
  let e := s.kread l at_
  if pteV e then (pteFrame e, free, s) else (free, frameAfter used free, (s.clearFrame l free).kstore l at_ (bytesOf 8 (free + 1)))

/-- Maps and fills the pages of a segment on a layer, one of the segments `gs` there. -/
def State.placeSegment (s : State) (l c : Nat) (used : List Nat) (gs : List Segment) (free : Nat) (g : Segment) : Nat × State :=
  let (root, free, s) := s.rootFor l c (dieOf g.va) used free
  let p0 := offOf g.va / 4096
  (List.range ((offOf g.va + g.size + 4095) / 4096 - p0)).foldl (fun (acc : Nat × State) i =>
    let (frame, free, s) := acc.2.mapPage l used (pagePerm gs (dieOf g.va) (p0 + i)) (4096 * (p0 + i)) 3 root acc.1
    let (o, bs) := g.pageBytes (p0 + i)
    (free, s.kstore l (frame + o) bs)) (free, s)

/-- The first byte of a layer's memory beyond the context table and the tables of the system (R255). -/
def systemEnd : Nat := 0x40000

/-- The pages of a layer's kernel. -/
def kernelPages (l : Nat) : List Nat :=
  (List.range ((Config.kernelBase l % 4096 + (Config.kernelImage l).length + 4095) / 4096)).map (· + Config.kernelBase l / 4096)

/-- The pages of a layer's memory that are taken: the kernel's, those given to an object before, those that hold something or have a
write-back due. -/
def State.usedPages (s : State) (l : Nat) : List Nat :=
  let on (ks : List Nat) : List Nat := (ks.filter fun k => layerOfKey k == l).map fun k => paOfKey k / 4096
  (kernelPages l ++ (s.frames.filter fun e => e.1 == l).map (·.2) ++ on (s.hbm.map (·.1)) ++ on (s.l1d.map fun d => 16 * d.1) ++
    on (s.hs.map fun d => 16 * d.1)).eraseDups

/-- The segments of a layer are placed, with free frames from `frame` up; the next free one then. -/
def State.placeLayer (s : State) (l c frame : Nat) (f : List Byte) : Nat × State :=
  let used := s.usedPages l
  (onLayer f l).foldl (fun (acc : Nat × State) g => acc.2.placeSegment l c used (onLayer f l) acc.1 g) (nextFrame used used.length frame, s)

/-- The frames of a layer that a placement has taken are the loader's. -/
def State.placeOn (s : State) (l c frame : Nat) (f : List Byte) : State :=
  let used := s.usedPages l
  let (end_, s') := s.placeLayer l c frame f
  { s' with frames := s'.frames ++
      (((List.range (end_ / 4096 - frame / 4096)).map (· + frame / 4096)).filter fun p => !used.contains p).map fun p => (l, p) }

/-- R75; translations and code that agents of the layers hold for the context go.  DESIGN CHOICE: a layer of the set that is asleep or fenced
is written at once, is not woken, and keeps what is written (log 62). -/
def State.loadObject (s : State) (c frame : Nat) (f : List Byte) : State :=
  (s.setOf c).foldl (fun s l =>
    let s := s.placeOn l c frame f
    ((s.dropXlat l (fun e => decide (e.tag.ctx = BitVec.ofNat 12 c)) (fun w => decide (w.tag.ctx = BitVec.ofNat 12 c))).dropCtx l (some c))) s

/-- The writes of at most 8 bytes, each at its alignment, that `bs` from `off` on make. -/
def ropeWrites : (fuel : Nat) → (off : Nat) → List Byte → List (Nat × List Byte)
  | 0, _, _ => []
  | fuel + 1, off, bs =>
    if bs.isEmpty then []
    else
      let n := if off % 8 = 0 ∧ 8 ≤ bs.length then 8 else 1
      (off, bs.take n) :: ropeWrites fuel (off + n) (bs.drop n)

/-- The `.rope` segments go to every replica and to the mirror, as ordered items of L0 (R75, R319); the answer waits for the last. -/
def State.placeRope (s : State) (f : List Byte) : State :=
  ((segments f).filter fun g => dieOf g.va == 14).foldl (fun s g =>
    (ropeWrites g.size (offOf g.va) (g.bytes ++ List.replicate (g.size - g.bytes.length) 0#8)).foldl (fun s w =>
      s.kernelItem { Item.blank with op := .rst, off := w.1, n := w.2.length, val := BitVec.ofNat 64 (valOf w.2) }) s) s

/-! ### The status (R74) -/

/-- Pages of a layer's segments. -/
def pagesFor (f : List Byte) (l : Nat) : Nat :=
  (onLayer f l).foldl (fun n g => n + ((offOf g.va + g.size + 4095) / 4096 - offOf g.va / 4096)) 0

/-- R74 step 5: the layer's memory holds the segments and the tables they need, in free frames from `frame` up. -/
def State.hasMemory (s : State) (l c frame : Nat) (f : List Byte) : Bool :=
  decide (4096 * pagesFor f l ≤ hbmEnd) && decide ((s.placeLayer l c frame f).1 ≤ hbmEnd)

def State.haveMemory (s : State) (c frame : Nat) (f : List Byte) : Bool := (s.setOf c).all fun l => s.hasMemory l c frame f

/-- R74: the loader's status. -/
def State.loadStatus (s : State) (c : Nat) (f : List Byte) : Nat :=
  if !headerOk f || noteLevel f == 0 then 0x40
  else if 3 < noteLevel f then 0x19
  else if !((segments f).all (s.placed c) && (segments f).Pairwise (fun g h => g.overlaps h = false) && entryOk f) then 0x41
  else if !s.haveMemory c systemEnd f then 0x42
  else 0

/-! ### The request -/

/-- A byte of BAR2 as the kernel reads it, if its window entry is valid. -/
def State.windowByte (s : State) (off : Nat) : Option Byte :=
  let e := s.windowEntry off
  if weV e then some (s.peek (physKey (weLayer e) (weFrame e + off % 2 ^ 21))) else none

def State.windowBytes (s : State) (off : Nat) : (n : Nat) → Option (List Byte)
  | 0 => some []
  | n + 1 =>
    match s.windowByte off, s.windowBytes (off + 1) n with
    | some b, some r => some (b :: r)
    | _, _ => none

/-- The object that the request names: its context and its bytes, if the arguments are good. -/
def State.rpcObject (s : State) : Option (Nat × List Byte) :=
  let c := (s.rpcArg 0).toNat
  let off := (s.rpcArg 1).toNat
  let len := (s.rpcArg 2).toNat
  if 4096 ≤ c ∨ (s.setOf c).isEmpty ∨ 2 ^ 36 < off + len then none else (s.windowBytes off len).map fun f => (c, f)

/-- The frame from which the kernel takes free frames on each layer: `frame` if enough are free above it. -/
def State.firstFrame (s : State) (c frame : Nat) (f : List Byte) : Nat :=
  if systemEnd ≤ frame ∧ s.haveMemory c frame f then frame else systemEnd

/-- R376 OP 0x02; the kernel takes free frames of each layer from `frame` up. -/
def State.rpcLoad (s : State) (frame : Nat) : State :=
  match s.rpcObject with
  | none => s.respondRpc badArgument []
  | some (c, f) =>
    let st := s.loadStatus c f
    if st ≠ 0 then s.respondRpc st []
    else
      let s := (s.loadObject c (s.firstFrame c frame f) f).placeRope f
      if s.rpcItem.isSome then s else s.respondRpc 0 []

/-- R74. -/
def execRpcLoadCodeObject (frame : Nat) (s : State) : Out := rpc 2 (frame % 4096 == 0) s (s.rpcLoad frame)

end Sys2Proof.Machine
end

