-- ==== Sys2Proof/Machine/Vector.lean ====
section
/-!
DEFINITION. Vector instructions that compute: lanes and masks, integer and floating-point lanes, compares, permutes,
reductions and conversions (R149 to R163, R169).
-/

namespace Sys2Proof.Machine

/-! ### Lanes (R149, R150) -/

/-- The lane width of the integer column of R41. -/
def wdBits (w : BitVec 2) : Nat := 8 * 2 ^ w.toNat

/-- The format of the floating-point column of R41. -/
def wdFmt (w : BitVec 2) : Fmt :=
  match w.toNat with
  | 0 => fp16
  | 1 => bf16
  | 2 => fp32
  | _ => fp64

/-- Lanes of `w` bits. -/
def lanesOf (w : Nat) : Nat := 512 / w

/-- Lane `i` of width `w`. -/
def lane (v : Line) (w i : Nat) : Nat := v.toNat / 2 ^ (w * i) % 2 ^ w

/-- The value whose `n` lanes from lane `i` on are `f i`, `f (i + 1)`, … -/
def packLanes (w : Nat) (f : Nat → Nat) : Nat → Nat → Nat
  | 0, _ => 0
  | n + 1, i => f i % 2 ^ w + 2 ^ w * packLanes w f n (i + 1)

/-- A register from its lanes. -/
def ofLanes (w : Nat) (f : Nat → Nat) : Line := BitVec.ofNat 512 (packLanes w f (lanesOf w) 0)

/-- The active lanes become `f i`, the others keep their value in `old` (R150). -/
def maskLanes (w : Nat) (km : Word) (old : Line) (f : Nat → Nat) : Line :=
  ofLanes w fun i => if km.getLsbD i then f i else lane old w i

/-- The active lanes, in order. -/
def activeLanes (w : Nat) (km : Word) : List Nat := (List.range (lanesOf w)).filter fun i => km.getLsbD i

/-- The flags of the active lanes (R152). -/
def laneFlags (w : Nat) (km : Word) (f : Nat → FRes) : Nat := (activeLanes w km).foldl (fun a i => a ||| (f i).2) 0

/-! ### Integer lanes (R153) -/

/-- vd := f(vs1, vs2) on the active lanes. -/
def vecInt (f : (n : Nat) → BitVec n → BitVec n → BitVec n) (bits : Word) (len : Nat) (w : BitVec 2) (k : BitVec 3)
    (d a b : Reg) (s : State) : Out :=
  needs 2#3 bits s
    (finish len s fun t =>
      let n := wdBits w
      let x := t.rv a
      let y := t.rv b
      t.wv d (maskLanes n (t.rk k) (t.rv d) fun i =>
        (f n (BitVec.ofNat n (lane x n i)) (BitVec.ofNat n (lane y n i))).toNat))

def opAdd (n : Nat) (a b : BitVec n) : BitVec n := a + b
def opSub (n : Nat) (a b : BitVec n) : BitVec n := a - b
def opMul (n : Nat) (a b : BitVec n) : BitVec n := a * b
def opMulh (n : Nat) (a b : BitVec n) : BitVec n := BitVec.ofInt n (a.toInt * b.toInt / 2 ^ n)
def opMin (n : Nat) (a b : BitVec n) : BitVec n := if a.slt b then a else b
def opMax (n : Nat) (a b : BitVec n) : BitVec n := if a.slt b then b else a
def opMinu (n : Nat) (a b : BitVec n) : BitVec n := if a < b then a else b
def opMaxu (n : Nat) (a b : BitVec n) : BitVec n := if a < b then b else a
def opAnd (n : Nat) (a b : BitVec n) : BitVec n := a &&& b
def opOr (n : Nat) (a b : BitVec n) : BitVec n := a ||| b
def opXor (n : Nat) (a b : BitVec n) : BitVec n := a ^^^ b
def opSll (n : Nat) (a b : BitVec n) : BitVec n := a <<< (b.toNat % n)
def opSrl (n : Nat) (a b : BitVec n) : BitVec n := a >>> (b.toNat % n)
def opSra (n : Nat) (a b : BitVec n) : BitVec n := a.sshiftRight (b.toNat % n)

/-- R153. -/
def execVadd (w : BitVec 2) (k : BitVec 3) (d a b : Reg) (s : State) : Out := vecInt opAdd (encode (.vadd w k d a b)).bits 4 w k d a b s
/-- R153. -/
def execVsub (w : BitVec 2) (k : BitVec 3) (d a b : Reg) (s : State) : Out := vecInt opSub (encode (.vsub w k d a b)).bits 4 w k d a b s
/-- R153. -/
def execVmul (w : BitVec 2) (k : BitVec 3) (d a b : Reg) (s : State) : Out := vecInt opMul (encode (.vmul w k d a b)).bits 4 w k d a b s
/-- R153. -/
def execVmulh (w : BitVec 2) (k : BitVec 3) (d a b : Reg) (s : State) : Out := vecInt opMulh (encode (.vmulh w k d a b)).bits 4 w k d a b s
/-- R153. -/
def execVmin (w : BitVec 2) (k : BitVec 3) (d a b : Reg) (s : State) : Out := vecInt opMin (encode (.vmin w k d a b)).bits 4 w k d a b s
/-- R153. -/
def execVmax (w : BitVec 2) (k : BitVec 3) (d a b : Reg) (s : State) : Out := vecInt opMax (encode (.vmax w k d a b)).bits 4 w k d a b s
/-- R153. -/
def execVminu (w : BitVec 2) (k : BitVec 3) (d a b : Reg) (s : State) : Out := vecInt opMinu (encode (.vminu w k d a b)).bits 4 w k d a b s
/-- R153. -/
def execVmaxu (w : BitVec 2) (k : BitVec 3) (d a b : Reg) (s : State) : Out := vecInt opMaxu (encode (.vmaxu w k d a b)).bits 4 w k d a b s
/-- R153. -/
def execVand (w : BitVec 2) (k : BitVec 3) (d a b : Reg) (s : State) : Out := vecInt opAnd (encode (.vand w k d a b)).bits 4 w k d a b s
/-- R153. -/
def execVor (w : BitVec 2) (k : BitVec 3) (d a b : Reg) (s : State) : Out := vecInt opOr (encode (.vor w k d a b)).bits 4 w k d a b s
/-- R153. -/
def execVxor (w : BitVec 2) (k : BitVec 3) (d a b : Reg) (s : State) : Out := vecInt opXor (encode (.vxor w k d a b)).bits 4 w k d a b s
/-- R153. -/
def execVsll (w : BitVec 2) (k : BitVec 3) (d a b : Reg) (s : State) : Out := vecInt opSll (encode (.vsll w k d a b)).bits 4 w k d a b s
/-- R153. -/
def execVsrl (w : BitVec 2) (k : BitVec 3) (d a b : Reg) (s : State) : Out := vecInt opSrl (encode (.vsrl w k d a b)).bits 4 w k d a b s
/-- R153. -/
def execVsra (w : BitVec 2) (k : BitVec 3) (d a b : Reg) (s : State) : Out := vecInt opSra (encode (.vsra w k d a b)).bits 4 w k d a b s

/-! ### Floating-point lanes (R152, R154) -/

/-- A vector floating-point instruction that rounds by FCSR.RM: VEN, then the mode (R115). -/
def withVecMode (bits : Word) (s : State) (k : Nat → Out) : Out :=
  needs 2#3 bits s
    (match s.th.mode 5#3 with
     | some m => k m
     | none => badRm bits s)

/-- The active lanes of vd become the results of `f`, with its flags (R152). -/
def vecWrite (len w : Nat) (km : Word) (d : Reg) (f : Nat → FRes) (s : State) : Out :=
  fpFinish len (laneFlags w km f) s fun t => t.wv d (maskLanes w km (t.rv d) fun i => (f i).1)

/-- vd := op(vs1, vs2), rounded by FCSR.RM. -/
def vecFp (op : Fmt → Nat → FVal → FVal → FRes) (bits : Word) (len : Nat) (w : BitVec 2) (k : BitVec 3) (d a b : Reg)
    (s : State) : Out :=
  withVecMode bits s fun m =>
    let f := wdFmt w
    let n := f.width
    let x := s.th.rv a
    let y := s.th.rv b
    vecWrite len n (s.th.rk k) d (fun i => op f m (f.decode (lane x n i)) (f.decode (lane y n i))) s

/-- a − b. -/
def subFp (f : Fmt) (m : Nat) (x y : FVal) : FRes := f.add m x y.neg

/-- R154. -/
def execVfadd (w : BitVec 2) (k : BitVec 3) (d a b : Reg) (s : State) : Out := vecFp Fmt.add (encode (.vfadd w k d a b)).bits 4 w k d a b s
/-- R154. -/
def execVfsub (w : BitVec 2) (k : BitVec 3) (d a b : Reg) (s : State) : Out := vecFp subFp (encode (.vfsub w k d a b)).bits 4 w k d a b s
/-- R154. -/
def execVfmul (w : BitVec 2) (k : BitVec 3) (d a b : Reg) (s : State) : Out := vecFp Fmt.mul (encode (.vfmul w k d a b)).bits 4 w k d a b s
/-- R154. -/
def execVfdiv (w : BitVec 2) (k : BitVec 3) (d a b : Reg) (s : State) : Out := vecFp Fmt.div (encode (.vfdiv w k d a b)).bits 4 w k d a b s

/-- VFMIN and VFMAX do not read FCSR.RM (R154). -/
def vecMinMax (max : Bool) (bits : Word) (len : Nat) (w : BitVec 2) (k : BitVec 3) (d a b : Reg) (s : State) : Out :=
  needs 2#3 bits s
    (let f := wdFmt w
     let n := f.width
     let x := s.th.rv a
     let y := s.th.rv b
     vecWrite len n (s.th.rk k) d (fun i => f.minMax max (lane x n i) (lane y n i)) s)

/-- R154. -/
def execVfmin (w : BitVec 2) (k : BitVec 3) (d a b : Reg) (s : State) : Out := vecMinMax false (encode (.vfmin w k d a b)).bits 4 w k d a b s
/-- R154. -/
def execVfmax (w : BitVec 2) (k : BitVec 3) (d a b : Reg) (s : State) : Out := vecMinMax true (encode (.vfmax w k d a b)).bits 4 w k d a b s
/-- R154. -/
def execVfsqrt (w : BitVec 2) (k : BitVec 3) (d a : Reg) (s : State) : Out :=
  vecFp (fun f m x _ => f.sqrt m x) (encode (.vfsqrt w k d a)).bits 4 w k d a a s

/-! ### Approximations (R155) -/

/-- Significant bits of an approximation. -/
def Fmt.approxPrec (f : Fmt) : Nat := min f.prec 12

/-- Rounds m × 2^e once to `approxPrec` significant bits within the exponent range of the format. -/
def Fmt.roundApprox (f : Fmt) (rm : Nat) (neg : Bool) (m : Nat) (e : Int) : FRes :=
  let p := f.approxPrec
  let qn := e + bitLen m - p
  let q := if qn < f.qmin then f.qmin else qn
  let (sig, exact) := roundAt rm neg m e q
  let r := f.round rm false neg sig q
  if r.2 ≠ 0 then r
  else
    let (t, _) := roundAt rm neg m e qn
    let tiny := qn + bitLen t < f.qmin + f.prec
    (r.1, (if exact then 0 else fINX) + (if tiny ∧ !exact then fUNF else 0))

/-- 1/a. -/
def Fmt.recip (f : Fmt) (rm : Nat) (a : FVal) : FRes :=
  match a with
  | .nan s => (f.nan, if s then fINV else 0)
  | .inf n => (f.signBit n, 0)
  | .fin n m e =>
    if m = 0 then (f.inf n, fDVZ)
    else
      let k := f.prec + 4 + bitLen m
      let (m', e') := stick (2 ^ k / m) (-e - k) (2 ^ k % m != 0)
      f.roundApprox rm n m' e'

/-- 1/√a. -/
def Fmt.rsqrt (f : Fmt) (rm : Nat) (a : FVal) : FRes :=
  match a with
  | .nan s => (f.nan, if s then fINV else 0)
  | .inf n => if n then (f.nan, fINV) else (f.signBit false, 0)
  | .fin n m e =>
    if m = 0 then (f.inf n, fDVZ)
    else if n then (f.nan, fINV)
    else
      let (m, e) := if e % 2 = 0 then (m, e) else (2 * m, e - 1)
      let k := f.prec + 4 + bitLen m
      let r := isqrtBits (2 ^ (2 * k) / m) (k + 1) 0
      let (m', e') := stick r (-(e / 2) - k) (r * r * m != 2 ^ (2 * k))
      f.roundApprox rm false m' e'

/-- ln 2 × 2^192. -/
def ln2Fixed : Nat := 0xb17217f7d1cf79abc9e3b39803f2f6af40f343267298b62d

/-- Terms x^k / k! of the exponential series, in units of 2^-192, summed until they vanish. -/
def expTerms (x : Nat) : Nat → Nat → Nat → Nat → Nat
  | 0, _, _, acc => acc
  | fuel + 1, k, term, acc =>
    let t := term * x / 2 ^ 192 / k
    if t = 0 then acc else expTerms x fuel (k + 1) t (acc + t)

/-- 2^(y / 2^192) × 2^192 for 0 ≤ y < 2^192, with an error below 2^-180 in the value. -/
def exp2Frac (y : Nat) : Nat := expTerms (y * ln2Fixed / 2 ^ 192) 80 1 (2 ^ 192) (2 ^ 192)

/-- 2^a (R155).  A power that is not an integer is irrational: it is never exact and never a tie. -/
def Fmt.exp2 (f : Fmt) (rm : Nat) (a : FVal) : FRes :=
  match a with
  | .nan s => (f.nan, if s then fINV else 0)
  | .inf n => if n then (f.signBit false, 0) else (f.inf false, 0)
  | .fin n m e =>
    if m = 0 then f.roundApprox rm false 1 0
    else if (4096 : Int) ≤ FVal.toInt (min e 0) (.fin false m e) / 2 ^ (-(min e 0)).toNat then
      f.roundApprox rm false 1 (if n then -5000 else 5000)
    else if e + bitLen m < -14 then
      let (m', e') := if n then stick (2 ^ 100 - 1) (-100) true else stick (2 ^ 100) (-100) true
      f.roundApprox rm false m' e'
    else
      let y := FVal.toInt (-192) (.fin n m e)
      let i := y / 2 ^ 192
      let fr := (y % 2 ^ 192).toNat
      if fr = 0 then f.roundApprox rm false 1 i
      else
        let (m', e') := stick (exp2Frac fr) (i - 192) true
        f.roundApprox rm false m' e'

/-- R155. -/
def execVfrcp (w : BitVec 2) (k : BitVec 3) (d a : Reg) (s : State) : Out :=
  vecFp (fun f m x _ => f.recip m x) (encode (.vfrcp w k d a)).bits 4 w k d a a s
/-- R155. -/
def execVfrsq (w : BitVec 2) (k : BitVec 3) (d a : Reg) (s : State) : Out :=
  vecFp (fun f m x _ => f.rsqrt m x) (encode (.vfrsq w k d a)).bits 4 w k d a a s
/-- R155. -/
def execVfexp2 (w : BitVec 2) (k : BitVec 3) (d a : Reg) (s : State) : Out :=
  vecFp (fun f m x _ => f.exp2 m x) (encode (.vfexp2 w k d a)).bits 4 w k d a a s

/-! ### Fused multiply-add (R156) -/

def vecFma (negP negC : Bool) (bits : Word) (w : BitVec 2) (k : BitVec 3) (d a b : Reg) (s : State) : Out :=
  withVecMode bits s fun m =>
    let f := wdFmt w
    let n := f.width
    let x := s.th.rv a
    let y := s.th.rv b
    let z := s.th.rv d
    vecWrite 4 n (s.th.rk k) d (fun i =>
      let p := f.decode (lane x n i)
      let c := f.decode (lane z n i)
      f.fma m (if negP then p.neg else p) (f.decode (lane y n i)) (if negC then c.neg else c)) s

/-- R156. -/
def execVfma (w : BitVec 2) (k : BitVec 3) (d a b : Reg) (s : State) : Out := vecFma false false (encode (.vfma w k d a b)).bits w k d a b s
/-- R156. -/
def execVfms (w : BitVec 2) (k : BitVec 3) (d a b : Reg) (s : State) : Out := vecFma false true (encode (.vfms w k d a b)).bits w k d a b s
/-- R156. -/
def execVfnma (w : BitVec 2) (k : BitVec 3) (d a b : Reg) (s : State) : Out := vecFma true true (encode (.vfnma w k d a b)).bits w k d a b s
/-- R156. -/
def execVfnms (w : BitVec 2) (k : BitVec 3) (d a b : Reg) (s : State) : Out := vecFma true false (encode (.vfnms w k d a b)).bits w k d a b s

/-! ### Compares and select (R157, R158) -/

/-- The mask whose bit i is set for the active lanes where `f` holds. -/
def maskOf (w : Nat) (km : Word) (f : Nat → Bool) : Word :=
  (activeLanes w km).foldl (fun m i => if f i then m ||| oneBit i else m) 0#64

def vecCmp (rel : (n : Nat) → BitVec n → BitVec n → Bool) (bits : Word) (w : BitVec 2) (k d : BitVec 3) (a b : Reg) (s : State) : Out :=
  needs 2#3 bits s
    (finish 4 s fun t =>
      let n := wdBits w
      let x := t.rv a
      let y := t.rv b
      t.wk d (maskOf n (t.rk k) fun i => rel n (BitVec.ofNat n (lane x n i)) (BitVec.ofNat n (lane y n i))))

/-- R157. -/
def execVcmpeq (w : BitVec 2) (k d : BitVec 3) (a b : Reg) (s : State) : Out := vecCmp (fun _ x y => x == y) (encode (.vcmpeq w k d a b)).bits w k d a b s
/-- R157. -/
def execVcmpne (w : BitVec 2) (k d : BitVec 3) (a b : Reg) (s : State) : Out := vecCmp (fun _ x y => x != y) (encode (.vcmpne w k d a b)).bits w k d a b s
/-- R157. -/
def execVcmplt (w : BitVec 2) (k d : BitVec 3) (a b : Reg) (s : State) : Out := vecCmp (fun _ x y => x.slt y) (encode (.vcmplt w k d a b)).bits w k d a b s
/-- R157. -/
def execVcmple (w : BitVec 2) (k d : BitVec 3) (a b : Reg) (s : State) : Out := vecCmp (fun _ x y => x.sle y) (encode (.vcmple w k d a b)).bits w k d a b s
/-- R157. -/
def execVcmpltu (w : BitVec 2) (k d : BitVec 3) (a b : Reg) (s : State) : Out := vecCmp (fun _ x y => x.ult y) (encode (.vcmpltu w k d a b)).bits w k d a b s
/-- R157. -/
def execVcmpleu (w : BitVec 2) (k d : BitVec 3) (a b : Reg) (s : State) : Out := vecCmp (fun _ x y => x.ule y) (encode (.vcmpleu w k d a b)).bits w k d a b s

/-- A floating-point compare: false for any NaN; a kd of k0 discards the mask, and the flags are raised (R157). -/
def vecFpCmp (quiet : Bool) (rel : FVal → FVal → Bool) (bits : Word) (w : BitVec 2) (k d : BitVec 3) (a b : Reg) (s : State) : Out :=
  needs 2#3 bits s
    (let f := wdFmt w
     let n := f.width
     let x (i : Nat) : FVal := f.decode (lane (s.th.rv a) n i)
     let y (i : Nat) : FVal := f.decode (lane (s.th.rv b) n i)
     let nan (i : Nat) : Bool := (x i).isNan || (y i).isNan
     let fl := laneFlags n (s.th.rk k) fun i => (0, if quiet then snanFlag [x i, y i] else if nan i then fINV else 0)
     fpFinish 4 fl s fun t => t.wk d (maskOf n (t.rk k) fun i => !nan i && rel (x i) (y i)))

/-- R157. -/
def execVfcmpeq (w : BitVec 2) (k d : BitVec 3) (a b : Reg) (s : State) : Out := vecFpCmp true FVal.eq (encode (.vfcmpeq w k d a b)).bits w k d a b s
/-- R157. -/
def execVfcmplt (w : BitVec 2) (k d : BitVec 3) (a b : Reg) (s : State) : Out := vecFpCmp false FVal.lt (encode (.vfcmplt w k d a b)).bits w k d a b s
/-- R157. -/
def execVfcmple (w : BitVec 2) (k d : BitVec 3) (a b : Reg) (s : State) : Out :=
  vecFpCmp false (fun x y => x.lt y || x.eq y) (encode (.vfcmple w k d a b)).bits w k d a b s

/-- R158: every lane is written. -/
def execVsel (w : BitVec 2) (k : BitVec 3) (d a b : Reg) (s : State) : Out :=
  needs 2#3 (encode (.vsel w k d a b)).bits s
    (finish 4 s fun t => t.wv d (maskLanes (wdBits w) (t.rk k) (t.rv b) fun i => lane (t.rv a) (wdBits w) i))

/-! ### Permute, broadcast and element access (R159) -/

/-- R159. -/
def execVbcast (w : BitVec 2) (k : BitVec 3) (d a : Reg) (s : State) : Out :=
  needs 2#3 (encode (.vbcast w k d a)).bits s
    (finish 4 s fun t => t.wv d (maskLanes (wdBits w) (t.rk k) (t.rv d) fun _ => (t.rx a).toNat))
/-- R159: the lane index is x[vs2 field]. -/
def execVextr (w : BitVec 2) (d a b : Reg) (s : State) : Out :=
  needs 2#3 (encode (.vextr w d a b)).bits s
    (finish 4 s fun t =>
      let n := wdBits w
      t.wx d ((BitVec.ofNat n (lane (t.rv a) n ((t.rx b).toNat % lanesOf n))).signExtend 64))
/-- R159: lane j, with j from x[vs2 field], takes x[vs1 field]. -/
def execVinsr (w : BitVec 2) (d a b : Reg) (s : State) : Out :=
  needs 2#3 (encode (.vinsr w d a b)).bits s
    (finish 4 s fun t =>
      let n := wdBits w
      t.wv d (ofLanes n fun i => if i = (t.rx b).toNat % lanesOf n then (t.rx a).toNat else lane (t.rv d) n i))
/-- R159. -/
def execVperm (w : BitVec 2) (k : BitVec 3) (d a b : Reg) (s : State) : Out :=
  needs 2#3 (encode (.vperm w k d a b)).bits s
    (finish 4 s fun t =>
      let n := wdBits w
      t.wv d (maskLanes n (t.rk k) (t.rv d) fun i => lane (t.rv a) n (lane (t.rv b) n i % lanesOf n)))

/-! ### Reductions (R160, R161) -/

/-- Lane 0 takes the result; the other lanes become 0. -/
def lane0 (v : Nat) : Line := BitVec.ofNat 512 v

def vecRed (f : (n : Nat) → BitVec n → BitVec n → BitVec n) (unit : (n : Nat) → BitVec n) (bits : Word) (w : BitVec 2)
    (k : BitVec 3) (d a : Reg) (s : State) : Out :=
  needs 2#3 bits s
    (finish 4 s fun t =>
      let n := wdBits w
      let x := t.rv a
      t.wv d (lane0 ((activeLanes n (t.rk k)).foldl (fun r i => f n r (BitVec.ofNat n (lane x n i))) (unit n)).toNat))

/-- R160. -/
def execVredAdd (w : BitVec 2) (k : BitVec 3) (d a : Reg) (s : State) : Out := vecRed opAdd (fun _ => 0) (encode (.vredAdd w k d a)).bits w k d a s
/-- R160. -/
def execVredMin (w : BitVec 2) (k : BitVec 3) (d a : Reg) (s : State) : Out := vecRed opMin BitVec.intMax (encode (.vredMin w k d a)).bits w k d a s
/-- R160. -/
def execVredMax (w : BitVec 2) (k : BitVec 3) (d a : Reg) (s : State) : Out := vecRed opMax BitVec.intMin (encode (.vredMax w k d a)).bits w k d a s
/-- R160. -/
def execVredMinu (w : BitVec 2) (k : BitVec 3) (d a : Reg) (s : State) : Out := vecRed opMinu BitVec.allOnes (encode (.vredMinu w k d a)).bits w k d a s
/-- R160. -/
def execVredMaxu (w : BitVec 2) (k : BitVec 3) (d a : Reg) (s : State) : Out := vecRed opMaxu (fun _ => 0) (encode (.vredMaxu w k d a)).bits w k d a s

/-- One level of the tree: neighbours are combined; an absent node passes the other on unrounded. -/
def treeLevel (op : Nat → Nat → FRes) : List (Option Nat) → List (Option Nat) × Nat
  | l :: r :: rest =>
    let (ns, fl) := treeLevel op rest
    match l, r with
    | none, r => (r :: ns, fl)
    | l, none => (l :: ns, fl)
    | some x, some y => (some (op x y).1 :: ns, (op x y).2 ||| fl)
  | ns => (ns, 0)

/-- The tree of R161 over at most 2^levels nodes: the root and the flags. -/
def tree (op : Nat → Nat → FRes) : Nat → List (Option Nat) → Nat → Option Nat × Nat
  | 0, ns, fl => (ns.headD none, fl)
  | lv + 1, ns, fl =>
    let (ns', fl') := treeLevel op ns
    tree op lv ns' (fl ||| fl')

/-- R99: no NaN keeps its payload through an operation that the rule does not list. -/
def Fmt.canonical (f : Fmt) (v : Nat) : Nat := if (f.decode v).isNan then f.nan else v

/-- Lane 0 of vd := the root; an absent root gives `dflt`, and a NaN is the canonical one, a lone active lane's too (R99; log 87). -/
def vecFpRed (op : Nat → Nat → FRes) (dflt : Nat) (f : Fmt) (k : BitVec 3) (d a : Reg) (s : State) : Out :=
  let n := f.width
  let x := s.th.rv a
  let km := s.th.rk k
  let leaves := (List.range (lanesOf n)).map fun i => if km.getLsbD i then some (lane x n i) else none
  let (root, fl) := tree op 5 leaves 0
  fpFinish 4 fl s fun t => t.wv d (lane0 ((root.map f.canonical).getD dflt))

/-- R161: rounded by FCSR.RM. -/
def execVfredAdd (w : BitVec 2) (k : BitVec 3) (d a : Reg) (s : State) : Out :=
  withVecMode (encode (.vfredAdd w k d a)).bits s fun m =>
    let f := wdFmt w
    vecFpRed (fun x y => f.add m (f.decode x) (f.decode y)) 0 f k d a s
/-- R161. -/
def execVfredMin (w : BitVec 2) (k : BitVec 3) (d a : Reg) (s : State) : Out :=
  needs 2#3 (encode (.vfredMin w k d a)).bits s
    (vecFpRed ((wdFmt w).minMax false) ((wdFmt w).inf false) (wdFmt w) k d a s)
/-- R161. -/
def execVfredMax (w : BitVec 2) (k : BitVec 3) (d a : Reg) (s : State) : Out :=
  needs 2#3 (encode (.vfredMax w k d a)).bits s
    (vecFpRed ((wdFmt w).minMax true) ((wdFmt w).inf true) (wdFmt w) k d a s)

/-! ### Conversions (R107, R108, R162, R163) -/

/-- Element width for counting. -/
def eltWidth (code : Nat) : Nat :=
  match code with
  | 0 => 64
  | 1 => 32
  | 2 => 16
  | 3 => 16
  | 8 => 4
  | _ => 8

/-- Element `i` of a register in the layout of its format; FP6 in two planes (R103). -/
def elt (code : Nat) (v : Line) (i : Nat) : Nat :=
  if code = 6 ∨ code = 7 then lane v 4 i + 16 * (v.toNat / 2 ^ (256 + 2 * i) % 4)
  else lane v (eltWidth code) i

/-- Element `i` with the value `x`, and every other bit 0. -/
def eltBits (code : Nat) (i x : Nat) : Nat :=
  if code = 6 ∨ code = 7 then x % 16 * 2 ^ (4 * i) + x / 16 % 4 * 2 ^ (256 + 2 * i)
  else x % 2 ^ eltWidth code * 2 ^ (eltWidth code * i)

/-- An 8-bit signed integer. -/
def int8 (v : Nat) : Int := (BitVec.ofNat 8 v).toInt

/-- One element converted from format `src` to format `dst`. -/
def convertElt (dst src rm : Nat) (sat : Bool) (v : Nat) : FRes :=
  if src = 9 then (fmtOf dst).ofInt rm sat (int8 v)
  else if dst = 9 then
    let r := toIntRange rm (-128) 127 ((fmtOf src).decode v)
    ((BitVec.ofInt 8 r.1).toNat, r.2)
  else (fmtOf dst).convert rm sat ((fmtOf src).decode v)

/-- R162. -/
def execVcvt (u z : BitVec 4) (q : BitVec 1) (k : BitVec 3) (d a : Reg) (s : State) : Out :=
  legal (.vcvt u z q k d a) s
    (withVecMode (encode (.vcvt u z q k d a)).bits s fun m =>
      let dst := u.toNat
      let src := z.toNat
      let n := min 64 (512 / max (eltWidth dst) (eltWidth src))
      let x := s.th.rv a
      let km := s.th.rk k
      let act (i : Nat) : Bool := km.getLsbD i
      let cv (i : Nat) : FRes := convertElt dst src m (q == 1#1) (elt src x i)
      let fl := (List.range n).foldl (fun fl i => if act i then fl ||| (cv i).2 else fl) 0
      fpFinish 4 fl s fun t =>
        t.wv d (BitVec.ofNat 512 ((List.range n).foldl
          (fun v i => v + eltBits dst i (if act i then (cv i).1 else elt dst (t.rv d) i)) 0)))

/-- Signed integers of `n` bits to floating point of the same width (R163). -/
def vecOfInt (f : Fmt) (bits : Word) (k : BitVec 3) (d a : Reg) (s : State) : Out :=
  withVecMode bits s fun m =>
    vecWrite 4 f.width (s.th.rk k) d (fun i => f.ofInt m false (BitVec.ofNat f.width (lane (s.th.rv a) f.width i)).toInt) s

/-- Floating point to signed integers of the same width (R163). -/
def vecToInt (f : Fmt) (bits : Word) (k : BitVec 3) (d a : Reg) (s : State) : Out :=
  withVecMode bits s fun m =>
    let n := f.width
    vecWrite 4 n (s.th.rk k) d (fun i =>
      let r := toIntRange m (-2 ^ (n - 1)) (2 ^ (n - 1) - 1) (f.decode (lane (s.th.rv a) n i))
      ((BitVec.ofInt n r.1).toNat, r.2)) s

/-- R163. -/
def execVcvtF32I32 (k : BitVec 3) (d a : Reg) (s : State) : Out := vecOfInt fp32 (encode (.vcvtF32I32 k d a)).bits k d a s
/-- R163. -/
def execVcvtI32F32 (k : BitVec 3) (d a : Reg) (s : State) : Out := vecToInt fp32 (encode (.vcvtI32F32 k d a)).bits k d a s
/-- R163. -/
def execVcvtF64I64 (k : BitVec 3) (d a : Reg) (s : State) : Out := vecOfInt fp64 (encode (.vcvtF64I64 k d a)).bits k d a s
/-- R163. -/
def execVcvtI64F64 (k : BitVec 3) (d a : Reg) (s : State) : Out := vecToInt fp64 (encode (.vcvtI64F64 k d a)).bits k d a s

/-! ### Compact vector forms (R60, R169): vd := vd op vs2 on every lane -/

def hBits (d b : Reg) (op : BitVec 4) : Word := (packHV b d op).setWidth 64

/-- R60; the halfword 0x0000 is no instruction (R35). -/
def execHVaddI32 (d b : Reg) (s : State) : Out :=
  if d = 0#5 ∧ b = 0#5 then illegal 0#64 s else vecInt opAdd (hBits d b 0#4) 2 2#2 0#3 d d b s
/-- R60. -/
def execHVsubI32 (d b : Reg) (s : State) : Out := vecInt opSub (hBits d b 1#4) 2 2#2 0#3 d d b s
/-- R60. -/
def execHVaddI64 (d b : Reg) (s : State) : Out := vecInt opAdd (hBits d b 2#4) 2 3#2 0#3 d d b s
/-- R60. -/
def execHVandN64 (d b : Reg) (s : State) : Out := vecInt opAnd (hBits d b 3#4) 2 3#2 0#3 d d b s
/-- R60. -/
def execHVorN64 (d b : Reg) (s : State) : Out := vecInt opOr (hBits d b 4#4) 2 3#2 0#3 d d b s
/-- R60. -/
def execHVxorN64 (d b : Reg) (s : State) : Out := vecInt opXor (hBits d b 5#4) 2 3#2 0#3 d d b s
/-- R60. -/
def execHVminI32 (d b : Reg) (s : State) : Out := vecInt opMin (hBits d b 6#4) 2 2#2 0#3 d d b s
/-- R60. -/
def execHVmaxI32 (d b : Reg) (s : State) : Out := vecInt opMax (hBits d b 7#4) 2 2#2 0#3 d d b s
/-- R60. -/
def execHVfaddF32 (d b : Reg) (s : State) : Out := vecFp Fmt.add (hBits d b 8#4) 2 2#2 0#3 d d b s
/-- R60. -/
def execHVfsubF32 (d b : Reg) (s : State) : Out := vecFp subFp (hBits d b 9#4) 2 2#2 0#3 d d b s
/-- R60. -/
def execHVfmulF32 (d b : Reg) (s : State) : Out := vecFp Fmt.mul (hBits d b 10#4) 2 2#2 0#3 d d b s
/-- R60. -/
def execHVfminF32 (d b : Reg) (s : State) : Out := vecMinMax false (hBits d b 11#4) 2 2#2 0#3 d d b s
/-- R60. -/
def execHVfmaxF32 (d b : Reg) (s : State) : Out := vecMinMax true (hBits d b 12#4) 2 2#2 0#3 d d b s
/-- R60. -/
def execHVfaddBf16 (d b : Reg) (s : State) : Out := vecFp Fmt.add (hBits d b 13#4) 2 1#2 0#3 d d b s
/-- R60. -/
def execHVfmulBf16 (d b : Reg) (s : State) : Out := vecFp Fmt.mul (hBits d b 14#4) 2 1#2 0#3 d d b s
/-- R60: VOR.n64 vd, vs2, vs2. -/
def execHVmov (d b : Reg) (s : State) : Out := vecInt opOr (hBits d b 15#4) 2 3#2 0#3 d b b s

end Sys2Proof.Machine
end

