-- ==== Sys2Proof/Machine/VectorMemory.lean ====
section
/-!
DEFINITION. Vector loads and stores (R164 to R168).
-/

namespace Sys2Proof.Machine

/-! ### Lines -/

/-- The bytes that the active lanes of width `w` cover, as a byte mask. -/
def byteMask (w : Nat) (km : Word) : Word :=
  (activeLanes w km).foldl (fun m i => m ||| (BitVec.ofNat 64 (2 ^ (w / 8) - 1) <<< (w / 8 * i))) 0#64

/-- The bytes of a line whose mask bit is set. -/
def maskedBytes (v : Line) (mask : Word) : List Byte :=
  (List.range 64).flatMap fun i => if mask.getLsbD i then bytesOf 1 (lineGet v i 1) else []

def Thread.foldLine (t : Thread) (va : Word) (v : Line) (mask : Word) : Thread :=
  if t.paired then t.fold (bytesOf 8 va.toNat ++ maskedBytes v mask) else t

/-- A write of the masked bytes of a line: performed on the own layer, sent elsewhere, where it counts once in ors (R164); a line
that would add to ors waits while that is 256 (R21). -/
def State.writeLine (s : State) (unit : Nat) (va : Word) (v : Line) (mask : Word) (tg : Target) : Res Unit :=
  let send (pa mt : Nat) (s : State) : State :=
    s.sendNow { Packet.blank with kind := .line, unit := unit, va := va, n := 64, data := v, mask := mask, pa := pa, mt := mt, counted := 1 }
  match tg with
  | .mem key mt =>
    if s.raddWaits key 64 || s.deviceWaits mt then .stop s.await
    else if mt = 3 ∧ s.stallsAt (key / 16) (s.colour s.th) then .stop (s.want (key / 16) false).await
    else
      let s := s.storeLine (storeLevel s.myCore mt) (s.colour s.th) key v mask
      .ok () (s.setTh (((s.th.irrevIf mt).foldLine va v mask).sign va))
  | .rope _ => .stop (memTrap 0x0B .store unit va s)
  | .bd pa mt =>
    if 256 ≤ s.th.ors then .stop s.await
    else
      let s := send pa mt s
      let t := (s.th.irrevIf mt).foldLine va v mask
      .ok () (s.setTh ({ t with ors := t.ors + 1 }.sign va))
  | .away =>
    if 256 ≤ s.th.ors then .stop s.await
    else
      let (mt, s) := s.awayType va
      let s := (send 0 mt s).rdcStoreLine va v mask
      .ok () (s.setTh ({ ((s.th.irrevIf mt).foldLine va v mask) with ors := s.th.ors + 1 }.sign va))

/-! ### Checks -/

/-- The checks of one access that is read (R125); on another layer its home makes them, and answers before anything of the
instruction is accessed, with the line of a page that is no device's. -/
def State.checkRead (s : State) (unit : Nat) (va : Word) (n align : Nat) (merge : Bool) : Res Unit :=
  (s.check unit .load va n align 0 0).bind fun tg s =>
    match tg with
    | .bd pa _ => if bdMapped pa n || bdOutbound pa n then .ok () s else .stop (memTrap 0x09 .load unit va s)
    | .away =>
      if s.mustWait va.toNat n then .stop s.await
      else if va.toNat % align = 0 ∧ (s.rdcHit va).isSome then .ok () s
      else
        match s.answer (readKey va align) .load with
        | some a => if a.held.isSome ∨ a.cause ≠ 0 then (useAnswer a va n .load unit s).bind fun _ s => .ok () s else .ok () s
        | none => (s.readAwayLine unit .load va n align merge true).bind fun _ s => .ok () s
    | _ => .ok () s

/-- The keys of `got` that say which checks an instruction has made. -/
def checksKey : Nat := 256

/-- An answer that says only that the checks of a device page have passed. -/
def Answer.looked (a : Answer) : Bool := a.mt == 3 && a.cause == 0 && a.held.isNone

/-- Checks number `i` of an instruction that reads several elements, made once; whether a device page was among them on another layer is
kept as 2. -/
def State.checkOnce (s : State) (i : Nat) (f : State → Res Unit) : Res Unit :=
  if (Table.find s.th.got (checksKey + i)).isSome then .ok () s
  else (f s).bind fun _ s => .ok () (s.setTh { s.th with
    got := Table.put s.th.got (checksKey + i) (if s.th.answers.any Answer.looked then 2 else 1)
    answers := s.th.answers.filter fun a => !a.looked })

/-- The checks of one element that is written (R125). -/
def State.checkWrite (s : State) (va : Word) (n : Nat) : Res Target := s.checkPosted .store 1 va n n 0x0B 0

/-- Runs `f` on every element in order. -/
def eachOk {α : Type} (f : α → State → Res Unit) : List α → State → Res Unit
  | [], s => .ok () s
  | x :: r, s => (f x s).bind fun _ s => eachOk f r s

/-- Where each element that is written goes, in order. -/
def State.targets (s : State) (n : Nat) (va : Nat → Word) : List Nat → Res (List (Nat × Target))
  | [] => .ok [] s
  | i :: r => (s.checkWrite (va i) n).bind fun tg s => (s.targets n va r).bind fun l s => .ok ((i, tg) :: l) s

/-- Reads the elements in order, and puts each in its lane of `acc`. -/
def State.readLanes (s : State) (n : Nat) (va : Nat → Word) : List Nat → Table Nat → Res (Table Nat)
  | [], acc => .ok acc s
  | i :: r, acc => (s.readOnce i 1 (va i) (n / 8) (n / 8) false).bind fun v s => s.readLanes n va r (Table.put acc i v)

/-- An earlier element of this store has gone to the same line and counts there, with the number from which this store's requests
begin. -/
def State.linePacket (s : State) (from_ : Nat) (va : Word) : Option Packet :=
  s.packets.find? fun p => decide (from_ ≤ p.id) && p.src == s.cur && lineVa p.va == lineVa va && p.counted != 0

/-- The number from which the requests of the oldest store begin, which one that has waited in the middle remembers. -/
def State.firstRequest (s : State) : Nat := Table.at s.nextId s.th.got 0

/-- The last request of a line counts in ors for all of them. -/
def State.uncount (s : State) (p : Packet) : State := (s.setPacket { p with counted := 0 }).setTh { s.th with ors := s.th.ors - 1 }

/-- A line request for one element. -/
def State.sendElt (s : State) (va : Word) (n v : Nat) : Res Unit :=
  if 256 ≤ s.th.ors then .stop s.await
  else
    let o := va.toNat % 64
    let t := (s.th.foldStore va n v).sign va
    let (mt, s) := (s.setTh { t with ors := t.ors + 1 }).awayType va
    let s := (s.setTh (s.th.irrevIf mt)).sendNow { Packet.blank with
      kind := .line, unit := 1, va := BitVec.ofNat 64 (lineVa va), n := 64, data := lineSet 0#512 o n v, mask := byteSpan o n, mt := mt, counted := 1 }
    .ok () (s.rdcStore va n v)

/-- One element is written: performed on the own layer; sent to the BD alone; elsewhere the elements of a line that are written together, from
request `from_` on, go as one request, those of a device page while no other line comes between them (R164, R167).  A line counts once in ors for the store, whose requests begin at `first`; what would
add to ors waits while that is 256 (R21). -/
def State.writeElt (s : State) (first from_ : Nat) (va : Word) (n v : Nat) (tg : Target) : Res Unit :=
  match tg with
  | .mem _ _ => s.writeTo 1 va n v tg
  | .rope _ => s.writeTo 1 va n v tg
  | .bd _ _ =>
    match s.linePacket first va with
    | some p => (s.uncount p).writeTo 1 va n v tg
    | none => s.writeTo 1 va n v tg
  | .away =>
    match s.linePacket first va with
    | some p =>
      if from_ ≤ p.id ∧ (p.mt ≠ 3 ∨ p.id + 1 = s.nextId) then
        let o := va.toNat % 64
        let s := (s.setPacket { p with data := lineSet p.data o n v, mask := p.mask ||| byteSpan o n }).rdcStore va n v
        .ok () (s.setTh ((s.th.foldStore va n v).sign va))
      else (s.uncount p).sendElt va n v
    | none => s.sendElt va n v

/-- Writes checked elements in order by `w`.  Once one has been performed (`begun`), one that waits keeps itself and the rest in
`plan`, and the instruction is not interrupted (R300); before, all are checked again. -/
def writePlan (w : Nat → Target → State → Res Unit) : (begun : Bool) → List (Nat × Target) → State → Res Unit
  | _, [], s => .ok () (s.setTh { s.th with plan := [] })
  | begun, e :: r, s =>
    match w e.1 e.2 s with
    | .ok _ s => writePlan w true r (s.setTh { s.th with sent := true })
    | .stop s => .stop (if begun && s.th.waiting then s.setTh { s.th with plan := e :: r } else s)

/-- Writes parts by `w`, which learns the number of the store's first request and of the next. -/
def runPlan (w : Nat → Nat → Nat → Target → State → Res Unit) (tgs : List (Nat × Target)) (s : State) : Res Unit :=
  let first := s.firstRequest
  match writePlan (w first s.nextId) (s.th.plan != []) tgs s with
  | .ok u s => .ok u s
  | .stop s => .stop (if s.th.plan = [] then s else s.setTh { s.th with got := [(0, first)] })

/-- Elements of `n` bytes by their numbers. -/
def writeElts (n : Nat) (va : Nat → Word) (v : Nat → Nat) (tgs : List (Nat × Target)) (s : State) : Res Unit :=
  runPlan (fun first from_ i tg s => s.writeElt first from_ (va i) n (v i) tg) tgs s

/-- What is still to write: all elements once they have been checked, else what the plan holds. -/
def State.planned (s : State) (checks : Res (List (Nat × Target))) : Res (List (Nat × Target)) :=
  if s.th.plan = [] then checks else .ok s.th.plan s

/-! ### Whole lines (R166) -/

/-- The pieces of a line (byte offset, bytes) that a load of the active lanes reads: of a device page the lanes one by one, else the sectors
that hold active lanes. -/
def activePieces (w : Nat) (km : Word) (device : Bool) : List (Nat × Nat) :=
  if device then (activeLanes w km).map fun i => (w / 8 * i, w / 8)
  else ((List.range 4).filter fun j => (byteMask w km >>> (16 * j)).setWidth 16 != 0#16).map fun j => (16 * j, 16)

/-- Reads pieces in order, each into its place of the line. -/
def State.readPieces (va : Word) : List (Nat × Nat) → Nat → State → Res Nat
  | [], acc, s => .ok acc s
  | e :: r, acc, s =>
    (s.readPart e.1 1 (va + BitVec.ofNat 64 e.1) e.2 1 false).bind fun v s => State.readPieces va r (acc + v * 2 ^ (8 * e.1)) s

/-- A line that is read in one step waits as a whole for the thread's RADDs and clears, its Rope writes, and its writes to the BD. -/
def State.lineWaits (s : State) (tg : Target) (va : Word) (pieces : List (Nat × Nat)) : Bool :=
  match tg with
  | .rope off => pieces.any fun e => s.myRope.any fun i => i.covers (off + e.1) e.2
  | .bd _ mt => s.bdWaits mt
  | _ => pieces.any fun e => s.mustWait (va.toNat + e.1) e.2

/-- The line lies on a device page; of another layer its home has said so. -/
def State.onDevice (s : State) (tg : Target) : Bool :=
  match tg with
  | .mem _ mt => mt == 3
  | .bd _ mt => mt == 3
  | .rope _ => false
  | .away => Table.find s.th.got checksKey == some 2

/-- R166: the line is read in one step (R229), but for the lanes of a device page (R164). -/
def execVld (w : BitVec 2) (k : BitVec 3) (d a : Reg) (s : State) : Out :=
  needs 2#3 (encode (.vld w k d a)).bits s
    (let n := wdBits w
     let km := s.th.rk k
     let va := s.th.rx a
     if activeLanes n km = [] then finish 4 s id
     else
       ((s.checkOnce 0 fun s => s.checkRead 1 va 64 64 false).bind fun _ s =>
         (s.check 1 .load va 64 64 0 0).bind fun tg s =>
           let device := s.onDevice tg
           let pieces := activePieces n km device
           let done (v : Nat) (s : State) : Res Unit :=
             .ok () (s.setTh ((s.th.wv d (maskLanes n km (s.th.rv d) fun i => lane (BitVec.ofNat 512 v) n i)).complete 4))
           if device then (State.readPieces va pieces 0 s).bind done
           else if s.lineWaits tg va pieces then .stop s.await
           else
             match tg with
             | .bd pa mt => (s.readBd 1 .load va 64 64 pa mt .load).bind done
             | _ => (State.readPieces va pieces 0 s).bind done).out)

/-- The number under which a plan has the whole line of a VST. -/
def wholeLine : Nat := 64

/-- What a VST writes: the line in one step (R229), or the active lanes of a device page one by one (R164). -/
def State.vstParts (s : State) (n : Nat) (km : Word) (va : Word) (tg : Target) : Res (List (Nat × Target)) :=
  let lanes (f : Nat → Target) : List (Nat × Target) := (activeLanes n km).map fun i => (i, f (n / 8 * i))
  match tg with
  | .mem key mt => .ok (if mt = 3 then lanes fun o => .mem (key + o) mt else [(wholeLine, tg)]) s
  | .bd pa mt => .ok (if mt = 3 then lanes fun o => .bd (pa + o) mt else [(wholeLine, tg)]) s
  | .rope _ => .ok [(wholeLine, tg)] s
  | .away =>
    let (mt, s) := s.awayType va
    .ok (if mt = 3 then lanes fun _ => tg else [(wholeLine, tg)]) s

/-- R166. -/
def execVst (w : BitVec 2) (k : BitVec 3) (d a : Reg) (s : State) : Out :=
  needs 2#3 (encode (.vst w k d a)).bits s
    (let n := wdBits w
     let km := s.th.rk k
     let va := s.th.rx a
     let v := s.th.rv d
     if activeLanes n km = [] then finish 4 s id
     else
       ((s.planned ((s.checkPosted .store 1 va 64 64 0x0B 0).bind fun tg s => s.vstParts n km va tg)).bind fun tgs s =>
         (runPlan (fun first from_ i tg s =>
             if i = wholeLine then s.writeLine 1 va v (byteMask n km) tg
             else s.writeElt first from_ (va + BitVec.ofNat 64 (n / 8 * i)) (n / 8) (lane v n i) tg) tgs s).bind fun _ s =>
           .ok () (s.setTh (s.th.complete 4))).out)

/-! ### Elements (R167) -/

/-- x[rs1] + i × x[rs2] (R167). -/
def strideVa (t : Thread) (a b : Reg) (i : Nat) : Word := t.rx a + BitVec.ofNat 64 i * t.rx b

/-- R167: all active elements are checked before any is read. -/
def execVlds (w : BitVec 2) (k : BitVec 3) (d a b : Reg) (s : State) : Out :=
  needs 2#3 (encode (.vlds w k d a b)).bits s
    (let n := wdBits w
     let km := s.th.rk k
     let va := strideVa s.th a b
     let ls := activeLanes n km
     if ls = [] then finish 4 s id
     else
       ((s.checkOnce 0 (eachOk (fun i s => s.checkRead 1 (va i) (n / 8) (n / 8) false) ls)).bind fun _ s =>
         (s.readLanes n va ls []).bind fun acc s =>
           .ok () (s.setTh ((s.th.wv d (maskLanes n km (s.th.rv d) fun i => Table.at 0 acc i)).complete 4))).out)

/-- R167: all active elements are checked before any is written; the higher lane's data remains. -/
def execVsts (w : BitVec 2) (k : BitVec 3) (d a b : Reg) (s : State) : Out :=
  needs 2#3 (encode (.vsts w k d a b)).bits s
    (let n := wdBits w
     let km := s.th.rk k
     let v := s.th.rv d
     let va := strideVa s.th a b
     let ls := activeLanes n km
     ((s.planned (s.targets (n / 8) va ls)).bind fun tgs s =>
       (writeElts (n / 8) va (lane v n) tgs s).bind fun _ s => .ok () (s.setTh (s.th.complete 4))).out)

/-! ### Gather and scatter (R168) -/

/-- x[rs1] + sext(lane i of vs2). -/
def gatherVa (t : Thread) (n : Nat) (a b : Reg) (i : Nat) : Word :=
  t.rx a + (BitVec.ofNat n (lane (t.rv b) n i)).signExtend 64

/-- How a loop over lanes ends: complete; stopped by lane `i` in a state, with what the loop has so far. -/
inductive Lanes (α : Type) where
  | done (a : α) (s : State)
  | stopped (i : Nat) (a : α) (s : State)

/-- The loop of R168. -/
def eachLane {α : Type} (f : Nat → α → State → Res α) : List Nat → α → State → Lanes α
  | [], a, s => .done a s
  | i :: r, a, s =>
    match f i a s with
    | .ok a' s' => eachLane f r a' s'
    | .stop s' => .stopped i a s'

/-- The instruction has restarted its region (R346): prg, RETRIED and pc have changed, and nothing else. -/
def restarted (s s' : State) : Bool := !s.th.region.getLsbD regionRetried && s'.th.region.getLsbD regionRetried

/-- R168: lanes before one that raises a cause, parks or waits stand in vd, and prg names that lane. -/
def execVgather (w : BitVec 2) (k : BitVec 3) (d a b : Reg) (s : State) : Out :=
  needs 2#3 (encode (.vgather w k d a b)).bits s
    (let n := wdBits w
     let km := s.th.rk k
     let va := gatherVa s.th n a b
     let ls := (activeLanes n km).filter fun i => decide (s.th.prg.toNat ≤ i)
     let put (t : Thread) (acc : Table Nat) : Thread :=
       if acc = [] then t
       else t.wv d (ofLanes n fun i => (Table.find acc i).getD (lane (t.rv d) n i))
     match eachLane (fun i (acc : Table Nat) s =>
         (s.readSpan 1 .load (va i) (n / 8) (n / 8) false).bind fun v s =>
           .ok (Table.put acc i v) (s.spend (va i) (n / 8))) ls [] s with
     | .done acc s' => .next (s'.setTh { (put s'.th acc).complete 4 with prg := 0 })
     | .stopped i acc s' =>
       .next (if restarted s s' then s' else s'.setTh { put s'.th acc with prg := BitVec.ofNat 7 i }))

/-- R168: lanes before one that raises a cause, parks or waits stand in memory, and prg names that lane; while lanes are being
performed the instruction is not interrupted (R300). -/
def execVscatter (w : BitVec 2) (k : BitVec 3) (d a b : Reg) (s : State) : Out :=
  needs 2#3 (encode (.vscatter w k d a b)).bits s
    (let n := wdBits w
     let km := s.th.rk k
     let v := s.th.rv d
     let va := gatherVa s.th n a b
     let ls := (activeLanes n km).filter fun i => decide (s.th.prg.toNat ≤ i)
     let first := s.firstRequest
     let from_ := s.nextId
     match eachLane (fun i (_ : Unit) s =>
         (s.checkWrite (va i) (n / 8)).bind fun tg s => s.writeElt first from_ (va i) (n / 8) (lane v n i) tg) ls () s with
     | .done _ s' => .next (s'.setTh { s'.th.complete 4 with prg := 0 })
     | .stopped i _ s' =>
       let t := { s'.th with prg := BitVec.ofNat 7 i }
       let goesOn := t.waiting && t.parked.isNone && (t.sent || ls.head? != some i)
       .next (s'.setTh { t with sent := goesOn, got := if goesOn then [(0, first)] else [] }))

end Sys2Proof.Machine
end

