-- ==== Sys2Proof/Machine/Tile.lean ====
section
/-!
DEFINITION. Tile instructions (R170 to R189): loads, weight planes, multiplies, accumulator arithmetic and stores, moves.
-/

namespace Sys2Proof.Machine

/-! ### What every tile instruction needs -/

/-- Runs `k` if the core's TE queue and the rename pools have room (R276, R279), else waits. -/
def withTe (tiles accs planes : Nat) (s : State) (k : Out) : Out := if s.teRoom tiles accs planes then k else .next s.await

/-- An executed tile instruction that is no array operation completes; the TE learns of its retirement (R281). -/
def Thread.tileDone (t : Thread) (tiles accs planes : Nat) : Thread := (t.teAppend 3 0 0 0 tiles accs planes).complete 4

/-- Registers of `poisoned` (R344): tile n, accumulator n, wp0 and wp1. -/
def poisonTile (n : BitVec 3) : Nat := n.toNat
def poisonAcc (n : BitVec 2) : Nat := 8 + n.toNat
def poisonWp0 : Nat := 12
def poisonWp1 : Nat := 13

/-- Runs `k` unless a register that the instruction reads is poisoned (R344, R346).  DEDUCED: a register has no address, so EVA is 0 and KIND
load (log 27). -/
def withClean (regs : List Nat) (s : State) (k : Out) : Out :=
  if s.th.poisoned.any regs.contains then
    .next (consumePoison 0#64 (memInfo false false false false .load 2 0) (s.setTh (s.th.cure poisonArray)))
  else k

/-! ### Tile and accumulator loads (R178, R179) -/

/-- x[rs1] + r × x[rs2]. -/
def rowVa (t : Thread) (a b : Reg) (r : Nat) : Word := t.rx a + BitVec.ofNat 64 r * t.rx b

/-- The addresses of `lines` lines from `va`. -/
def lineVas (va : Word) (lines : Nat) : List Word := (List.range lines).map fun j => va + BitVec.ofNat 64 (64 * j)

/-- Reads lines in order, numbered from `i`, each once: the value, the first line least significant. -/
def State.readLines (s : State) (i : Nat) : List Word → Res Nat
  | [] => .ok 0 s
  | va :: r => (s.readOnce i 2 va 64 64 true).bind fun v s =>
      (s.readLines (i + 1) r).bind fun w s => .ok (v + 2 ^ 512 * w) s

/-- Row r: every line is checked before any is read (R179). -/
def State.readRow (s : State) (r : Nat) (va : Word) (lines : Nat) : Res Nat :=
  (s.checkOnce r (eachOk (fun v s => s.checkRead 2 v 64 64 true) (lineVas va lines))).bind fun _ s => s.readLines (4 * r) (lineVas va lines)

/-- The key in `got` that says that this execution has read the rows below prg: 64 lines have the keys below it. -/
def wholeKey : Nat := 64

/-- The loop of R178: rows from prg on; rows before one that raises a cause, parks or waits stand, and prg names that row.
`finish` learns whether this execution has read all sixteen rows. -/
def loadRows (lines : Nat) (va : Nat → Word) (put : Thread → Nat → List Nat → Thread) (mark : Thread → Thread)
    (finish : Bool → Thread → Thread) (s : State) : Out :=
  let p := s.th.prg.toNat
  let whole := p == 0 || (Table.find s.th.got wholeKey).isSome
  let rows := (List.range (16 - p)).map (· + p)
  match eachLane (fun r (acc : List Nat) s => (s.readRow r (va r) lines).bind fun v s => .ok (acc ++ [v]) s) rows [] s with
  | .done acc s' => .next (s'.setTh { finish whole (put s'.th p acc) with prg := 0 })
  | .stopped r acc s' =>
    let t := put s'.th p acc
    let t := if t.waiting && t.parked.isNone && whole then { t with got := Table.put t.got wholeKey 1 } else t
    .next (if restarted s s' then s' else s'.setTh { (if r = 0 then t else mark t) with prg := BitVec.ofNat 7 r })

/-- R178: prg ≥ 16 reads nothing. -/
def execTld (d : BitVec 3) (a b : Reg) (s : State) : Out :=
  needs 4#3 (encode (.tld d a b)).bits s
    (withTe 1 0 0 s
      (loadRows 1 (rowVa s.th a b)
         (fun t p vs => if vs = [] then t else t.wRows d p (vs.map fun v => BitVec.ofNat 512 v))
         (fun t => t.dirty (tdirtyBit + d.toNat))
         (fun whole t => ((if whole then t.cure (poisonTile d) else t).foldTile d).tileDone 1 0 0) s))

/-- R178. -/
def execAcld (d : BitVec 2) (a b : Reg) (s : State) : Out :=
  needs 4#3 (encode (.acld d a b)).bits s
    (withTe 0 1 0 s
      (loadRows 4 (rowVa s.th a b)
         (fun t p vs => if vs = [] then t else t.waRows d p (vs.map fun v => BitVec.ofNat 2048 v))
         (fun t => t.dirty (adirtyBit + d.toNat))
         (fun whole t => ((if whole then t.cure (poisonAcc d) else t).foldAcc d).tileDone 0 1 0) s))

/-- R178: all 4 KiB become zero bits. -/
def execAczero (d : BitVec 2) (s : State) : Out :=
  needs 4#3 (encode (.aczero d)).bits s
    (withTe 0 1 0 s
      (.next (s.setTh ((((s.th.waRows d 0 (List.replicate 16 0#2048)).cure (poisonAcc d)).foldAcc d).tileDone 0 1 0))))

/-! ### Weight blocks (R172, R180, R181) -/

/-- K of a format's class. -/
def classK (f : Nat) : Nat := if f = 0 then 8 else if f = 2 ∨ f = 3 then 32 else if f = 8 then 128 else 64
/-- N. -/
def classN (f : Nat) : Nat := if f = 0 then 32 else 64

/-- Bits of a stored weight of a format; LC2 holds a code of 16 bits for eight. -/
def weightBits (f : Nat) : Nat := if f = 6 ∨ f = 7 then 4 else if f = 10 then 2 else eltWidth f

def dataBytes (f : Nat) : Nat := classK f * classN f * weightBits f / 8
def metaBytes (f : Nat) (sp : Bool) : Nat := if sp then 2 * classK f * classN f / 8 else 0
def scaleBytes (f : Nat) (sp mx : Bool) : Nat :=
  if mx then ((if sp then 2 * classK f else classK f) + 31) / 32 * classN f else 0

/-- The accesses that read `n` bytes from `va`, one for each line, in ascending order: the address, the bytes, the alignment
that is checked. -/
def spans : (fuel : Nat) → (va : Word) → (n align : Nat) → List (Word × Nat × Nat)
  | 0, _, _, _ => []
  | fuel + 1, va, n, align =>
    if n = 0 then []
    else
      let c := min n (64 - va.toNat % 64)
      (va, c, align) :: spans fuel (va + BitVec.ofNat 64 c) (n - c) 1

/-- The accesses of a block: the region sequence, 64-byte aligned, then the high plane, 16-byte aligned (R103, R182). -/
def blockSpans (f : Nat) (sp mx : Bool) (base high : Word) : List (Word × Nat × Nat) :=
  let n := dataBytes f + metaBytes f sp + scaleBytes f sp mx
  spans 130 base n 64 ++ (if f = 6 ∨ f = 7 then spans 20 high 1024 16 else [])

/-- Reads the spans in order, numbered from `i`, each once: the bytes as one number. -/
def State.readSpans (s : State) (i : Nat) : List (Word × Nat × Nat) → Res Nat
  | [] => .ok 0 s
  | (va, n, al) :: r => (s.readOnce i 2 va n al true).bind fun v s =>
      (s.readSpans (i + 1) r).bind fun w s => .ok (v + 2 ^ (8 * n) * w) s

/-- The plane that a block's bytes give: DATA (with the high plane of FP6 behind it), META and SCALES. -/
def planeOf (f : BitVec 4) (sp mx : Bool) (v : Nat) : Plane :=
  let d := 8 * dataBytes f.toNat
  let m := 8 * metaBytes f.toNat sp
  let c := 8 * scaleBytes f.toNat sp mx
  { fmt := f, sp := sp, mx := mx
    w := BitVec.ofNat 32768 (v % 2 ^ d + v / 2 ^ (d + m + c) * 2 ^ d)
    keep := BitVec.ofNat 8192 (v / 2 ^ d % 2 ^ m)
    scale := BitVec.ofNat 2048 (v / 2 ^ (d + m) % 2 ^ c) }

/-- R182: all lines are checked, then read; wp1 is written whole. -/
def execTwld (x p : BitVec 1) (f : BitVec 4) (a b : Reg) (s : State) : Out :=
  legal (.twld x p f a b) s
    (needs 4#3 (encode (.twld x p f a b)).bits s
      (withTe 0 0 1 s
        (let mx := x == 1#1
         let sp := p == 1#1
         let base := s.th.rx a
         let parts := blockSpans f.toNat sp mx base (base + s.th.rx b)
         ((s.checkOnce 0 (eachOk (fun (e : Word × Nat × Nat) s => s.checkRead 2 e.1 e.2.1 e.2.2 true) parts)).bind fun _ s =>
           (s.readSpans 0 parts).bind fun v s =>
             let c := s.cluster s.myCluster
             let s := s.setCluster s.myCluster { c with nextPlane := c.nextPlane + 1, twld := c.twld ++ [(s.cur, c.nextPlane, s.th.plane0, s.th.tag)] }
             let t := { s.th with wp1 := some (planeOf f sp mx v), plane1 := c.nextPlane, spare1 := Side.zero }
             .ok () (s.setTh (((t.dirty wdirtyBit).cure poisonWp1 |>.own poisonWp1).tileDone 0 0 1))).out)))

/-- The weight of the current thread's core at its cluster's array (R282). -/
def State.myWeight (s : State) : Nat := (s.cluster s.myCluster).engweight.toNat / 16 ^ (s.myCore % 8) % 16

/-- An array operation of a core whose weight is 0 neither starts nor faults (R282). -/
def withArray (accs : Nat) (s : State) (k : Out) : Out :=
  if s.myWeight = 0 then .next s.await else withTe 0 accs 0 s k

def swapPoison (l : List Nat) : List Nat :=
  l.map fun k => if k = poisonWp0 then poisonWp1 else if k = poisonWp1 then poisonWp0 else k

/-- R183. -/
def execTwswap (s : State) : Out :=
  needs 4#3 (encode .twswap).bits s
    (withArray 0 s
      (arrayDone s fun t =>
        { t with wp0 := t.wp1, wp1 := t.wp0, plane0 := t.plane1, plane1 := t.plane0, spare0 := t.spare1, spare1 := t.spare0, poisoned := swapPoison t.poisoned }.own poisonWp0 |>.own poisonWp1 |>.dirty wdirtyBit
          |>.teAppend 1 1 t.plane1 t.plane0 0 0 0))

/-! ### LC2 (R104, R105) -/

/-- Vectors of n digits 0, 1, 2 (magnitudes 0.5, 1.5, 2.5) whose costs 0, 1, 3 sum to w: the sum of squares is 2 + 2 w for
eight digits. -/
def lc2Count : Nat → Nat → Nat
  | 0, w => if w = 0 then 1 else 0
  | n + 1, w => lc2Count n w + (if 1 ≤ w then lc2Count n (w - 1) else 0) + (if 3 ≤ w then lc2Count n (w - 3) else 0)

/-- The i-th vector of n digits and cost w, in ascending lexicographic order. -/
def lc2Unrank : Nat → Nat → Nat → List Nat
  | 0, _, _ => []
  | n + 1, w, i =>
    let c0 := lc2Count n w
    let c1 := if 1 ≤ w then lc2Count n (w - 1) else 0
    if i < c0 then 0 :: lc2Unrank n w i
    else if i < c0 + c1 then 1 :: lc2Unrank n (w - 1) (i - c0)
    else 2 :: lc2Unrank n (w - 3) (i - c0 - c1)

/-- M[i] as digits, for increasing sums of squares. -/
def lc2Row : Nat → Nat → Nat → List Nat
  | 0, _, _ => []
  | fuel + 1, w, i =>
    let c := lc2Count 8 w
    if i < c then lc2Unrank 8 w i else lc2Row fuel (w + 1) (i - c)

/-- Element j of the code c. -/
def lc2Val (c j : Nat) : FVal :=
  let d := (lc2Row 8 0 (c / 256 % 256)).getD j 0
  let m := 2 * d + 1 - c % 2
  let bit (j : Nat) : Bool := c / 2 ^ (j + 1) % 2 == 1
  let neg := if j < 7 then bit j else ((List.range 7).filter bit).length % 2 == 1
  .fin (neg && m != 0) m (-1)

/-! ### Reading weights and A operands (R170, R181, R184) -/

/-- A value times 2^(scale − 127); a NaN scale gives NaN (R101, R102). -/
def scaled (sc : Nat) (v : FVal) : FVal :=
  if sc = 255 then .nan false
  else
    match v with
    | .fin n m e => .fin n m (e + sc - 127)
    | v => v

/-- An INT8 element as MXINT8: q × 2^-6. -/
def mxInt8 (v : Nat) : FVal := .fin (decide (int8 v < 0)) (int8 v).natAbs (-6)

/-- The bits of stored row j, column n. -/
def Plane.stored (p : Plane) (j n : Nat) : Nat :=
  let f := p.fmt.toNat
  let i := j * classN f + n
  let w := p.w.toNat
  if f = 6 ∨ f = 7 then w / 2 ^ (4 * i) % 16 + 16 * (w / 2 ^ (16384 + 2 * i) % 4)
  else w / 2 ^ (eltWidth f * i) % 2 ^ eltWidth f

/-- The stored value without its scale. -/
def Plane.value (p : Plane) (j n : Nat) : FVal :=
  let f := p.fmt.toNat
  if f = 10 then lc2Val (p.w.toNat / 2 ^ (16 * (64 * (j / 8) + n)) % 65536) (j % 8)
  else if f = 9 then mxInt8 (p.stored j n)
  else (fmtOf f).decode (p.stored j n)

/-- The stored row that holds W(k, n); none if it is pruned. -/
def Plane.rowOf (p : Plane) (k n : Nat) : Option Nat :=
  if p.sp then
    let q := k / 4
    let g := p.keep.toNat / 2 ^ (4 * (q * classN p.fmt.toNat + n)) % 16
    if k % 4 = g / 4 then some (2 * q + 1) else if k % 4 = g % 4 then some (2 * q) else none
  else some k

/-- W(k, n) with its scale; none if it is pruned. -/
def Plane.weight (p : Plane) (k n : Nat) : Option FVal :=
  (p.rowOf k n).map fun j =>
    if p.mx then scaled (p.scale.toNat / 2 ^ (8 * (k / 32 * classN p.fmt.toNat + n)) % 256) (p.value j n) else p.value j n

/-- Element k of a tile row. -/
def tileElt (f : Nat) (row : Line) (k : Nat) : Nat := lane row (eltWidth f) k

/-! ### The sums (R109 to R111) -/

/-- The product of two values; NaN where it is invalid. -/
def product (a b : FVal) : FVal := (mulVal a b).getD (.nan false)

/-- R109: the terms, their finite non-zero parts cut to multiples of 2^(E − G), rounded once. -/
def tileSum (f : Fmt) (g : Nat) (sat : Bool) (terms : List FVal) : Nat :=
  let isInf (n : Bool) (v : FVal) : Bool := match v with | .inf m => m == n | _ => false
  let pos := terms.any (isInf false)
  let neg := terms.any (isInf true)
  if terms.any FVal.isNan || (pos && neg) then f.nan
  else if pos then f.inf false
  else if neg then f.inf true
  else
    let nz := terms.filter fun v => !v.isZero
    match nz with
    | [] => f.signBit (terms.all FVal.sign)
    | v0 :: _ =>
      let top (v : FVal) : Int := match v with | .fin _ m e => e + bitLen m - 1 | _ => 0
      let e := nz.foldl (fun a v => if a < top v then top v else a) (top v0)
      let q := e - g
      let cut (v : FVal) : Int :=
        match v with
        | .fin n m x =>
          let k := if q ≤ x then m * 2 ^ (x - q).toNat else m / 2 ^ (q - x).toNat
          if n then -(k : Int) else k
        | _ => 0
      let s := nz.foldl (fun a v => a + cut v) 0
      if s = 0 then 0 else (f.round 0 sat (decide (s < 0)) s.natAbs q).1

/-- R111: modulo 2^32, or clamped. -/
def intSum (sat : Bool) (old : Nat) (ps : List Int) : Nat :=
  let s := ps.foldl (· + ·) (BitVec.ofNat 32 old).toInt
  let s := if sat then (if s < -2 ^ 31 then -2 ^ 31 else if 2 ^ 31 - 1 < s then 2 ^ 31 - 1 else s) else s
  (BitVec.ofInt 32 s).toNat

/-- What a multiply reads: its form (0 TMMA, 1 TMMA.SP, 2 TMMA.MX), format, sat, plane, A rows and row scales. -/
structure Multiply where
  form : Nat
  fmt : Nat
  sat : Bool
  plane : Plane
  tile0 : Nat → Line
  tile1 : Nat → Line
  scales : Line

/-- The bits of A(r, k), before the row scale. -/
def Multiply.aBits (m : Multiply) (r k : Nat) : Nat :=
  let kk := classK m.fmt
  if k < kk then tileElt m.fmt (m.tile0 r) k else tileElt m.fmt (m.tile1 r) (k - kk)

/-- A(r, k) (R184). -/
def Multiply.a (m : Multiply) (r k : Nat) : FVal :=
  let v := if m.fmt = 9 then mxInt8 (m.aBits r k) else (fmtOf m.fmt).decode (m.aBits r k)
  if m.form = 2 then scaled (lane m.scales 8 (classK m.fmt / 32 * r + k / 32)) v else v

/-- K_L. -/
def Multiply.depth (m : Multiply) : Nat := if m.form = 1 then 2 * classK m.fmt else classK m.fmt

/-- Element (r, n) of ad, from its old value (R184). -/
def Multiply.elt (m : Multiply) (old : Nat) (r n : Nat) : Nat :=
  let ks := List.range m.depth
  if m.fmt = 9 ∧ m.form ≠ 2 then
    intSum m.sat old (ks.filterMap fun k => (m.plane.rowOf k n).map fun j => int8 (m.aBits r k) * int8 (m.plane.stored j n))
  else
    let f := if m.fmt = 0 then fp64 else fp32
    let g := if m.fmt = 0 then 160 else 63
    tileSum f g m.sat (f.decode old :: ks.filterMap fun k => (m.plane.weight k n).map fun w => product (m.a r k) w)

/-- Elements of an accumulator row, of `w` bits. -/
def accElt (w : Nat) (row : BitVec 2048) (n : Nat) : Nat := row.toNat / 2 ^ (w * n) % 2 ^ w
def accRow (w : Nat) (f : Nat → Nat) : BitVec 2048 := BitVec.ofNat 2048 (packLanes w f (2048 / w) 0)

/-- The rows of an accumulator, each element replaced by `f row column old`. -/
def Thread.mapAcc (t : Thread) (d : BitVec 2) (w : Nat) (f : Nat → Nat → Nat → Nat) : Thread :=
  let rows := (List.range 16).map fun r => accRow w fun n => f r n (accElt w (t.arow d r) n)
  (t.waRows d 0 rows).foldAcc d

/-- The row of R106 that an A format, or a weight format, lies in. -/
def aClass (f : Nat) : Nat := if f = 0 then 0 else if f = 2 ∨ f = 3 then 1 else if f = 4 ∨ f = 5 then 2 else if f = 9 then 3 else 4
/-- The same of a weight format.  DESIGN CHOICE: a format that no plane has is in the row of E2M1 (log 106). -/
def wClass (f : Nat) : Nat := if f = 6 ∨ f = 7 ∨ f = 10 then 2 else aClass f

/-- The checks of R185 on a plane. -/
def planeFits (form fmt : Nat) (p : Plane) : Bool :=
  aClass fmt == wClass p.fmt.toNat && (p.sp == (form == 1)) && (form != 2 || p.mx) && (form == 2 || fmt != 9 || !p.mx)

/-- EINFO of cause 0x1A (R185). -/
def formatInfo (form fmt : Nat) (p : Option Plane) : Word :=
  BitVec.ofNat 64 (form * 1024 + fmt +
    (match p with
     | some p => (if p.mx then 512 else 0) + (if p.sp then 256 else 0) + p.fmt.toNat * 16
     | none => 240))

/-- Occupancy (R283). -/
def occupancy (fmt : Nat) : Nat := if fmt = 0 then 4 else 2

/-- A multiply (R184): poison of what it reads, the plane's checks, then every element of ad. -/
def multiply (form : Nat) (sat : BitVec 1) (f : BitVec 4) (d : BitVec 2) (a : BitVec 3) (scales : Line) (s : State) : Out :=
  let a1 := a + 1#3
  withArray 1 s
    (withClean ([poisonTile a, poisonAcc d, poisonWp0, poisonArray] ++ (if form = 1 then [poisonTile a1] else [])) s
      (let bad : Out := .next (raise 0x1A 0#64 (formatInfo form f.toNat s.th.wp0) s)
       match s.th.wp0 with
       | none => bad
       | some p =>
         if planeFits form f.toNat p then
           arrayDone s fun t =>
             let m : Multiply := ⟨form, f.toNat, sat == 1#1, p, t.row a, t.row a1, scales⟩
             (t.mapAcc d (if f = 0#4 then 64 else 32) fun r n old => m.elt old r n).teAppend 0 (occupancy f.toNat) t.plane0 d.toNat 0 1 0
         else bad))

/-- R184. -/
def execTmma (q : BitVec 1) (f : BitVec 4) (d : BitVec 2) (a : BitVec 3) (s : State) : Out :=
  legal (.tmma q f d a) s (needs 4#3 (encode (.tmma q f d a)).bits s (multiply 0 q f d a 0#512 s))
/-- R184: the pair t[ts1], t[(ts1 + 1) mod 8]. -/
def execTmmaSp (q : BitVec 1) (f : BitVec 4) (d : BitVec 2) (a : BitVec 3) (s : State) : Out :=
  legal (.tmmaSp q f d a) s (needs 4#3 (encode (.tmmaSp q f d a)).bits s (multiply 1 q f d a 0#512 s))
/-- R184: row scales in v[rs2]. -/
def execTmmaMx (q : BitVec 1) (f : BitVec 4) (d : BitVec 2) (a : BitVec 3) (b : Reg) (s : State) : Out :=
  legal (.tmmaMx q f d a b) s (needs 6#3 (encode (.tmmaMx q f d a b)).bits s (multiply 2 q f d a (s.th.rv b) s))

/-! ### Accumulator arithmetic (R187) -/

/-- An instruction that is no array operation waits for the multiplies that write its accumulator (R278, R282). -/
def withAcc (d : BitVec 2) (s : State) (k : Out) : Out := if s.th.accPending d then .next s.await else k

def accOp (m : BitVec 3) (bits : Word) (d : BitVec 2) (s : State) (k : Thread → Thread) : Out :=
  needs m bits s (withTe 0 1 0 s (withAcc d s (withClean [poisonAcc d] s (.next (s.setTh ((k s.th).tileDone 0 1 0))))))

/-- R187: fmt 0 FP64, 1 FP32. -/
def execAcscale (f : BitVec 1) (d : BitVec 2) (a : Reg) (s : State) : Out :=
  accOp 5#3 (encode (.acscale f d a)).bits d s fun t =>
    let m := if f = 0#1 then fp64 else fp32
    let x := m.decode ((t.rf a).toNat % 2 ^ m.width)
    t.mapAcc d m.width fun _ _ v => (m.mul 0 (m.decode v) x).1

/-- R187: .f32 from INT32; .f64 from the first 32 FP32 elements of each row. -/
def execAccvt (f : BitVec 1) (d : BitVec 2) (s : State) : Out :=
  accOp 4#3 (encode (.accvt f d)).bits d s fun t =>
    if f = 1#1 then t.mapAcc d 32 fun _ _ v => (fp32.ofInt 0 false (BitVec.ofNat 32 v).toInt).1
    else t.mapAcc d 64 fun r n _ => (fp64.convert 0 false (fp32.decode (accElt 32 (t.arow d r) n))).1

/-! ### Accumulator store (R186) -/

/-- Bytes of a stored row. -/
def acstBytes (f : Nat) : Nat := if f < 2 then 256 else if f < 4 then 128 else if f = 8 then 32 else 64

/-- Row r converted. -/
def acstRow (f : Nat) (sat : Bool) (row : BitVec 2048) : Nat :=
  if f < 2 then row.toNat
  else if f = 9 then
    packLanes 8 (fun n =>
      let v := (BitVec.ofNat 32 (accElt 32 row n)).toInt
      (BitVec.ofInt 8 (if sat then (if v < -128 then -128 else if 127 < v then 127 else v) else v)).toNat) 64 0
  else packLanes (eltWidth f) (fun n => ((fmtOf f).convert 0 sat (fp32.decode (accElt 32 row n))).1) 64 0

/-- A line or half of one of an earlier row of the thread has not been performed (R248). -/
def State.rowPending (s : State) : Bool := s.mine.any fun p => p.pending && p.unit == 2 && p.isStore

/-- Writes a whole line or half of one, checked before: performed on the own layer after the earlier rows, else sent as one
request (R177). -/
def State.writePiece (s : State) (va : Word) (n v : Nat) (tg : Target) : Res Unit :=
  match tg with
  | .mem _ _ => if s.rowPending then .stop s.await else s.writeTo 2 va n v tg
  | .away =>
    let o := va.toNat % 64
    s.writeLine 2 (BitVec.ofNat 64 (lineVa va)) (lineSet 0#512 o n v) (BitVec.ofNat 64 ((2 ^ n - 1) * 2 ^ o)) tg
  | _ => s.writeTo 2 va n v tg

/-- The lines of a row: offsets and bytes. -/
def rowPieces (n : Nat) : List (Nat × Nat) := (List.range ((n + 63) / 64)).map fun j => (64 * j, min 64 n)

/-- The checks of the lines of a row (R186): where each goes. -/
def State.rowTargets (s : State) (va : Word) (n : Nat) : List (Nat × Nat) → Res (List (Nat × Target))
  | [] => .ok [] s
  | e :: r =>
    let a := va + BitVec.ofNat 64 e.1
    (s.checkPosted .store 2 a e.2 (min 64 n) 0x0B 0).bind fun tg s =>
      (s.rowTargets va n r).bind fun l s => .ok ((e.1, tg) :: l) s

/-- One row of accumulator d: every line is checked, then the poison of d is met (R299), then the lines are written; a line that
would add to ors waits while that is 256 (R21). -/
def State.storeRow (s : State) (d : BitVec 2) (va : Word) (n v : Nat) : Res Unit :=
  (s.planned (s.rowTargets va n (rowPieces n))).bind fun tgs s =>
    if s.th.poisoned.contains (poisonAcc d) then .stop (consumePoison 0#64 (memInfo false false false false .load 2 0) s)
    else writePlan (fun o tg s => s.writePiece (va + BitVec.ofNat 64 o) (min 64 n) (v / 2 ^ (8 * o) % 2 ^ (8 * min 64 n)) tg)
      (s.th.plan != []) tgs s

/-- R186: rows from prg on; the rows before one that raises a cause, parks or waits are performed, and prg names that row.  While
rows are being performed the instruction is not interrupted (R300). -/
def execAcst (q : BitVec 1) (f : BitVec 4) (d : BitVec 2) (a b : Reg) (s : State) : Out :=
  legal (.acst q f d a b) s
    (needs 4#3 (encode (.acst q f d a b)).bits s
      (withTe 0 0 0 s (withAcc d s
        (let p := s.th.prg.toNat
         let n := acstBytes f.toNat
         let t0 := s.th
         let rows := (List.range (16 - p)).map (· + p)
         match eachLane (fun r (_ : Unit) s => s.storeRow d (rowVa t0 a b r) n (acstRow f.toNat (q == 1#1) (t0.arow d r))) rows () s with
         | .done _ s' => .next (s'.setTh { s'.th.tileDone 0 0 0 with prg := 0 })
         | .stopped r _ s' =>
           let t := { s'.th with prg := BitVec.ofNat 7 r }
           .next (if restarted s s' then s' else s'.setTh { t with sent := t.waiting && t.parked.isNone && (t.sent || decide (p < r)) })))))

/-! ### Moves and completion (R188, R189) -/

/-- R188: one row of a tile from a v register. -/
def execTmovTv (d : BitVec 3) (r : BitVec 4) (a : Reg) (s : State) : Out :=
  needs 6#3 (encode (.tmovTv d r a)).bits s
    (withTe 1 0 0 s
      (.next (s.setTh (((s.th.wRows d r.toNat [s.th.rv a]).foldTile d).tileDone 1 0 0))))
/-- R188: a v register from one row of a tile. -/
def execTmovVt (d : Reg) (a : BitVec 3) (r : BitVec 4) (s : State) : Out :=
  needs 6#3 (encode (.tmovVt d a r)).bits s
    (withTe 0 0 0 s
      (withClean [poisonTile a] s
        (.next (s.setTh ((s.th.wv d (s.th.row a r.toNat)).tileDone 0 0 0)))))

/-- Lines of earlier ACSTs of the thread that are not acknowledged (R189). -/
def State.acstPending (s : State) : Bool := s.mine.any fun p => p.unit == 2 && p.isStore

/-- A TWLD of the thread is in expansion (R182). -/
def State.expanding (s : State) : Bool := (s.cluster s.myCluster).twld.any fun w => w.1 == s.cur

/-- R189. -/
def execTsync (s : State) : Out :=
  needs 4#3 (encode .tsync).bits s
    (if s.th.te.all (fun e => e.done || e.op == 2) ∧ !s.acstPending ∧ !s.expanding then finish 4 s id else .next s.await)

end Sys2Proof.Machine
end

