-- ==== Sys2Proof/Machine/Dispatch.lean ====
section
/-!
DEFINITION. Dispatch: each constructor of `Instr` to its meaning.
-/

namespace Sys2Proof.Machine

def exec (i : Instr) (s : State) : Host.Outcome State Fault Refusal :=
  match i with
  | .add d a b => Sys2Proof.Machine.execAdd d a b s
  | .sub d a b => Sys2Proof.Machine.execSub d a b s
  | .and d a b => Sys2Proof.Machine.execAnd d a b s
  | .or d a b => Sys2Proof.Machine.execOr d a b s
  | .xor d a b => Sys2Proof.Machine.execXor d a b s
  | .sll d a b => Sys2Proof.Machine.execSll d a b s
  | .srl d a b => Sys2Proof.Machine.execSrl d a b s
  | .sra d a b => Sys2Proof.Machine.execSra d a b s
  | .rol d a b => Sys2Proof.Machine.execRol d a b s
  | .ror d a b => Sys2Proof.Machine.execRor d a b s
  | .slt d a b => Sys2Proof.Machine.execSlt d a b s
  | .sltu d a b => Sys2Proof.Machine.execSltu d a b s
  | .min d a b => Sys2Proof.Machine.execMin d a b s
  | .max d a b => Sys2Proof.Machine.execMax d a b s
  | .minu d a b => Sys2Proof.Machine.execMinu d a b s
  | .maxu d a b => Sys2Proof.Machine.execMaxu d a b s
  | .addw d a b => Sys2Proof.Machine.execAddw d a b s
  | .subw d a b => Sys2Proof.Machine.execSubw d a b s
  | .sllw d a b => Sys2Proof.Machine.execSllw d a b s
  | .srlw d a b => Sys2Proof.Machine.execSrlw d a b s
  | .sraw d a b => Sys2Proof.Machine.execSraw d a b s
  | .mul d a b => Sys2Proof.Machine.execMul d a b s
  | .mulh d a b => Sys2Proof.Machine.execMulh d a b s
  | .mulhu d a b => Sys2Proof.Machine.execMulhu d a b s
  | .div d a b => Sys2Proof.Machine.execDiv d a b s
  | .divu d a b => Sys2Proof.Machine.execDivu d a b s
  | .rem d a b => Sys2Proof.Machine.execRem d a b s
  | .remu d a b => Sys2Proof.Machine.execRemu d a b s
  | .mulw d a b => Sys2Proof.Machine.execMulw d a b s
  | .divw d a b => Sys2Proof.Machine.execDivw d a b s
  | .divuw d a b => Sys2Proof.Machine.execDivuw d a b s
  | .remw d a b => Sys2Proof.Machine.execRemw d a b s
  | .remuw d a b => Sys2Proof.Machine.execRemuw d a b s
  | .addi d a imm => Sys2Proof.Machine.execAddi d a imm s
  | .andi d a imm => Sys2Proof.Machine.execAndi d a imm s
  | .ori d a imm => Sys2Proof.Machine.execOri d a imm s
  | .xori d a imm => Sys2Proof.Machine.execXori d a imm s
  | .slti d a imm => Sys2Proof.Machine.execSlti d a imm s
  | .sltiu d a imm => Sys2Proof.Machine.execSltiu d a imm s
  | .slli d a h => Sys2Proof.Machine.execSlli d a h s
  | .srli d a h => Sys2Proof.Machine.execSrli d a h s
  | .srai d a h => Sys2Proof.Machine.execSrai d a h s
  | .rori d a h => Sys2Proof.Machine.execRori d a h s
  | .addiw d a imm => Sys2Proof.Machine.execAddiw d a imm s
  | .slliw d a h => Sys2Proof.Machine.execSlliw d a h s
  | .srliw d a h => Sys2Proof.Machine.execSrliw d a h s
  | .sraiw d a h => Sys2Proof.Machine.execSraiw d a h s
  | .phint a imm t => Sys2Proof.Machine.execPhint a imm t s
  | .lui d imm => Sys2Proof.Machine.execLui d imm s
  | .auipc d imm => Sys2Proof.Machine.execAuipc d imm s
  | .clz d a => Sys2Proof.Machine.execClz d a s
  | .ctz d a => Sys2Proof.Machine.execCtz d a s
  | .popc d a => Sys2Proof.Machine.execPopc d a s
  | .bswap d a => Sys2Proof.Machine.execBswap d a s
  | .sextI8 d a => Sys2Proof.Machine.execSextI8 d a s
  | .sextI16 d a => Sys2Proof.Machine.execSextI16 d a s
  | .sextI32 d a => Sys2Proof.Machine.execSextI32 d a s
  | .zextN8 d a => Sys2Proof.Machine.execZextN8 d a s
  | .zextN16 d a => Sys2Proof.Machine.execZextN16 d a s
  | .zextN32 d a => Sys2Proof.Machine.execZextN32 d a s
  | .sel d a b c => Sys2Proof.Machine.execSel d a b c s
  | .shadd d a b h => Sys2Proof.Machine.execShadd d a b h s
  | .mkva d a b => Sys2Proof.Machine.execMkva d a b s
  | .mkvai d a imm => Sys2Proof.Machine.execMkvai d a imm s
  | .beq a b imm => Sys2Proof.Machine.execBeq a b imm s
  | .bne a b imm => Sys2Proof.Machine.execBne a b imm s
  | .blt a b imm => Sys2Proof.Machine.execBlt a b imm s
  | .bge a b imm => Sys2Proof.Machine.execBge a b imm s
  | .bltu a b imm => Sys2Proof.Machine.execBltu a b imm s
  | .bgeu a b imm => Sys2Proof.Machine.execBgeu a b imm s
  | .jal d imm => Sys2Proof.Machine.execJal d imm s
  | .jalr d a imm => Sys2Proof.Machine.execJalr d a imm s
  | .loop l a imm => Sys2Proof.Machine.execLoop l a imm s
  | .loopi l n imm => Sys2Proof.Machine.execLoopi l n imm s
  | .fadd z r d a b => Sys2Proof.Machine.execFadd z r d a b s
  | .fsub z r d a b => Sys2Proof.Machine.execFsub z r d a b s
  | .fmul z r d a b => Sys2Proof.Machine.execFmul z r d a b s
  | .fdiv z r d a b => Sys2Proof.Machine.execFdiv z r d a b s
  | .fsqrt z r d a => Sys2Proof.Machine.execFsqrt z r d a s
  | .fmin z d a b => Sys2Proof.Machine.execFmin z d a b s
  | .fmax z d a b => Sys2Proof.Machine.execFmax z d a b s
  | .fcpsgn z d a b => Sys2Proof.Machine.execFcpsgn z d a b s
  | .fxsgn z d a b => Sys2Proof.Machine.execFxsgn z d a b s
  | .fneg z d a => Sys2Proof.Machine.execFneg z d a s
  | .fabs z d a => Sys2Proof.Machine.execFabs z d a s
  | .fmov d a => Sys2Proof.Machine.execFmov d a s
  | .fcvtFf z r t d a => Sys2Proof.Machine.execFcvtFf z r t d a s
  | .fcvtFInt z r n g d a => Sys2Proof.Machine.execFcvtFInt z r n g d a s
  | .fcvtIntF z r n g d a => Sys2Proof.Machine.execFcvtIntF z r n g d a s
  | .fmvx z d a => Sys2Proof.Machine.execFmvx z d a s
  | .fmvf z d a => Sys2Proof.Machine.execFmvf z d a s
  | .feq z d a b => Sys2Proof.Machine.execFeq z d a b s
  | .flt z d a b => Sys2Proof.Machine.execFlt z d a b s
  | .fle z d a b => Sys2Proof.Machine.execFle z d a b s
  | .fclass z d a => Sys2Proof.Machine.execFclass z d a s
  | .fma z r d a b c => Sys2Proof.Machine.execFma z r d a b c s
  | .fms z r d a b c => Sys2Proof.Machine.execFms z r d a b c s
  | .fnma z r d a b c => Sys2Proof.Machine.execFnma z r d a b c s
  | .fnms z r d a b c => Sys2Proof.Machine.execFnms z r d a b c s
  | .ldI8 d a imm => Sys2Proof.Machine.execLdI8 d a imm s
  | .ldI16 d a imm => Sys2Proof.Machine.execLdI16 d a imm s
  | .ldI32 d a imm => Sys2Proof.Machine.execLdI32 d a imm s
  | .ldI64 d a imm => Sys2Proof.Machine.execLdI64 d a imm s
  | .ldN8 d a imm => Sys2Proof.Machine.execLdN8 d a imm s
  | .ldN16 d a imm => Sys2Proof.Machine.execLdN16 d a imm s
  | .ldN32 d a imm => Sys2Proof.Machine.execLdN32 d a imm s
  | .pref k a imm => Sys2Proof.Machine.execPref k a imm s
  | .stI8 a b imm => Sys2Proof.Machine.execStI8 a b imm s
  | .stI16 a b imm => Sys2Proof.Machine.execStI16 a b imm s
  | .stI32 a b imm => Sys2Proof.Machine.execStI32 a b imm s
  | .stI64 a b imm => Sys2Proof.Machine.execStI64 a b imm s
  | .fldF16 d a imm => Sys2Proof.Machine.execFldF16 d a imm s
  | .fldF32 d a imm => Sys2Proof.Machine.execFldF32 d a imm s
  | .fldF64 d a imm => Sys2Proof.Machine.execFldF64 d a imm s
  | .fstF16 a b imm => Sys2Proof.Machine.execFstF16 a b imm s
  | .fstF32 a b imm => Sys2Proof.Machine.execFstF32 a b imm s
  | .fstF64 a b imm => Sys2Proof.Machine.execFstF64 a b imm s
  | .amoadd z d a b => Sys2Proof.Machine.execAmoadd z d a b s
  | .amoswap z d a b => Sys2Proof.Machine.execAmoswap z d a b s
  | .amoand z d a b => Sys2Proof.Machine.execAmoand z d a b s
  | .amoor z d a b => Sys2Proof.Machine.execAmoor z d a b s
  | .amoxor z d a b => Sys2Proof.Machine.execAmoxor z d a b s
  | .amomin z d a b => Sys2Proof.Machine.execAmomin z d a b s
  | .amomax z d a b => Sys2Proof.Machine.execAmomax z d a b s
  | .amominu z d a b => Sys2Proof.Machine.execAmominu z d a b s
  | .amomaxu z d a b => Sys2Proof.Machine.execAmomaxu z d a b s
  | .cas z d a b => Sys2Proof.Machine.execCas z d a b s
  | .radd z a b => Sys2Proof.Machine.execRadd z a b s
  | .raddF z a b => Sys2Proof.Machine.execRaddF z a b s
  | .ldAcq z p d a => Sys2Proof.Machine.execLdAcq z p d a s
  | .stRel z p a b => Sys2Proof.Machine.execStRel z p a b s
  | .fence p => Sys2Proof.Machine.execFence p s
  | .bar n => Sys2Proof.Machine.execBar n s
  | .barwait n => Sys2Proof.Machine.execBarwait n s
  | .waitne z a b => Sys2Proof.Machine.execWaitne z a b s
  | .sigrd d => Sys2Proof.Machine.execSigrd d s
  | .sigclr a => Sys2Proof.Machine.execSigclr a s
  | .rst z a b => Sys2Proof.Machine.execRst z a b s
  | .rstRel z a b => Sys2Proof.Machine.execRstRel z a b s
  | .ramo z o d a b => Sys2Proof.Machine.execRamo z o d a b s
  | .rcas z d a b => Sys2Proof.Machine.execRcas z d a b s
  | .vadd w k d a b => Sys2Proof.Machine.execVadd w k d a b s
  | .vsub w k d a b => Sys2Proof.Machine.execVsub w k d a b s
  | .vmul w k d a b => Sys2Proof.Machine.execVmul w k d a b s
  | .vmulh w k d a b => Sys2Proof.Machine.execVmulh w k d a b s
  | .vmin w k d a b => Sys2Proof.Machine.execVmin w k d a b s
  | .vmax w k d a b => Sys2Proof.Machine.execVmax w k d a b s
  | .vminu w k d a b => Sys2Proof.Machine.execVminu w k d a b s
  | .vmaxu w k d a b => Sys2Proof.Machine.execVmaxu w k d a b s
  | .vand w k d a b => Sys2Proof.Machine.execVand w k d a b s
  | .vor w k d a b => Sys2Proof.Machine.execVor w k d a b s
  | .vxor w k d a b => Sys2Proof.Machine.execVxor w k d a b s
  | .vsll w k d a b => Sys2Proof.Machine.execVsll w k d a b s
  | .vsrl w k d a b => Sys2Proof.Machine.execVsrl w k d a b s
  | .vsra w k d a b => Sys2Proof.Machine.execVsra w k d a b s
  | .vfadd w k d a b => Sys2Proof.Machine.execVfadd w k d a b s
  | .vfsub w k d a b => Sys2Proof.Machine.execVfsub w k d a b s
  | .vfmul w k d a b => Sys2Proof.Machine.execVfmul w k d a b s
  | .vfdiv w k d a b => Sys2Proof.Machine.execVfdiv w k d a b s
  | .vfmin w k d a b => Sys2Proof.Machine.execVfmin w k d a b s
  | .vfmax w k d a b => Sys2Proof.Machine.execVfmax w k d a b s
  | .vfsqrt w k d a => Sys2Proof.Machine.execVfsqrt w k d a s
  | .vfrcp w k d a => Sys2Proof.Machine.execVfrcp w k d a s
  | .vfrsq w k d a => Sys2Proof.Machine.execVfrsq w k d a s
  | .vfexp2 w k d a => Sys2Proof.Machine.execVfexp2 w k d a s
  | .vfma w k d a b => Sys2Proof.Machine.execVfma w k d a b s
  | .vfms w k d a b => Sys2Proof.Machine.execVfms w k d a b s
  | .vfnma w k d a b => Sys2Proof.Machine.execVfnma w k d a b s
  | .vfnms w k d a b => Sys2Proof.Machine.execVfnms w k d a b s
  | .vcmpeq w k d a b => Sys2Proof.Machine.execVcmpeq w k d a b s
  | .vcmpne w k d a b => Sys2Proof.Machine.execVcmpne w k d a b s
  | .vcmplt w k d a b => Sys2Proof.Machine.execVcmplt w k d a b s
  | .vcmple w k d a b => Sys2Proof.Machine.execVcmple w k d a b s
  | .vcmpltu w k d a b => Sys2Proof.Machine.execVcmpltu w k d a b s
  | .vcmpleu w k d a b => Sys2Proof.Machine.execVcmpleu w k d a b s
  | .vfcmpeq w k d a b => Sys2Proof.Machine.execVfcmpeq w k d a b s
  | .vfcmplt w k d a b => Sys2Proof.Machine.execVfcmplt w k d a b s
  | .vfcmple w k d a b => Sys2Proof.Machine.execVfcmple w k d a b s
  | .vsel w k d a b => Sys2Proof.Machine.execVsel w k d a b s
  | .vbcast w k d a => Sys2Proof.Machine.execVbcast w k d a s
  | .vextr w d a b => Sys2Proof.Machine.execVextr w d a b s
  | .vinsr w d a b => Sys2Proof.Machine.execVinsr w d a b s
  | .vperm w k d a b => Sys2Proof.Machine.execVperm w k d a b s
  | .vredAdd w k d a => Sys2Proof.Machine.execVredAdd w k d a s
  | .vredMin w k d a => Sys2Proof.Machine.execVredMin w k d a s
  | .vredMax w k d a => Sys2Proof.Machine.execVredMax w k d a s
  | .vredMinu w k d a => Sys2Proof.Machine.execVredMinu w k d a s
  | .vredMaxu w k d a => Sys2Proof.Machine.execVredMaxu w k d a s
  | .vfredAdd w k d a => Sys2Proof.Machine.execVfredAdd w k d a s
  | .vfredMin w k d a => Sys2Proof.Machine.execVfredMin w k d a s
  | .vfredMax w k d a => Sys2Proof.Machine.execVfredMax w k d a s
  | .vcvt t u z k d a => Sys2Proof.Machine.execVcvt t u z k d a s
  | .vcvtF32I32 k d a => Sys2Proof.Machine.execVcvtF32I32 k d a s
  | .vcvtI32F32 k d a => Sys2Proof.Machine.execVcvtI32F32 k d a s
  | .vcvtF64I64 k d a => Sys2Proof.Machine.execVcvtF64I64 k d a s
  | .vcvtI64F64 k d a => Sys2Proof.Machine.execVcvtI64F64 k d a s
  | .vld w k d a => Sys2Proof.Machine.execVld w k d a s
  | .vst w k d a => Sys2Proof.Machine.execVst w k d a s
  | .vlds w k d a b => Sys2Proof.Machine.execVlds w k d a b s
  | .vsts w k d a b => Sys2Proof.Machine.execVsts w k d a b s
  | .vgather w k d a b => Sys2Proof.Machine.execVgather w k d a b s
  | .vscatter w k d a b => Sys2Proof.Machine.execVscatter w k d a b s
  | .tld d a b => Sys2Proof.Machine.execTld d a b s
  | .acld d a b => Sys2Proof.Machine.execAcld d a b s
  | .aczero d => Sys2Proof.Machine.execAczero d s
  | .acst z f d a b => Sys2Proof.Machine.execAcst z f d a b s
  | .twld x p f a b => Sys2Proof.Machine.execTwld x p f a b s
  | .tmma z f d a => Sys2Proof.Machine.execTmma z f d a s
  | .tmmaSp z f d a => Sys2Proof.Machine.execTmmaSp z f d a s
  | .tmmaMx z f d a b => Sys2Proof.Machine.execTmmaMx z f d a b s
  | .tmovTv d r a => Sys2Proof.Machine.execTmovTv d r a s
  | .tmovVt d a r => Sys2Proof.Machine.execTmovVt d a r s
  | .acscale f d a => Sys2Proof.Machine.execAcscale f d a s
  | .accvt f d => Sys2Proof.Machine.execAccvt f d s
  | .cpy g d a b c => Sys2Proof.Machine.execCpy g d a b c s
  | .cpy2d g d a b c => Sys2Proof.Machine.execCpy2d g d a b c s
  | .cpyBc g d a b c => Sys2Proof.Machine.execCpyBc g d a b c s
  | .cwait g n => Sys2Proof.Machine.execCwait g n s
  | .cpoll d g => Sys2Proof.Machine.execCpoll d g s
  | .ccancel g => Sys2Proof.Machine.execCcancel g s
  | .msend p d a b c => Sys2Proof.Machine.execMsend p d a b c s
  | .mpost d a b c => Sys2Proof.Machine.execMpost d a b c s
  | .csrr d imm => Sys2Proof.Machine.execCsrr d imm s
  | .csrw d a imm => Sys2Proof.Machine.execCsrw d a imm s
  | .csrs d a imm => Sys2Proof.Machine.execCsrs d a imm s
  | .csrc d a imm => Sys2Proof.Machine.execCsrc d a imm s
  | .tlbi a b => Sys2Proof.Machine.execTlbi a b s
  | .tlbia a => Sys2Proof.Machine.execTlbia a s
  | .icinv w a => Sys2Proof.Machine.execIcinv w a s
  | .dcwb w a => Sys2Proof.Machine.execDcwb w a s
  | .dcinv w a => Sys2Proof.Machine.execDcinv w a s
  | .dcflush w a => Sys2Proof.Machine.execDcflush w a s
  | .ctxsave a => Sys2Proof.Machine.execCtxsave a s
  | .ctxload a b => Sys2Proof.Machine.execCtxload a b s
  | .kill d a => Sys2Proof.Machine.execKill d a s
  | .reclaim d a b => Sys2Proof.Machine.execReclaim d a b s
  | .fqpop d a => Sys2Proof.Machine.execFqpop d a s
  | .replay a => Sys2Proof.Machine.execReplay a s
  | .pair d => Sys2Proof.Machine.execPair d s
  | .unpair d => Sys2Proof.Machine.execUnpair d s
  | .snaparm d a => Sys2Proof.Machine.execSnaparm d a s
  | .hVaddI32 d b => Sys2Proof.Machine.execHVaddI32 d b s
  | .hVsubI32 d b => Sys2Proof.Machine.execHVsubI32 d b s
  | .hVaddI64 d b => Sys2Proof.Machine.execHVaddI64 d b s
  | .hVandN64 d b => Sys2Proof.Machine.execHVandN64 d b s
  | .hVorN64 d b => Sys2Proof.Machine.execHVorN64 d b s
  | .hVxorN64 d b => Sys2Proof.Machine.execHVxorN64 d b s
  | .hVminI32 d b => Sys2Proof.Machine.execHVminI32 d b s
  | .hVmaxI32 d b => Sys2Proof.Machine.execHVmaxI32 d b s
  | .hVfaddF32 d b => Sys2Proof.Machine.execHVfaddF32 d b s
  | .hVfsubF32 d b => Sys2Proof.Machine.execHVfsubF32 d b s
  | .hVfmulF32 d b => Sys2Proof.Machine.execHVfmulF32 d b s
  | .hVfminF32 d b => Sys2Proof.Machine.execHVfminF32 d b s
  | .hVfmaxF32 d b => Sys2Proof.Machine.execHVfmaxF32 d b s
  | .hVfaddBf16 d b => Sys2Proof.Machine.execHVfaddBf16 d b s
  | .hVfmulBf16 d b => Sys2Proof.Machine.execHVfmulBf16 d b s
  | .hVmov d b => Sys2Proof.Machine.execHVmov d b s
  | .hAddi d imm => Sys2Proof.Machine.execHAddi d imm s
  | .hMove d a => Sys2Proof.Machine.execHMove d a s
  | .hLds d imm => Sys2Proof.Machine.execHLds d imm s
  | .hSts b imm => Sys2Proof.Machine.execHSts b imm s
  | .hBz a imm => Sys2Proof.Machine.execHBz a imm s
  | .hBnz a imm => Sys2Proof.Machine.execHBnz a imm s
  | .hJmp imm => Sys2Proof.Machine.execHJmp imm s
  | .hAdd d a => Sys2Proof.Machine.execHAdd d a s
  | .tyield => Sys2Proof.Machine.execTyield s
  | .fetchb => Sys2Proof.Machine.execFetchb s
  | .orswait => Sys2Proof.Machine.execOrswait s
  | .rfence => Sys2Proof.Machine.execRfence s
  | .twswap => Sys2Proof.Machine.execTwswap s
  | .tsync => Sys2Proof.Machine.execTsync s
  | .ecall => Sys2Proof.Machine.execEcall s
  | .ebreak => Sys2Proof.Machine.execEbreak s
  | .eret => Sys2Proof.Machine.execEret s
  | .wfi => Sys2Proof.Machine.execWfi s
  | .rgn => Sys2Proof.Machine.execRgn s
  | .cstep => Sys2Proof.Machine.execCstep s
  | .interruptEntry p => Sys2Proof.Machine.execInterruptEntry p s
  | .sliceTimerExpiry p => Sys2Proof.Machine.execSliceTimerExpiry p s
  | .waitneRecheck p => Sys2Proof.Machine.execWaitneRecheck p s
  | .fetchCycle core => Sys2Proof.Machine.execFetchCycle core s
  | .branchMispredict p seq => Sys2Proof.Machine.execBranchMispredict p seq s
  | .teRetire p seq => Sys2Proof.Machine.execTeRetire p seq s
  | .arrayArbiterDecision cl => Sys2Proof.Machine.execArrayArbiterDecision cl s
  | .planeLoadComplete cl => Sys2Proof.Machine.execPlaneLoadComplete cl s
  | .arrayOpComplete cl => Sys2Proof.Machine.execArrayOpComplete cl s
  | .twldPlaneComplete p => Sys2Proof.Machine.execTwldPlaneComplete p s
  | .tileRowArrival p => Sys2Proof.Machine.execTileRowArrival p s
  | .engweightWrite cl v => Sys2Proof.Machine.execEngweightWrite cl v s
  | .bardescWrite layer n v => Sys2Proof.Machine.execBardescWrite layer n v s
  | .sliceWrite p v => Sys2Proof.Machine.execSliceWrite p v s
  | .ctxWrite p v => Sys2Proof.Machine.execCtxWrite p v s
  | .ropeslotWrite layer n v => Sys2Proof.Machine.execRopeslotWrite layer n v s
  | .snapctlAbort => Sys2Proof.Machine.execSnapctlAbort s
  | .remoteRequestArrival id => Sys2Proof.Machine.execRemoteRequestArrival id s
  | .retryReissue id => Sys2Proof.Machine.execRetryReissue id s
  | .faultDeferralExpiry p => Sys2Proof.Machine.execFaultDeferralExpiry p s
  | .remoteStoreAtHome id => Sys2Proof.Machine.execRemoteStoreAtHome id s
  | .remoteStoreAck id => Sys2Proof.Machine.execRemoteStoreAck id s
  | .remoteStoreDenial id => Sys2Proof.Machine.execRemoteStoreDenial id s
  | .raddAtHome id => Sys2Proof.Machine.execRaddAtHome id s
  | .combineWindowExpiry id => Sys2Proof.Machine.execCombineWindowExpiry id s
  | .mergedFillReturn id data => Sys2Proof.Machine.execMergedFillReturn id data s
  | .lineFillResponse id data => Sys2Proof.Machine.execLineFillResponse id data s
  | .orphanTimeout id => Sys2Proof.Machine.execOrphanTimeout id s
  | .die9Timeout id => Sys2Proof.Machine.execDie9Timeout id s
  | .copyPieceArrivalUpdate id piece => Sys2Proof.Machine.execCopyPieceArrivalUpdate id piece s
  | .copyCompletion id => Sys2Proof.Machine.execCopyCompletion id s
  | .copyFaultStop id => Sys2Proof.Machine.execCopyFaultStop id s
  | .messageArrival queue sender data => Sys2Proof.Machine.execMessageArrival queue sender data s
  | .messagePlacementTimeout id => Sys2Proof.Machine.execMessagePlacementTimeout id s
  | .msendCompletion id status detail len => Sys2Proof.Machine.execMsendCompletion id status detail len s
  | .ropeSlotTransmit => Sys2Proof.Machine.execRopeSlotTransmit s
  | .ropeVeto layer => Sys2Proof.Machine.execRopeVeto layer s
  | .ropeOrderedApply => Sys2Proof.Machine.execRopeOrderedApply s
  | .ropeBeatReceive => Sys2Proof.Machine.execRopeBeatReceive s
  | .slotTableTakeForce => Sys2Proof.Machine.execSlotTableTakeForce s
  | .barrierSweepToken layer n cl => Sys2Proof.Machine.execBarrierSweepToken layer n cl s
  | .barrierRelease layer n cl => Sys2Proof.Machine.execBarrierRelease layer n cl s
  | .routerPowerGate layer cl => Sys2Proof.Machine.execRouterPowerGate layer cl s
  | .routerWake layer cl => Sys2Proof.Machine.execRouterWake layer cl s
  | .layerWake layer => Sys2Proof.Machine.execLayerWake layer s
  | .bdHeldRequest id => Sys2Proof.Machine.execBdHeldRequest id s
  | .layerFence layer => Sys2Proof.Machine.execLayerFence layer s
  | .uncorrectableError struct layer index dirty => Sys2Proof.Machine.execUncorrectableError struct layer index dirty s
  | .correctedError struct layer index => Sys2Proof.Machine.execCorrectedError struct layer index s
  | .fingerprintExchange core => Sys2Proof.Machine.execFingerprintExchange core s
  | .lifetimeHistogramWrite => Sys2Proof.Machine.execLifetimeHistogramWrite s
  | .powerSample watts island => Sys2Proof.Machine.execPowerSample watts island s
  | .temperatureSample island celsius => Sys2Proof.Machine.execTemperatureSample island celsius s
  | .pointChangeComplete island => Sys2Proof.Machine.execPointChangeComplete island s
  | .cutCloseRound => Sys2Proof.Machine.execCutCloseRound s
  | .podClose => Sys2Proof.Machine.execPodClose s
  | .controllerWrite layer sector => Sys2Proof.Machine.execControllerWrite layer sector s
  | .drainCompletion seq status => Sys2Proof.Machine.execDrainCompletion seq status s
  | .drainSend => Sys2Proof.Machine.execDrainSend s
  | .hostReqtailWrite v => Sys2Proof.Machine.execHostReqtailWrite v s
  | .startCold => Sys2Proof.Machine.execStartCold s
  | .startWarm keep => Sys2Proof.Machine.execStartWarm keep s
  | .hostInboundWrite off data => Sys2Proof.Machine.execHostInboundWrite off data s
  | .hostInboundRead off len => Sys2Proof.Machine.execHostInboundRead off len s
  | .hostBar0Access off size write v => Sys2Proof.Machine.execHostBar0Access off size write v s
  | .rpcCreateContext c => Sys2Proof.Machine.execRpcCreateContext c s
  | .rpcLoadCodeObject frame => Sys2Proof.Machine.execRpcLoadCodeObject frame s
  | .rpcCreateThread p sp tp => Sys2Proof.Machine.execRpcCreateThread p sp tp s
  | .rpcEndContext => Sys2Proof.Machine.execRpcEndContext s
  | .rpcMapWindow => Sys2Proof.Machine.execRpcMapWindow s
  | .rpcArmSnapshot => Sys2Proof.Machine.execRpcArmSnapshot s
  | .rpcManagement => Sys2Proof.Machine.execRpcManagement s
  | .readTableEntry t imm => Sys2Proof.Machine.execReadTableEntry t imm s
  | .writeTableEntry t imm v => Sys2Proof.Machine.execWriteTableEntry t imm v s
  | .readLifetimeCounter h u bin => Sys2Proof.Machine.execReadLifetimeCounter h u bin s
  | .readDropCounts layer cls => Sys2Proof.Machine.execReadDropCounts layer cls s
  | .basecampStart v => Sys2Proof.Machine.execBasecampStart v s
  | .sleepLayer layer => Sys2Proof.Machine.execSleepLayer layer s
  | .wakeLayer layer => Sys2Proof.Machine.execWakeLayer layer s
  | .writeBdSlot slot v => Sys2Proof.Machine.execWriteBdSlot slot v s
  | .registerLayerSet c mask => Sys2Proof.Machine.execRegisterLayerSet c mask s
  | .illegalOrReservedEncoding w => Sys2Proof.Machine.execIllegalOrReservedEncoding w s
  | .packageReset => Sys2Proof.Machine.execPackageReset s
  | .hostDevstateRead => Sys2Proof.Machine.execHostDevstateRead s
  | .outboundReadTimeout id => Sys2Proof.Machine.execOutboundReadTimeout id s
  | .hostInboundAtomicop => Sys2Proof.Machine.execHostInboundAtomicop s
  | .layerRestart layer => Sys2Proof.Machine.execLayerRestart layer s

end Sys2Proof.Machine
end

