-- ==== Sys2Proof/Machine/Fetch.lean ====
section
/-!
DEFINITION. Instruction fetch (R34, R87, R94 to R96): the checks of a fetch address, the L1I, and the bytes.
-/

namespace Sys2Proof.Machine

def halfOf (d : Line) (va : Word) : BitVec 16 := BitVec.ofNat 16 (lineGet d (va.toNat % 64) 2)

/-- The L1I line of the core that serves a fetch. -/
def State.l1iHit (s : State) (va : Word) : Option CodeLine :=
  let t := s.th
  s.l1i.find? (fun l => l.core == s.myCore && l.va == lineVa va && decide (l.tag = t.tag) && (t.sv || !l.sup))

/-- A fetch cause: EPC is pc, EVA the faulting address, HALF for a second halfword (R34, R294). -/
def fetchTrap (code : Nat) (va : Word) (half rem : Bool) (s : State) : State :=
  raise code va (memInfo half false false rem .fetch 0 0) s

/-- A line enters the core's L1I: 64 KiB in 8 ways (R249). -/
def State.l1iFill (s : State) (va : Word) (poison : BitVec 4) (d : Line) : State :=
  let t := s.th
  let l : CodeLine := ⟨s.myCore, lineVa va, t.tag, t.sv, poison, d⟩
  let set (m : CodeLine) : Nat := Config.cacheSet 0 (m.va / 64) % 128
  let (rest, s) := s.room (s.waysLeft (l.core / 128) 0 (l.core % 128) (set l) 8) (fun m => m.core == l.core) set l s.l1i
  { s with l1i := l :: rest }

/-- A halfword of an L1I line; a line whose poison is consumed is dropped (R304, R344). -/
def State.l1iHalf (s : State) (l : CodeLine) (va : Word) (half : Bool) : Res (BitVec 16) :=
  if sectorsHit l.poison (va.toNat % 64) 2 then
    .stop (consumePoison va (memInfo half false false (!isLocal s.myLayer va) .fetch 0 0) { s with l1i := s.l1i.erase l })
  else .ok (halfOf l.data va) s

/-- A store of the thread to the line has not been performed: a fetch never sees it (04_integer_control.md, before R94). -/
def State.storePending (s : State) (va : Word) : Bool :=
  s.mine.any fun p => p.pending && p.kind.posted && !p.isRadd && p.covers (lineVa va) 64

/-- One halfword of the current thread's code, of the own layer as the HS holds it, never an L1D's copy (R94).  DESIGN CHOICE: a fetch that no
FETCHB orders after a store gets a line that the L1I holds, else what the HS holds when the instruction executes; no bytes are kept ahead
(R96, log 86).  A line of another layer enters the L1I with the RDC's copy (R249, R253). -/
def State.fetchHalf (s : State) (va : Word) (half : Bool) : Res (BitVec 16) :=
  let die := dieOf va
  if va.extractLsb' 56 8 ≠ 0#8 ∨ (10 ≤ die ∧ die ≤ 13) then .stop (fetchTrap 0x0F va half false s)
  else if die = 8 ∨ die = 9 ∨ die = 14 then .stop (fetchTrap 0x02 va half false s)
  else if isLocal s.myLayer va then
    let t := s.th
    match s.translate s.myCore s.myLayer t.tag t.sv .fetch va (s.place s.cur) with
    | (.absent pinned malf lvl, s) => .stop (s.localAbsent .fetch 0 half pinned malf lvl va s.th.pc)
    | (.noCtx, s) => .stop (fetchTrap 0x02 va half false s)
    | (.deny c, s) => .stop (fetchTrap c va half false s)
    | (.ok pa mt, s) =>
      match s.l1iHit va with
      | some l => s.l1iHalf l va half
      | none =>
        let key := physKey s.myLayer (pa / 64 * 64)
        if s.hsBad (physKey s.myLayer pa / 16) then .stop (consumePoison va (memInfo half false false false .fetch 0 0) s)
        else
          let d := s.hsLine key
          .ok (halfOf d va) (if mt = 2 then s else s.l1iFill va (s.hsLinePoison key) d)
  else
    match s.l1iHit va with
    | some l => s.l1iHalf l va half
    | none =>
      if s.storePending va then .stop s.await
      else
        (s.readAwayLine 0 .fetch va 2 2 false).bind fun d s =>
          .ok (halfOf d va) (match s.rdcHit va with | some l => s.l1iFill va l.poison d | none => s)

def State.fetch (s : State) : Res Fetched :=
  let pc := s.th.pc
  (s.fetchHalf pc false).bind fun h s =>
    if isWord h then
      (s.fetchHalf (pc + 2#64) true).bind fun h2 s => .ok (.word (h2 ++ h)) s
    else .ok (.half h) s

/-- The bits of the oldest instruction: those that it waits with, else fetched. -/
def State.oldest (s : State) : Res Fetched :=
  match s.th.waiting, s.th.bits with
  | true, some w => .ok w s
  | _, _ => ((s.setTh { s.th with bits := none }).fetch).bind fun w s => .ok w (s.setTh { s.th with bits := some w })

/-- The instruction that fetched bits are (R34, R35). -/
noncomputable def Fetched.instr : Fetched → Option Instr
  | .word w => decodeWord w
  | .half h => decodeHalf h

/-- Instruction bits, zero-extended (R294). -/
def Fetched.bits : Fetched → Word
  | .word w => w.setWidth 64
  | .half h => h.setWidth 64

end Sys2Proof.Machine
end

