-- ==== Sys2Proof/Machine/Progress.lean ====
section
/-!
DEFINITION. What the hardware does by itself beside the instructions: one cc of it, in one fixed order (log 1), and the start
sequence (R390).
-/

namespace Sys2Proof.Machine

/-! ### Requests -/

/-- A response is taken at the cluster it goes to, in its order. -/
def State.takeAnswer (s : State) (p : Packet) : State :=
  match p.stage with
  | .done => if p.kind.posted then s.ackPacket p else s.takeResponse p p.reply
  | .denied c => s.denyPacket p c
  | .failed c pin => s.takeRefusal p c pin
  | _ => s.takeTurned p

/-- What a request does in a cc: a hop of the mesh, or what follows where it is.  The host answers nothing here: a request to it
ends in its timeout. -/
def State.packetStep (s : State) (p : Packet) : State :=
  if p.onMesh then s.hop p
  else
    match p.stage with
    | .combining => if s.leaveDue p then s.leaveNode p else s
    | .toHome => if s.arrivalDue p then s.arrive p else s
    | .atHome pa =>
      if p.kind.posted then (if s.firstOnLine p then s.performPosted p pa else s)
      else if dieOf p.va = 8 then s.lose p
      else if s.waitDue p then s.performAtHome p pa
      else s
    | .done | .denied _ | .failed _ _ | .turned => if !s.responseInOrder p then s else s.takeAnswer p
    | .retry => s.reissue p
    | .bdHeld => if (s.layer (dieOf p.va)).power = .asleep then s.startWake (dieOf p.va) else s
    | .held _ =>
      if dieOf p.va = 9 then
        let more := (Config.freeWord s.free).toNat % 4 != 0
        let s : State := { s with free := s.free + 1 }
        if more then s else s.releaseHeld p
      else s

def State.packetsGo (s : State) : State :=
  (s.packets.map (·.id)).foldl (fun s id => match s.packet id with | some p => s.packetStep p | none => s) s

/-- Gated routers with a wake signal wake. -/
def State.wakeRouters (s : State) : State :=
  (s.clusters.filter fun e => e.2.gated && s.wakeSignal e.1).foldl (fun s e =>
    s.setCluster e.1 { s.cluster e.1 with gated := false }) s

/-! ### The Rope -/

/-- What has landed is applied or consumed. -/
def State.drainAir (s : State) : (fuel : Nat) → State
  | 0 => s
  | fuel + 1 =>
    match s.landed true, s.landed false with
    | some x, _ => (s.applyOrdered x).drainAir fuel
    | none, some x => (s.receiveBeats x).drainAir fuel
    | none, none => s

/-- What has landed, what the stations have received of copy data, then one slot. -/
def State.ropeGo (s : State) : State := ((List.range 8).foldl State.passBulk (s.drainAir s.air.length)).slotStep

/-- A copy, a completion word or an arriving message has its next access on a layer, or the host asks for a thread on it (R193, R326, log 74). -/
def State.hasUse (s : State) (l : Nat) : Bool :=
  (s.copies.any fun c =>
    let on (va : Word) : Bool := homeOf (layerOf c.src) va == l
    !c.finished && (c.form == 2 || (c.hasArr && on c.arr) ||
      (match c.piece (c.cursor 0) with | some p => on p.src || on p.dst | none => false))) ||
  (s.messages.any fun m => homeOf (layerOf m.src) m.comp == l && (m.answer.isSome || !s.isOwn m)) ||
  (s.inbound.any fun m =>
    match (s.takeBuffer m).1 with
    | some b => homeOf (layerOf b.src) b.va == l || homeOf (layerOf b.src) b.status == l
    | none => false) ||
  (s.rpcPosted && s.rpcOp == 3 && (s.rpcArg 2).toNat == l)

def State.wakeGo (s : State) : State :=
  (List.range 8).foldl (fun s l =>
    match (s.layer l).power with
    | .asleep => if s.hasUse l then s.startWake l else s
    | .waking n => if n < 5 then s.wakeStep l n else s
    | _ => s) s

/-! ### Barriers -/

/-- A cluster of a barrier: its release, or a token that reaches it. -/
def State.barrierAt (s : State) (l n cl : Nat) : State :=
  if s.releaseDue l n cl then s.releaseAt l n cl
  else
    match s.sweeps l n cl with
    | some row => s.sweepTo l n cl row
    | none => s

def State.barriersGo (s : State) : State :=
  (s.layers.filter fun e => decide (e.1 < 8)).foldl (fun s e =>
    (e.2.bardesc.filter fun b => barV b.2).foldl (fun s b => (List.range 16).foldl (fun s cl => s.barrierAt e.1 b.1 cl) s) s) s

/-! ### Copies and messages -/

/-- What a step of piece `k` makes of the machine, if it takes one. -/
def State.takePiece (s : State) (c : Copy) (k : Nat) : Option State :=
  match s.copyStep c k with
  | .ok s => some s
  | .fault s cause kind fva => some (s.stopOn c.id cause kind fva)
  | .later => none

/-- The pieces of a copy that can be under way: the next of each range and the one behind. -/
def Copy.near (c : Copy) : List Nat := (List.range (2 * c.ranges)).map fun i => c.cursor (i / 2) + i % 2
/-- Data of a piece has still to move. -/
def Copy.moves (c : Copy) (k : Nat) : Bool := match c.piece k with | some p => decide (c.movedOf k < p.len) | none => false

/-- The end of a copy, or an arrival update that is due, which take no turn of the engine. -/
def State.copyEnds (s : State) (id : Nat) : State :=
  match s.copies.find? (fun c => c.id == id) with
  | none => s
  | some c => if c.finished then s.completeCopy c else ((c.near.filter fun k => !c.moves k).findSome? (s.takePiece c)).getD s

/-- A line of a piece moves. -/
def State.movePiece (s : State) (id k : Nat) : Option State :=
  match s.copies.find? (fun c => c.id == id) with
  | some c => if c.moves k then s.takePiece c k else none
  | none => none

/-- R293: a cluster's copy engine serves its cores in turn, one 4 KiB piece a turn: the piece it serves, or one of the first core after the
core it served last that has a piece that can go on. -/
def State.engineTurn (s : State) (cl : Nat) : State :=
  match s.cluster cl |>.ceNow.bind fun now => s.movePiece now.1 now.2 with
  | some s => s
  | none =>
    let next := (List.range 8).findSome? fun i =>
      let core := ((s.cluster cl).ceLast + 1 + i) % 8
      (s.copies.filter fun c => coreOf c.src == 8 * cl + core).findSome? fun c =>
        c.near.findSome? fun k => (s.movePiece c.id k).map fun s => (core, (c.id, k), s)
    match next with
    | some (core, now, s) => s.setCluster cl { s.cluster cl with ceLast := core, ceNow := some now }
    | none => s

def State.copiesGo (s : State) : State :=
  let s := (s.copies.map (·.id)).foldl State.copyEnds s
  (s.copies.map fun c => clusterOf c.src).eraseDups.foldl State.engineTurn s

/-- A message to this package goes to its port; the host takes what it is sent; another package has no buffer. -/
def State.messageGo (s : State) (m : Message) : Option State :=
  let go (st detail len : Nat) : Option State := if s.completes m then some (s.completeSend m st detail len) else none
  match m.answer with
  | some (st, detail, len) => go st detail len
  | none =>
    if s.isOwn m then
      if s.inbound.any fun x => x.id == m.id then none
      else some (s.offer ⟨m.id, epQueue m.endpoint, s.basecamp.pkg.toNat, m.data, none, none, none⟩)
    else if epHost m.endpoint then go (if m.persist then 0x13 else 1) 0 m.data.length
    else go 0x10 0 0

def State.messagesGo (s : State) : Option State := s.messages.findSome? s.messageGo

/-- No thread can go on by itself. -/
def State.allWait (s : State) : Bool := s.threads.all fun e => !e.2.resident || e.2.looped || e.2.waiting

/-- A message that waits for no page is offered again, if it is placed or answered now or joins a group. -/
def State.placeable (s : State) (m : Inbound) : Option State :=
  if m.group.isSome ∨ (s.takeBuffer m).1.isNone then none
  else
    let s' := ({ s with inbound := s.inbound.filter fun x => x.id != m.id } : State).offer m
    if s'.inbound.any fun x => x.id == m.id && x.group.isNone then none else some s'

/-- Another package replays the group that a message waits for, or not yet: a free value (log 66). -/
def State.replayForeign (s : State) : State :=
  if s.inbound.any fun m => m.group == some (9, 0) then
    let now := (Config.freeWord s.free).getLsbD 0
    { s with
      free := s.free + 1
      inbound := if now then s.inbound.map fun m => if m.group = some (9, 0) then { m with group := none } else m else s.inbound }
  else s

/-- A message at the port is placed when it can be.  One that has waited 1 ms is given up; while threads run, one of them may
still post a buffer, and a layer that wakes is waited for. -/
def State.portGo (s : State) : Option State :=
  let s := s.replayForeign
  match s.inbound.findSome? s.placeable with
  | some s => some s
  | none =>
    if s.allWait && (List.range 8).all (fun l => !(s.isAsleep l && s.hasUse l)) then s.inbound.head?.map s.giveUp else none

/-! ### Tile engines -/

def State.engineGo (s : State) (cl : Nat) : State :=
  let c := s.cluster cl
  match c.running, c.loading, c.twld with
  | some (p, seq), _, _ => s.opDone cl p seq
  | none, some _, _ => s.loadDone cl
  | none, none, w :: _ => s.planeDone w.1 w
  | none, none, [] => s.decideArray cl

/-- Entries that are done are retired. -/
def State.retireTe (s : State) : State :=
  { s with threads := Table.mapVals (fun t => if t.te.isEmpty then t else { t with te := t.te.filter fun e => !e.done }) s.threads }

/-- The clusters whose tile engine has work, but for islands that move to another point: their TE stalls (R393). -/
def State.busyEngines (s : State) : List Nat :=
  (((s.threads.filter fun e => !e.2.te.isEmpty).map fun e => clusterOf e.1).eraseDups ++
    ((s.clusters.filter fun e => e.2.running.isSome || e.2.loading.isSome || !e.2.twld.isEmpty).map (·.1))).filter fun c => !s.basecamp.moving.contains c

def State.enginesGo (s : State) : State :=
  let s := s.retireTe
  s.busyEngines.eraseDups.foldl State.engineGo s

/-! ### Threads -/

/-- What is due in a thread: the slice that has run out, the oldest branch that resolves (R280), a deferral that has passed, and the end of a
parking, at which the instruction goes on (R277, R293); a WAITNE reads its word again once its request is over (R142). -/
def Thread.goes (t : Thread) : Thread :=
  let t := if t.sliceDue then t.expire else t
  let t := if t.checkpoints.isEmpty then t else { t with checkpoints := t.checkpoints.drop 1 }
  let goesOn := { t with parked := none, waiting := false }
  match t.parked with
  | some (.deferral _) => { t with parked := none }
  | some .waitne => if t.reqs.isEmpty then goesOn else t
  | some .orswait => if t.ors = 0 ∨ t.denial.isSome then goesOn else t
  | some (.cwait g n) => if (Table.at 0#7 t.cg g).toNat ≤ n then goesOn else t
  | some .wfi => if t.pending.isSome then t.complete 4 else t
  | some (.group 9 _) => if t.reqs.isEmpty then { t with parked := none } else t
  | _ => t

/-- The bytes that a parked WAITNE waits on differ now, or the pair of a RECLAIM has left every agent and its record is to be sent: the thread
is unparked at once (R142, R293, R339). -/
def State.unwatch (s : State) (t : Thread) : Thread :=
  match t.parked with
  | some (.reclaim g) => if s.leftEverywhere g && !s.reclaimSent g.ctx.toNat then { t with parked := none, waiting := false } else t
  | some (.watch space a n old) =>
    let v := if space = 0 then s.peekNat a n else if space = 1 then valOf (Memory.readBytes s.rope a n) else valOf (s.bdReads a n)
    if v ≠ old then { t with parked := none, waiting := false } else t
  | _ => t

/-- The cores that have a resident thread and, in this slot, a cc in which their island does not move to another point (R7, R275, R393). -/
def State.busyCores (s : State) : List Nat :=
  ((s.threads.filter fun e => e.2.resident && s.hasCc (clusterOf e.1) && !s.basecamp.moving.contains (clusterOf e.1)).map fun e => coreOf e.1).eraseDups

/-- A slot of the threads: those cores fetch and decode, and what is due in every thread happens. -/
def State.threadsGo (s : State) : State :=
  let s := s.busyCores.foldl State.coreCc s
  { s with threads := s.threads.map fun e => (e.1, s.unwatch e.2.goes) }

/-! ### Cairn and Basecamp -/

/-- A package of a pod has its turn; whether CLOSE comes from its parent now is a free value (log 76). -/
def State.podTurn (s : State) : State :=
  let s := s.podGo
  if s.cairn.state = 2 ∧ s.isRoot = false then
    let comes := (Config.freeWord s.free).getLsbD 0
    let s : State := { s with free := s.free + 1 }
    if comes then s.podCloses else s
  else s

def State.cairnGo (s : State) : Option State :=
  if s.cairn.state = 3 then
    match s.cairn.flying, s.nextGranule with
    | f :: _, _ => some (s.drainedOne f)
    | [], some (l, g) => some (s.sendGranule l g)
    | [], none => none
  else if s.cairn.state = 2 then
    let s := s.closeRound
    if s.cairn.pod ∧ s.cairn.met then some s.podTurn else some s
  else none

/-- A request to sleep a layer waits while a CPY.BC is outstanding (R193). -/
def State.ringGo (s : State) : Option State :=
  if s.ringPosted && !(s.ringCmd == 6 && s.broadcasting) then some s.takeCommand else none

def State.islandGo (s : State) : Option State :=
  s.basecamp.moving.head?.map fun i =>
    { s with basecamp := { s.basecamp with moving := s.basecamp.moving.filter (· != i) } }

/-- R355: an hour of slots after the last write of the lifetime histograms, the next. -/
def State.histogramGo (s : State) : Option State :=
  if s.basecamp.flashedAt + 3600 * slotsPerSecond ≤ s.slot then some s.writeHistograms else none

/-- The I3C bus takes the oldest record, or not yet: a free value (log 84). -/
def State.recordGo (s : State) : State :=
  if s.basecamp.records.isEmpty then s
  else
    let goes := (Config.freeWord s.free).toNat % 2 == 0
    let s : State := { s with free := s.free + 1 }
    if goes then s.sendRecord.getD s else s

/-! ### One cc -/

/-- An event of a kind, if one is due. -/
def State.maybe (s : State) (f : Option State) : State := f.getD s

/-- What the hardware does beside an instruction in one slot: every unit has its turn. -/
def State.progress (s : State) : State :=
  let s := s.threadsGo.ropeGo
  let s := (s.maybe s.islandGo).wakeRouters.packetsGo.wakeGo.barriersGo.copiesGo
  let s := (s.maybe s.messagesGo).enginesGo
  let s := (s.maybe s.ringGo).maybe s.rpcGo
  let s := s.maybe s.portGo
  let s := s.maybe s.cairnGo
  (s.maybe s.histogramGo).recordGo

/-! ### The start sequence (R390) -/

/-- Step 1: the tables.  Thresholds and PLIMIT have the values that the spec gives as defaults (log 60). -/
def State.readTables (s : State) : State :=
  s.setBasecamp { s.basecamp with
    thresholds := [], plimit := 4200, drain := Config.flashTable 2 0
    routes := (List.range 4096).map fun i => (i, (Config.flashTable 3 i).setWidth 18)
    tree := (List.range 19).map fun i => (i, Config.flashTable 4 i &&& 0x1FFF#64)
    pkg := (Config.flashTable 5 0).setWidth 12 }

/-- Step 5. -/
def State.startHbm (s : State) : State :=
  if s.keep then { s with kept := true } else { s with hbm := [], poison := [], kept := false }

/-- Step 6: the stations' slot tables, the arbiter's among them, and what stands beside them. -/
def State.clearRope (s : State) : State :=
  let s := (List.range 9).foldl (fun s l => s.setLayer l { s.layer l with ropeslot := [], inc := [] }) s
  { s with rope := [], mirrorInc := [], inForce := [], changes := [] }

/-- Step 9, R370: the layers' records; one in DRAINING before any other.  SEQ goes on, so that a granule sent again has another. -/
def State.readRecords (s : State) : State :=
  if s.keep then
    let rs := (List.range 8).filterMap fun l => (s.layer l).cutRecord
    let order := (rs.filter fun r => r.state == 3) ++ (rs.filter fun r => r.state == 1 || r.state == 2) ++ rs
    match order.head? with
    | some r =>
      let c := { Cairn.reset with ctx := r.ctx, lmask := r.lmask, stage := r.stage, s := r.s, epoch := r.epoch, seq := r.seq }
      if r.state = 3 then { s with cairn := { c with state := 3, resumed := true } }
      else if r.state = 1 ∨ r.state = 2 then { s with cairn := c }.endCut 6
      else s
    | none => s
  else s

/-- A start step that fails: FAILED, and a record whose STRUCT the spec leaves open (R390). -/
def State.startFailed (s : State) : State :=
  ({ s with devState := 3, free := s.free + 1 } : State).recordError
    (recordOf 4 ((Config.freeWord s.free).toNat % 18) 0 2048 0 Tag.zero)

/-- What a start step does (R390). -/
def State.startAction (s : State) (n : Nat) : State :=
  if n = 1 then s.readTables
  else if n = 2 then s.setBasecamp s.nominal
  else if n = 3 then (if s.warm then s else s.setBasecamp { s.basecamp with trained := true })
  else if n = 5 then s.startHbm
  else if n = 6 then s.clearRope
  else if n = 8 then (List.range 8).foldl State.startKernel s
  else if n = 9 then s.readRecords
  else s

/-- A start runs the step: a warm one skips steps 3 and 4, and step 9 needs HBM that is kept. -/
def State.runsStep (s : State) (n : Nat) : Bool := !(s.warm && (n == 3 || n == 4)) && (n != 9 || s.keep)

/-- One step of a start.  Whether a step that runs fails is a free value (log 58). -/
def State.startSequence (s : State) : State :=
  if s.runsStep s.startStep && Config.stepFails s.free then s.startFailed
  else
    let n := s.startStep
    let s := ({ s with free := s.free + 1 } : State).startAction n
    if 10 ≤ n then { s with devState := 2, startStep := 0 } else { s with startStep := n + 1 }

end Sys2Proof.Machine
end

