-- ==== Sys2Proof/Machine/Run.lean ====
section
/-!
DEFINITION. What `step` does around `exec`: which thread runs, what comes before its instruction, and what follows it.
-/

namespace Sys2Proof.Machine

/-- A hardware thread that can be run: resident, not stopped, and not parked (R277) unless an interrupt takes it from there (R300). -/
def Thread.runnable (t : Thread) : Bool := t.resident && !t.looped && (t.parked.isNone || t.takesInterrupt)

/-- The next runnable hardware thread after the current one, in the order of PLACE; the current one if there is no other. -/
def State.rotate (s : State) : State :=
  match s.threads.find? (fun e => decide (s.cur < e.1) && e.2.runnable), s.threads.find? (fun e => e.2.runnable) with
  | some e, _ => { s with cur := e.1 }
  | none, some e => { s with cur := e.1 }
  | none, none => s

/-- The threads of a core number their tile instructions together, in decode order (R278). -/
def State.syncTe (s : State) (a : Nat) : State :=
  let b := a ^^^ 1
  if (s.thread b).teSeq < (s.thread a).teSeq then s.setThread b { s.thread b with teSeq := (s.thread a).teSeq } else s

/-- So do those of the shadow's core (R349). -/
def State.syncBoth (s : State) : State :=
  let s := s.syncTe s.cur
  if s.th.paired then s.syncTe (pairOf s.cur) else s

/-- After an instruction: a slot of the hardware, then the next thread has its turn. -/
def State.afterInstr (s : State) : State := s.syncBoth.progress.rotate

def settle : Out → Out
  | .next s => .next s.afterInstr
  | .fault r => .fault r
  | .refused r => .refused r

/-- What the next step is about. -/
inductive Next where
  /-- The hardware acts, with this result. -/
  | hardware (s : State)
  /-- The current thread executes an instruction, in this state. -/
  | instr (i : Instr) (s : State)

/-- R295: a fetch at a vector address that raised a cause stops the hardware thread, and Basecamp reports a trap loop.  DEDUCED: the record has
SEVERITY 2 and ACTION 0, and a fetch that parks for its page has raised no cause (log 98). -/
def State.afterFetchStop (s : State) (atVector : Bool) (s' : State) : State :=
  let t := s'.th
  if atVector && t.parked.isNone && !t.waiting && t.atVector then
    (s'.setTh { t with looped := true }).recordError (recordOf 2 15 0 s.cur 0 t.tag)
  else s'.afterInstr

/-- The current hardware thread's island is moving to another point: its cores stall (R393). -/
def State.stalls (s : State) : Bool := s.basecamp.moving.contains s.myCluster

/-- What comes next when the agenda is empty. -/
noncomputable def State.next (s : State) : Next :=
  let t := s.th
  if s.devState = 1 then .hardware s.startSequence
  else if s.devState ≠ 2 then .hardware s
  else if s.stalls || !t.runnable then .hardware s.afterInstr
  else if t.takesInterrupt then .hardware (s.interruptThread s.cur)
  else if t.exchangeDue then .hardware (s.exchangeAt s.cur false).2
  else
    match s.oldest with
    | .stop s' => .hardware (s.afterFetchStop t.atVector s')
    | .ok w s' =>
      match w.instr with
      | some i => .instr i s'
      | none => .hardware (raise 0x05 w.bits 0#64 s').afterInstr

/-- The page tables that `placeWord` lays: the root at PA 0x4_0000, level 2 at PA 0x4_1000, and a 1 GiB leaf with every
permission at PA 0x4000_0000. -/
def placeRoot : Nat := 0x40000
def placeLevel2 : Nat := 0x41000
def placeFrame : Nat := 0x40000000

def State.placeWord (s : State) (nbits w : Nat) : State :=
  let t := s.th
  let layer := s.myLayer
  let off := offOf t.pc
  let c := t.tag.ctx.toNat
  let put (s : State) (pa n v : Nat) : State := s.store .hs s.devColour (physKey layer pa) (bytesOf n v)
  let root := if dieOf t.pc = 15 then 32 * c + 8 else 32 * c
  let s := put s root 8 (placeRoot + 1)
  let s := put s (32 * c + 24) 8 1
  let s := put s (placeRoot + 8 * (off / 2 ^ 39 % 512)) 8 (placeLevel2 + 1)
  let s := put s (placeLevel2 + 8 * (off / 2 ^ 30 % 512)) 8 (placeFrame + 0x19F)
  let s := put s (placeFrame + off % 2 ^ 30) 4 (w % 2 ^ nbits)
  let s := { s with
    agenda := [], devState := 2, startStep := 0, basecamp := { s.basecamp with moving := [] }, l1i := [], tlb := [], walkers := [], ctxCache := [] }
  s.setTh { t with
    resident := true, looped := false, parked := none, waiting := false, reqs := [], answers := [], sent := false
    exchangeDue := false, entered := none, irq16 := none, irq17 := none, copyRecs := [], plan := [], got := [], sending := false, popped := none
    checkpoints := [], bits := none }

end Sys2Proof.Machine
end

