-- ==== Sys2Proof/Machine/Step.lean ====
section
/-!
DEFINITION. One step of the machine, and the placing of an instruction where it is fetched.
-/

namespace Sys2Proof.Machine

/-- One step: the next hardware event of the agenda; or a start step while STARTING; or the current thread's exchange of
fingerprints, its interrupt, or its instruction; or what the hardware does while that thread cannot run. -/
noncomputable def step (s : State) : Out :=
  match s.agenda with
  | e :: r => exec e { s with agenda := r }
  | [] =>
    match s.next with
    | .hardware s' => .next s'
    | .instr i s' => settle (exec i s')

/-- Places an instruction where `step` fetches next: the package is READY, the current hardware thread is resident and not
parked, its pc is mapped, and the bytes stand there. -/
def State.withFetchWord (s : State) (nbits w : Nat) : State := s.placeWord nbits w

end Sys2Proof.Machine
end

