-- ==== Sys2Proof/Safety.lean ====
section
/-!
DEFINITION. What counts as a safe run, and the words that claims are stated in: what an instruction leaves unchanged, how it
completes (R91), which registers it writes, and what taking an exception does (R294 to R296).
-/

namespace Sys2Proof.Machine

/-- The step has a next state. -/
def Safe (s : State) : Prop := ∃ s', step s = .next s'

/-- One step leads from `s` to `s'`. -/
def Steps (s s' : State) : Prop := step s = .next s'

/-- The instruction has a next state, and it is as `P` says. -/
def Does (i : Instr) (s : State) (P : State → Prop) : Prop := ∃ t, exec i s = .next t ∧ P t

/-! ### What is left unchanged -/

/-- A thread without what the machine keeps of the instruction that runs: what it waits for, what it has read, checked or taken so
far, the counts since the last exchange (R350) and since the region entry (R351), the fingerprints, and the trap entry that they are compared
for (R349, R350).  All registers are still
there. -/
def Thread.calm (t : Thread) : Thread :=
  { t with
    regionCount := 0, buffered := 0, ahead := 0, unissued := 0, sinceExchange := 0, exchangeDue := false, entered := none, crc := 0, shadowCrc := 0
    parked := none, reqs := [], answers := [], sent := false, atVector := false, waiting := false
    plan := [], got := [], sending := false, popped := none }

/-- The thread without what completion writes as well: pc, the loop counters and INSTRET (R24, R91). -/
def Thread.bare (t : Thread) : Thread := { t.calm with pc := 0, lc0 := 0, lc1 := 0, instret := 0 }

/-- Everything but the threads is the same, memory included, and so is every thread but the one that runs. -/
def OnlyThread (s t : State) : Prop :=
  t = { s with threads := t.threads } ∧ ∀ p, p ≠ s.cur → t.thread p = s.thread p

/-- An array operation that takes `occ` ec has joined the queue of the shadow too, if the current thread is the primary of a Belay pair with
TDUP = 1 (R349). -/
def ShadowJoins (occ : Nat) (s t : State) : Prop :=
  t = { s with threads := t.threads } ∧ (∀ p, p ≠ s.cur → p ≠ pairOf s.cur ∨ s.th.paired = false ∨ s.th.tdup = false → t.thread p = s.thread p) ∧
    (s.th.paired = true → s.th.tdup = true → ∃ e : TeEntry, e.occ = occ ∧ e.tag = s.th.tag ∧ e.started = false ∧ e.done = false ∧
      t.thread (pairOf s.cur) = { s.thread (pairOf s.cur) with
        te := (s.thread (pairOf s.cur)).te ++ [e], teSeq := (s.thread (pairOf s.cur)).teSeq + 1 })

/-- Hardware thread `p` becomes `u`, and nothing else of the machine changes. -/
def ThreadBecomes (p : Nat) (u : Thread) (s t : State) : Prop :=
  t = { s with threads := t.threads } ∧ t.thread p = u ∧ ∀ q, q ≠ p → t.thread q = s.thread q

/-- Cluster `cl` becomes `c`, and nothing else of the machine changes. -/
def ClusterBecomes (cl : Nat) (c : Cluster) (s t : State) : Prop :=
  t = { s with clusters := t.clusters } ∧ t.cluster cl = c ∧ ∀ k, k ≠ cl → t.cluster k = s.cluster k

/-- Layer `l` becomes `y`, and nothing else of the machine changes. -/
def LayerBecomes (l : Nat) (y : Layer) (s t : State) : Prop :=
  t = { s with layers := t.layers } ∧ t.layer l = y ∧ ∀ k, k ≠ l → t.layer k = s.layer k

/-! ### Completion (R91) -/

/-- An instruction whose successor is `next` completes without transferring control: the loop-end test, and INSTRET. -/
def Succeeds (next : Word) (t u : Thread) : Prop :=
  u.instret = t.instret + 1 ∧
    (t.lc1 ≠ 0#32 ∧ next = t.lend1 ∧ 2 ≤ t.lc1.toNat → u.lc1 = t.lc1 - 1 ∧ u.lc0 = t.lc0 ∧ u.pc = t.lbeg1) ∧
    (¬ (t.lc1 ≠ 0#32 ∧ next = t.lend1 ∧ 2 ≤ t.lc1.toNat) →
      u.lc1 = (if next = t.lend1 then 0#32 else t.lc1) ∧
        (t.lc0 ≠ 0#32 ∧ next = t.lend0 ∧ 2 ≤ t.lc0.toNat → u.lc0 = t.lc0 - 1 ∧ u.pc = t.lbeg0) ∧
        (¬ (t.lc0 ≠ 0#32 ∧ next = t.lend0 ∧ 2 ≤ t.lc0.toNat) →
          u.lc0 = (if next = t.lend0 then 0#32 else t.lc0) ∧ u.pc = next))

/-- An instruction of `len` bytes completes without transferring control. -/
def Completes (len : Nat) (t u : Thread) : Prop := Succeeds (t.pc + BitVec.ofNat 64 len) t u

/-- An instruction completes and transfers control: no loop-end test. -/
def Transfers (target : Word) (t u : Thread) : Prop :=
  u.pc = target ∧ u.lc0 = t.lc0 ∧ u.lc1 = t.lc1 ∧ u.instret = t.instret + 1

/-! ### Register writes, with everything else of the thread unchanged -/

/-- x[d] := v, and x0 keeps its 0 (R19, R76). -/
def WritesX (d : Reg) (v : Word) (t u : Thread) : Prop :=
  u.bare = { t with x := u.x }.bare ∧ ∀ r, u.rx r = if r = 0#5 then 0#64 else if r = d then v else t.rx r

/-- No register is written. -/
def WritesNone (t u : Thread) : Prop := u.bare = t.bare

/-- f[d] := v and FDIRTY (R18); FCSR gains the flags `fl` (R114). -/
def WritesF (d : Reg) (v : Word) (fl : Nat) (t u : Thread) : Prop :=
  u.bare = { t with f := u.f, fcsr := t.fcsr ||| BitVec.ofNat 64 fl, status := t.status ||| oneBit fdirtyBit }.bare ∧
    ∀ r, u.rf r = if r = d then v else t.rf r

/-- v[d] := v and VDIRTY (R18); FCSR gains the flags `fl`, and with one FDIRTY. -/
def WritesV (d : Reg) (v : Line) (fl : Nat) (t u : Thread) : Prop :=
  u.bare = { t with
      v := u.v, fcsr := t.fcsr ||| BitVec.ofNat 64 fl
      status := t.status ||| oneBit vdirtyBit ||| (if fl = 0 then 0#64 else oneBit fdirtyBit) }.bare ∧
    ∀ r, u.rv r = if r = d then v else t.rv r

/-- k[d] := v, k0 stays all ones (R19), and VDIRTY unless the write is discarded; FCSR gains the flags `fl`. -/
def WritesK (d : BitVec 3) (v : Word) (fl : Nat) (t u : Thread) : Prop :=
  u.bare = { t with
      k := u.k, fcsr := t.fcsr ||| BitVec.ofNat 64 fl
      status := t.status ||| (if d = 0#3 then 0#64 else oneBit vdirtyBit) ||| (if fl = 0 then 0#64 else oneBit fdirtyBit) }.bare ∧
    ∀ r, u.rk r = if r = 0#3 then BitVec.allOnes 64 else if r = d then v else t.rk r

/-! ### Results: the instruction completes, one register is written, and nothing else changes -/

def ResultNone (len : Nat) (s t : State) : Prop := OnlyThread s t ∧ Completes len s.th t.th ∧ WritesNone s.th t.th
def ResultX (len : Nat) (d : Reg) (v : Word) (s t : State) : Prop :=
  OnlyThread s t ∧ Completes len s.th t.th ∧ WritesX d v s.th t.th
def ResultF (d : Reg) (v : Word) (fl : Nat) (s t : State) : Prop :=
  OnlyThread s t ∧ Completes 4 s.th t.th ∧ WritesF d v fl s.th t.th
def ResultV (len : Nat) (d : Reg) (v : Line) (fl : Nat) (s t : State) : Prop :=
  OnlyThread s t ∧ Completes len s.th t.th ∧ WritesV d v fl s.th t.th
def ResultK (d : BitVec 3) (v : Word) (fl : Nat) (s t : State) : Prop :=
  OnlyThread s t ∧ Completes 4 s.th t.th ∧ WritesK d v fl s.th t.th

/-! ### Exact quotients (R81, R82) -/

/-- The signed quotient in `w` bits: truncated toward zero, saturated, with the limit at divisor 0. -/
def exactQuotS (w : Nat) (a b : Int) : Int :=
  if b = 0 then (if a = 0 then 0 else if a < 0 then -2 ^ (w - 1) else 2 ^ (w - 1) - 1)
  else min (a.tdiv b) (2 ^ (w - 1) - 1)

/-- The unsigned quotient in `w` bits. -/
def exactQuotU (w a b : Nat) : Nat := if b = 0 then (if a = 0 then 0 else 2 ^ w - 1) else a / b

/-! ### Taking an exception (R294 to R296) -/

/-- Trap entry: EPC, ECAUSE, EVA, EINFO, STATUS (PSV := SV, PIE := IE, SV := 1, IE := 0) and pc := EVEC + 0x100 × class; no other
register changes. -/
def Enters (code cls : Nat) (intr : Bool) (epc eva einfo : Word) (t u : Thread) : Prop :=
  u.epc = epc ∧ u.ecause = (if intr then 0x8000000000000000#64 else 0#64) ||| BitVec.ofNat 64 code ∧ u.eva = eva ∧ u.einfo = einfo ∧
    u.pc = (t.evec &&& ~~~ 0xFFF#64) + BitVec.ofNat 64 (0x100 * cls) ∧
    (∀ i, i < 64 → u.status.getLsbD i =
      if i = 0 then true else if i = 1 then false else if i = 2 then t.status.getLsbD 1 else if i = 3 then t.status.getLsbD 0
      else t.status.getLsbD i) ∧
    u.calm = { t with epc := u.epc, ecause := u.ecause, eva := u.eva, einfo := u.einfo, pc := u.pc, status := u.status }.calm

/-- The current instruction raises a synchronous cause and changes nothing else (R294). -/
def Traps (code cls : Nat) (eva einfo : Word) (s t : State) : Prop :=
  OnlyThread s t ∧ Enters code cls false s.th.pc eva einfo s.th t.th

/-! ### Floating point: flags, and the trap of an enabled flag (R113 to R116) -/

/-- A raised flag has its enable set: the enable of the flag in bit n is bit n + 7 (R114). -/
def FlagTraps (fl : Nat) (t : Thread) : Prop := ∃ n, n < 5 ∧ fl.testBit n = true ∧ t.fcsr.getLsbD (n + 7) = true

/-- Trap 0x11: the flags are in FCSR and in EINFO, FDIRTY is set, and no other register is written (R114, R116). -/
def FpTraps (fl : Nat) (s t : State) : Prop :=
  OnlyThread s t ∧
    Enters 0x11 2 false s.th.pc 0#64 (BitVec.ofNat 64 fl)
      { s.th with fcsr := s.th.fcsr ||| BitVec.ofNat 64 fl, status := s.th.status ||| oneBit fdirtyBit } t.th

/-- A result with its flags goes to an f register, sign-filled (R113), or traps. -/
def FpToF (sf : BitVec 2) (d : Reg) (x : FRes) (s t : State) : Prop :=
  (FlagTraps x.2 s.th → FpTraps x.2 s t) ∧ (¬ FlagTraps x.2 s.th → ResultF d (signFill (sfBytes sf) x.1) x.2 s t)

/-- A result with its flags goes to an x register, or traps. -/
def FpToX (d : Reg) (v : Word) (fl : Nat) (s t : State) : Prop :=
  (FlagTraps fl s.th → FpTraps fl s t) ∧
    (¬ FlagTraps fl s.th →
      OnlyThread s t ∧ Completes 4 s.th t.th ∧
        t.th.bare = { s.th with
          x := t.th.x, fcsr := s.th.fcsr ||| BitVec.ofNat 64 fl
          status := s.th.status ||| (if fl = 0 then 0#64 else oneBit fdirtyBit) }.bare ∧
        ∀ r, t.th.rx r = if r = 0#5 then 0#64 else if r = d then v else s.th.rx r)

/-- A vector result with the flags of its lanes (R152), or the trap. -/
def FpToV (len : Nat) (d : Reg) (v : Line) (fl : Nat) (s t : State) : Prop :=
  (FlagTraps fl s.th → FpTraps fl s t) ∧ (¬ FlagTraps fl s.th → ResultV len d v fl s t)

/-- A mask result with its flags, or the trap. -/
def FpToK (d : BitVec 3) (v : Word) (fl : Nat) (s t : State) : Prop :=
  (FlagTraps fl s.th → FpTraps fl s t) ∧ (¬ FlagTraps fl s.th → ResultK d v fl s t)

/-- The f register read at the width of `sf` (R113), as bits and as a value. -/
def fBits (sf : BitVec 2) (t : Thread) (r : Reg) : Nat := (t.rf r).toNat % 2 ^ (sfFmt sf).width
def fVal (sf : BitVec 2) (t : Thread) (r : Reg) : FVal := (sfFmt sf).decode (fBits sf t r)

/-! ### Vector lanes (R149, R152) -/

/-- Lane `i` of width `n`. -/
def Lane (n : Nat) (v : Line) (i : Nat) : BitVec n := v.extractLsb' (n * i) n

/-- `fl` is the OR of the flags of the active lanes among the first `l`. -/
def LaneFlags (l : Nat) (km : Word) (f : Nat → Nat) (fl : Nat) : Prop :=
  ∀ b, fl.testBit b = true ↔ ∃ i, i < l ∧ km.getLsbD i = true ∧ (f i).testBit b = true

/-! ### Memory -/

/-- What a store to memory leaves unchanged: everything but the current thread, the bytes it writes, and where bytes stand (a cache,
HBM, a staging copy, R364) and which L1Ds hold an RDC line (R252); poison goes only where whole sectors are written (R344).  Write-backs on
their way to a controller are counted (R405). -/
def MemFrame (s t : State) : Prop :=
  t = { s with
    threads := t.threads, hbm := t.hbm, l1d := t.l1d, hs := t.hs, poison := t.poison, hbmPoison := t.hbmPoison, hsPoison := t.hsPoison
    rdc := t.rdc, free := t.free, layers := t.layers, cairn := t.cairn } ∧
    (∀ l, t.layer l = { s.layer l with staged := (t.layer l).staged }) ∧
    t.cairn = { s.cairn with
      wanted := t.cairn.wanted, stalled := t.cairn.stalled, injected := t.cairn.injected, consumed := t.cairn.consumed } ∧
    (t.rdc.map fun l => { l with cores := 0#8 }) = (s.rdc.map fun l => { l with cores := 0#8 }) ∧
    (∀ k, k ∈ t.poison → k ∈ s.poison) ∧ ∀ p, p ≠ s.cur → t.thread p = s.thread p

/-- Nothing holds up a write of `n` bytes at `key`: no RADD of the thread to their lines is under way (R135), and for a page of memory type
device neither is an earlier device write (R127), nor a cut for which its controller could stall it (R365). -/
def WriteGoes (s : State) (key n mt : Nat) : Prop :=
  s.raddWaits key n = false ∧ s.deviceWaits mt = false ∧ (mt = 3 → s.cairn.active = false)

/-- A byte of a staging slot that a layer has in use (R363): its place above the first 64 MiB of the staging region gets the slot's bytes when the
slot is freed (log 100). -/
def InStaging (s : State) (x : Nat) : Prop :=
  ∃ l e, l < 8 ∧ e ∈ (s.layer l).staged ∧
    let at_ := l * 2 ^ 48 + (s.cairn.stagingBase + 2 ^ 26 + 4096 * e.2.slot)
    at_ ≤ x ∧ x < at_ + 4096

/-- The bytes `bs` are stored at `key`, and the bytes of every other address read as before. -/
def StoresAt (key : Nat) (bs : List Byte) (s t : State) : Prop :=
  MemFrame s t ∧ t.peekBytes key bs.length = bs ∧ ∀ a, a < key ∨ key + bs.length ≤ a → t.peek a = s.peek a

/-- The byte `f a` is stored at each address `a` that has one, and the bytes of every other address read as before. -/
def StoresBytes (f : Nat → Option Byte) (s t : State) : Prop :=
  MemFrame s t ∧ ∀ a, t.peek a = (f a).getD (s.peek a)

/-- An access of the own layer that an entry of the core's own TLB maps and its page allows, with no entry of another page size beside
it: the key of the first byte, and the page's memory type (R257, R261, R265). -/
def Maps (s : State) (k : AKind) (va : Word) (key mt : Nat) : Prop :=
  s.formOk va = true ∧ dieOf va ≠ 14 ∧ dieOf va ≠ 8 ∧ (dieOf va = s.myLayer ∨ dieOf va = 15) ∧
    ∃ e es, s.tlbHits s.myCore s.myLayer s.th.tag (dieOf va) (offOf va) = e :: es ∧ e.agent = s.myCore ∧
      (∀ f ∈ es, f.bits = e.bits) ∧ permCause k s.th.sv e.pte = 0 ∧
      (k.writes = true → pteD e.pte = true) ∧ pteFrame e.pte / 2 ^ e.bits * 2 ^ e.bits + offOf va % 2 ^ e.bits < 0x2000000000 ∧
      key = s.myLayer * 2 ^ 48 + (pteFrame e.pte / 2 ^ e.bits * 2 ^ e.bits + offOf va % 2 ^ e.bits) ∧ mt = pteType e.pte

/-- An access of the own layer whose page an entry of the core's own TLB maps and refuses, with the cause that the permissions give (R125
step 3, R257). -/
def Denied (s : State) (k : AKind) (va : Word) (c : Nat) : Prop :=
  s.formOk va = true ∧ dieOf va ≠ 14 ∧ dieOf va ≠ 8 ∧ (dieOf va = s.myLayer ∨ dieOf va = 15) ∧ c ≠ 0 ∧
    ∃ e es, s.tlbHits s.myCore s.myLayer s.th.tag (dieOf va) (offOf va) = e :: es ∧ e.agent = s.myCore ∧
      (∀ f ∈ es, f.bits = e.bits) ∧ permCause k s.th.sv e.pte = c ∧ (k.writes = true → pteD e.pte = true)

/-- The first cause that an access of the own layer meets, whose alignment is `al`: its form, its page's permissions, its alignment
(R125). -/
def FirstCause (s : State) (k : AKind) (va : Word) (al c : Nat) : Prop :=
  s.formOk va = false ∧ c = 0x0F ∨ Denied s k va c ∨ (∃ key mt, Maps s k va key mt) ∧ va.toNat % al ≠ 0 ∧ c = 0x0E

/-- The deferred denial `d` of the current thread is raised and consumed (R128, R298). -/
def DenialTraps (d : Denial) (s t : State) : Prop :=
  OnlyThread s t ∧
    Enters d.cause (causeClass d.cause) false s.th.pc d.va
      (BitVec.ofNat 64 (min d.more 0xFFFF * 2 ^ 48 + (if d.cause = 0x0A then 256 else 0) + 128 + 64 + 8 * d.kind.code + d.unit))
      { s.th with denial := none } t.th

/-- An item joins the ordered queue of a layer's station (R310), as number `s.nextId`; one that carries a write of the cut's old colour counts as
injected (R405); no other part of the machine changes but the current thread. -/
def Enqueues (layer : Nat) (i : Item) (s t : State) : Prop :=
  t = { s with threads := t.threads, layers := t.layers, cairn := t.cairn, nextId := s.nextId + 1 } ∧
    t.cairn = { s.cairn with
      injected := if s.cairn.active = true ∧ i.colour = some s.cairn.epoch then oneMore s.cairn.injected layer else s.cairn.injected } ∧
    (∀ l, t.layer l = if l = layer then { s.layer l with queue := (t.layer l).queue } else s.layer l) ∧
    (∀ c, Table.at [] (t.layer layer).queue c = Table.at [] (s.layer layer).queue c ++ if c = 0 then [{ i with id := s.nextId }] else []) ∧
    ∀ p, p ≠ s.cur → t.thread p = s.thread p

/-- psig after a write at `va`: writes to DIE 0 to 9 set the bits of their line (R129). -/
def psigAfter (t : Thread) (va : Word) : Line := if (va.extractLsb' 52 4).toNat ≤ 9 then t.psig ||| sigOf va.toNat else t.psig

/-- The region doubleword after an irrevocable instruction (R345). -/
def irrevAfter (t : Thread) : Word := t.region ||| oneBit 62

/-- A request has left the core: it is number `s.nextId`, and every byte of memory reads as before. -/
def Sends (q : Packet → Prop) (s t : State) : Prop :=
  (∃ p ∈ t.packets, p.id = s.nextId ∧ p.src = s.cur ∧ p.tag = s.th.tag ∧ q p) ∧ t.nextId = s.nextId + 1 ∧
    (∀ k, t.peek k = s.peek k) ∧ t.rope = s.rope ∧ t.bd = s.bd ∧ ∀ p, p ≠ s.cur → t.thread p = s.thread p

/-- The current instruction waits: it has not completed, and no register has changed. -/
def Waits (s t : State) : Prop :=
  t.th.waiting = true ∧ t.th.calm = s.th.calm ∧ (∀ p, p ≠ s.cur → t.thread p = s.thread p) ∧ ∀ k, t.peek k = s.peek k

/-- The access of a scalar memory instruction: kind, address and width (R126, R130, R133 to R135, R142). -/
def accessOf (i : Instr) (t : Thread) : Option (AKind × Word × Nat) :=
  let at_ (a : Reg) (j : BitVec 12) : Word := BitVec.ofInt 64 ((t.rx a).toInt + j.toInt)
  let sp (j : BitVec 6) : Word := BitVec.ofNat 64 ((t.rx 2#5).toNat + 8 * j.toNat)
  let n (w : BitVec 1) : Nat := if w = 0#1 then 4 else 8
  match i with
  | .ldI8 _ a j => some (.load, at_ a j, 1)
  | .ldI16 _ a j => some (.load, at_ a j, 2)
  | .ldI32 _ a j => some (.load, at_ a j, 4)
  | .ldI64 _ a j => some (.load, at_ a j, 8)
  | .ldN8 _ a j => some (.load, at_ a j, 1)
  | .ldN16 _ a j => some (.load, at_ a j, 2)
  | .ldN32 _ a j => some (.load, at_ a j, 4)
  | .fldF16 _ a j => some (.load, at_ a j, 2)
  | .fldF32 _ a j => some (.load, at_ a j, 4)
  | .fldF64 _ a j => some (.load, at_ a j, 8)
  | .hLds _ j => some (.load, sp j, 8)
  | .stI8 a _ j => some (.store, at_ a j, 1)
  | .stI16 a _ j => some (.store, at_ a j, 2)
  | .stI32 a _ j => some (.store, at_ a j, 4)
  | .stI64 a _ j => some (.store, at_ a j, 8)
  | .fstF16 a _ j => some (.store, at_ a j, 2)
  | .fstF32 a _ j => some (.store, at_ a j, 4)
  | .fstF64 a _ j => some (.store, at_ a j, 8)
  | .hSts _ j => some (.store, sp j, 8)
  | .amoadd w _ a _ => some (.amo, t.rx a, n w)
  | .amoswap w _ a _ => some (.amo, t.rx a, n w)
  | .amoand w _ a _ => some (.amo, t.rx a, n w)
  | .amoor w _ a _ => some (.amo, t.rx a, n w)
  | .amoxor w _ a _ => some (.amo, t.rx a, n w)
  | .amomin w _ a _ => some (.amo, t.rx a, n w)
  | .amomax w _ a _ => some (.amo, t.rx a, n w)
  | .amominu w _ a _ => some (.amo, t.rx a, n w)
  | .amomaxu w _ a _ => some (.amo, t.rx a, n w)
  | .cas w _ a _ => some (.amo, t.rx a, n w)
  | .radd w a _ => some (.amo, t.rx a, n w)
  | .raddF w a _ => some (.amo, t.rx a, n w)
  | .waitne w a _ => some (.load, t.rx a, n w)
  | _ => none

/-- KIND of EINFO (R298), times 8. -/
def kindField (k : AKind) : Nat :=
  match k with
  | .fetch => 0
  | .load => 8
  | .store => 16
  | .amo => 24
  | .acq => 32
  | .rel => 40

/-! ### The memories -/

/-- HBM, the Rope's replicas with the mirror, and the memory of the BD are in canonical form: addresses strictly rising, no entry 0. -/
def Canonical (s : State) : Prop := Memory.wf s.hbm = true ∧ Memory.wf s.rope = true ∧ Memory.wf s.bd = true

/-! ### Which instructions a level or an enable forbids (R44, R45, R59) -/

/-- The enables that an instruction needs, [2] TEN, [1] VEN, [0] FEN, by its major opcode (R44).  SIGRD and RADD.F stand in majors that
need none; TMOV and TMMA.MX also need VEN, and ACSCALE also needs FEN (R173). -/
def enablesOf (i : Instr) : BitVec 3 :=
  match i with
  | .sigrd _ => 2#3
  | .raddF _ _ _ => 1#3
  | .tmmaMx _ _ _ _ _ => 6#3
  | .tmovTv _ _ _ => 6#3
  | .tmovVt _ _ _ => 6#3
  | .acscale _ _ _ => 5#3
  | i =>
    match encode i with
    | .word w =>
      let m := (w.extractLsb' 1 6).toNat
      if m = 0x0C ∨ m = 0x0D ∨ m = 0x0E ∨ m = 0x0F ∨ m = 0x12 ∨ m = 0x13 then 1#3
      else if 0x18 ≤ m ∧ m ≤ 0x1F then 2#3
      else if 0x20 ≤ m ∧ m ≤ 0x25 then 4#3
      else 0#3
    | .half h => if h.extractLsb' 1 1 = 0#1 then 2#3 else 0#3
    | .event => 0#3

/-- Rows of R59 that are marked S. -/
def supervisorOnly (i : Instr) : Bool :=
  match i with
  | .eret => true
  | .wfi => true
  | .tlbi _ _ => true
  | .tlbia _ => true
  | .dcinv _ _ => true
  | .ctxsave _ => true
  | .ctxload _ _ => true
  | .kill _ _ => true
  | .reclaim _ _ _ => true
  | .fqpop _ _ => true
  | .replay _ => true
  | .pair _ => true
  | .unpair _ => true
  | .snaparm _ _ => true
  | _ => false

/-- Constructors whose operands outside their table's range are the words of another row (R46, R50, R60): there the word decodes to that
row, and the range check refuses nothing. -/
def otherRow (i : Instr) : Bool :=
  match i with
  | .addi _ _ _ => true
  | .ori _ _ _ => true
  | .phint _ _ _ => true
  | _ => false

end Sys2Proof.Machine
end

