-- ==== Sys2Proof/Certificates/Slice0/Obligations.lean ====
section
/-!
DEFINITION. The statements for the provers.
-/

section

open Sys2Proof Sys2Proof.Machine

/-! ### Integer and address instructions -/

/-- R78: the register ALU.  Values are exact integers, wrapped at the end; b[63:6] of a count is ignored. -/
def Obligations.RegisterAluWritesTable : Prop :=
  ∀ (s : State) (d a b : Reg),
    let x := s.th.rx a
    let y := s.th.rx b
    let k := y.toNat % 64
    let R := fun (i : Instr) (v : Word) => Does i s (ResultX 4 d v s)
    R (.add d a b) (BitVec.ofNat 64 (x.toNat + y.toNat)) ∧
    R (.sub d a b) (BitVec.ofInt 64 (x.toInt - y.toInt)) ∧
    R (.and d a b) (x &&& y) ∧ R (.or d a b) (x ||| y) ∧ R (.xor d a b) (x ^^^ y) ∧
    R (.sll d a b) (BitVec.ofNat 64 (x.toNat * 2 ^ k)) ∧
    R (.srl d a b) (BitVec.ofNat 64 (x.toNat / 2 ^ k)) ∧
    R (.sra d a b) (BitVec.ofInt 64 (x.toInt / 2 ^ k)) ∧
    R (.rol d a b) (x.rotateLeft k) ∧ R (.ror d a b) (x.rotateRight k) ∧
    R (.slt d a b) (if x.toInt < y.toInt then 1#64 else 0#64) ∧
    R (.sltu d a b) (if x.toNat < y.toNat then 1#64 else 0#64) ∧
    R (.min d a b) (BitVec.ofInt 64 (min x.toInt y.toInt)) ∧ R (.max d a b) (BitVec.ofInt 64 (max x.toInt y.toInt)) ∧
    R (.minu d a b) (BitVec.ofNat 64 (min x.toNat y.toNat)) ∧ R (.maxu d a b) (BitVec.ofNat 64 (max x.toNat y.toNat))

/-- R79: the immediate ALU, with i = sext(imm12, 64). R84: LUI and AUIPC, with pc the address of the AUIPC
itself. -/
def Obligations.ImmediateAluWritesTable : Prop :=
  (∀ (s : State) (d a : Reg) (i : BitVec 12) (h : BitVec 6),
     let x := s.th.rx a
     let R := fun (j : Instr) (v : Word) => Does j s (ResultX 4 d v s)
     R (.addi d a i) (BitVec.ofInt 64 (x.toInt + i.toInt)) ∧
     R (.andi d a i) (x &&& BitVec.ofInt 64 i.toInt) ∧ R (.ori d a i) (x ||| BitVec.ofInt 64 i.toInt) ∧
     R (.xori d a i) (x ^^^ BitVec.ofInt 64 i.toInt) ∧
     R (.slti d a i) (if x.toInt < i.toInt then 1#64 else 0#64) ∧
     R (.sltiu d a i) (if x.toNat < (BitVec.ofInt 64 i.toInt).toNat then 1#64 else 0#64) ∧
     R (.slli d a h) (BitVec.ofNat 64 (x.toNat * 2 ^ h.toNat)) ∧
     R (.srli d a h) (BitVec.ofNat 64 (x.toNat / 2 ^ h.toNat)) ∧
     R (.srai d a h) (BitVec.ofInt 64 (x.toInt / 2 ^ h.toNat)) ∧
     R (.rori d a h) (x.rotateRight h.toNat)) ∧
  (∀ (s : State) (d : Reg) (i : BitVec 20),
     Does (.lui d i) s (ResultX 4 d (BitVec.ofInt 64 (i.toInt * 4096)) s) ∧
     Does (.auipc d i) s (ResultX 4 d (BitVec.ofInt 64 (s.th.pc.toNat + i.toInt * 4096)) s))

/-- R80: the W forms compute on the low 32 bits and write sext(result[31:0], 64). -/
def Obligations.WordFormsSignExtend : Prop :=
  ∀ (s : State) (d a b : Reg) (i : BitVec 12) (h : BitVec 5),
    let x : BitVec 32 := (s.th.rx a).setWidth 32
    let y : BitVec 32 := (s.th.rx b).setWidth 32
    let k := y.toNat % 32
    let R := fun (j : Instr) (v : BitVec 32) => Does j s (ResultX 4 d (BitVec.ofInt 64 v.toInt) s)
    R (.addw d a b) (BitVec.ofNat 32 (x.toNat + y.toNat)) ∧
    R (.subw d a b) (BitVec.ofInt 32 (x.toInt - y.toInt)) ∧
    R (.sllw d a b) (BitVec.ofNat 32 (x.toNat * 2 ^ k)) ∧
    R (.srlw d a b) (BitVec.ofNat 32 (x.toNat / 2 ^ k)) ∧
    R (.sraw d a b) (BitVec.ofInt 32 (x.toInt / 2 ^ k)) ∧
    R (.addiw d a i) (BitVec.ofInt 32 (x.toInt + i.toInt)) ∧
    R (.slliw d a h) (BitVec.ofNat 32 (x.toNat * 2 ^ h.toNat)) ∧
    R (.srliw d a h) (BitVec.ofNat 32 (x.toNat / 2 ^ h.toNat)) ∧
    R (.sraiw d a h) (BitVec.ofInt 32 (x.toInt / 2 ^ h.toNat))

/-- R81, R82: products are exact, quotients are truncated and saturate, and the remainder is dividend − divisor × quotient. -/
def Obligations.MultiplyDivideExact : Prop :=
  ∀ (s : State) (d a b : Reg),
    let x := s.th.rx a
    let y := s.th.rx b
    let v : BitVec 32 := x.setWidth 32
    let w : BitVec 32 := y.setWidth 32
    let R := fun (i : Instr) (r : Int) => Does i s (ResultX 4 d (BitVec.ofInt 64 r) s)
    let W := fun (i : Instr) (r : Int) => Does i s (ResultX 4 d (BitVec.ofInt 64 (BitVec.ofInt 32 r).toInt) s)
    R (.mul d a b) (x.toInt * y.toInt) ∧
    R (.mulh d a b) (x.toInt * y.toInt / 2 ^ 64) ∧
    R (.mulhu d a b) ((x.toNat * y.toNat / 2 ^ 64 : Nat) : Int) ∧
    R (.div d a b) (exactQuotS 64 x.toInt y.toInt) ∧
    R (.divu d a b) (exactQuotU 64 x.toNat y.toNat) ∧
    R (.rem d a b) (x.toInt - y.toInt * exactQuotS 64 x.toInt y.toInt) ∧
    R (.remu d a b) ((x.toNat : Int) - y.toNat * exactQuotU 64 x.toNat y.toNat) ∧
    W (.mulw d a b) (v.toInt * w.toInt) ∧
    W (.divw d a b) (exactQuotS 32 v.toInt w.toInt) ∧
    W (.divuw d a b) (exactQuotU 32 v.toNat w.toNat) ∧
    W (.remw d a b) (v.toInt - w.toInt * exactQuotS 32 v.toInt w.toInt) ∧
    W (.remuw d a b) ((v.toNat : Int) - w.toNat * exactQuotU 32 v.toNat w.toNat)

/-- R83: bit manipulation and address arithmetic. -/
def Obligations.BitAndAddressResults : Prop :=
  ∀ (s : State) (d a b c : Reg) (h : BitVec 2) (m : BitVec 4),
    let x := s.th.rx a
    let y := s.th.rx b
    let R := fun (i : Instr) (v : Word) => Does i s (ResultX 4 d v s)
    (∃ n, n ≤ 64 ∧ (∀ i, i < 64 → 64 - n ≤ i → x.getLsbD i = false) ∧ (n < 64 → x.getLsbD (63 - n) = true) ∧
      R (.clz d a) (BitVec.ofNat 64 n)) ∧
    (∃ n, n ≤ 64 ∧ (∀ i, i < n → x.getLsbD i = false) ∧ (n < 64 → x.getLsbD n = true) ∧ R (.ctz d a) (BitVec.ofNat 64 n)) ∧
    R (.popc d a) (BitVec.ofNat 64 ((List.range 64).filter fun i => x.getLsbD i).length) ∧
    (∃ v : Word, (∀ i, i < 8 → v.extractLsb' (8 * i) 8 = x.extractLsb' (8 * (7 - i)) 8) ∧ R (.bswap d a) v) ∧
    R (.sextI8 d a) (BitVec.ofInt 64 (x.setWidth 8).toInt) ∧ R (.sextI16 d a) (BitVec.ofInt 64 (x.setWidth 16).toInt) ∧
    R (.sextI32 d a) (BitVec.ofInt 64 (x.setWidth 32).toInt) ∧
    R (.zextN8 d a) (BitVec.ofNat 64 (x.toNat % 2 ^ 8)) ∧ R (.zextN16 d a) (BitVec.ofNat 64 (x.toNat % 2 ^ 16)) ∧
    R (.zextN32 d a) (BitVec.ofNat 64 (x.toNat % 2 ^ 32)) ∧
    R (.sel d a b c) (if s.th.rx c ≠ 0#64 then x else y) ∧
    R (.shadd d a b h) (BitVec.ofNat 64 (x.toNat * 2 ^ h.toNat + y.toNat)) ∧
    (∃ v : Word, v.extractLsb' 52 4 = y.setWidth 4 ∧ (∀ i, i < 52 ∨ 56 ≤ i → v.getLsbD i = x.getLsbD i) ∧ R (.mkva d a b) v) ∧
    (∃ v : Word, v.extractLsb' 52 4 = m ∧ (∀ i, i < 52 ∨ 56 ≤ i → v.getLsbD i = x.getLsbD i) ∧ R (.mkvai d a m) v)

/-! ### Control -/

/-- R85: the branches, the compact branches H.BZ and H.BNZ, and H.JMP, which is always taken.  Taken: pc moves by the offset; not taken:
the instruction completes without a transfer.  No register is written.  R280: a conditional branch takes a checkpoint of the plane map
while a tile instruction of the thread is in the tile engine's queue (log 78: the model's reading of which branches do), and one that finds 24 waits. -/
def Obligations.BranchesTestAndMove : Prop :=
  ∀ (s : State) (a b : Reg) (i : BitVec 12) (j : BitVec 6) (h : BitVec 11),
    let x := s.th.rx a
    let y := s.th.rx b
    let marks := s.th.checkpoints ++ [⟨s.th.teSeq, s.th.plane0, s.th.plane1⟩]
    let idle := ∀ e, e ∈ s.th.te → e.op = 2
    let B := fun (k : Instr) (len : Nat) (off : Int) (taken : Prop) =>
      (idle ∨ s.th.checkpoints.length < 24 → Does k s fun t =>
        OnlyThread s t ∧
          (idle → t.th.bare = s.th.bare) ∧ (¬ idle → t.th.bare = { s.th with checkpoints := marks }.bare) ∧
          (taken → Transfers (BitVec.ofInt 64 (s.th.pc.toNat + off)) s.th t.th) ∧ (¬ taken → Completes len s.th t.th)) ∧
      (¬ idle ∧ 24 ≤ s.th.checkpoints.length → Does k s fun t => OnlyThread s t ∧ Waits s t)
    B (.beq a b i) 4 (2 * i.toInt) (x.toNat = y.toNat) ∧ B (.bne a b i) 4 (2 * i.toInt) (x.toNat ≠ y.toNat) ∧
    B (.blt a b i) 4 (2 * i.toInt) (x.toInt < y.toInt) ∧ B (.bge a b i) 4 (2 * i.toInt) (y.toInt ≤ x.toInt) ∧
    B (.bltu a b i) 4 (2 * i.toInt) (x.toNat < y.toNat) ∧ B (.bgeu a b i) 4 (2 * i.toInt) (y.toNat ≤ x.toNat) ∧
    B (.hBz a j) 2 (2 * j.toInt) (x = 0#64) ∧ B (.hBnz a j) 2 (2 * j.toInt) (x ≠ 0#64) ∧
    Does (.hJmp h) s fun t =>
      OnlyThread s t ∧ WritesNone s.th t.th ∧ Transfers (BitVec.ofInt 64 (s.th.pc.toNat + 2 * h.toInt)) s.th t.th

/-- R86: JAL and JALR: the link, then the target, computed from the value that x[rs1] held before. -/
def Obligations.JumpsLinkThenMove : Prop :=
  ∀ (s : State) (d a : Reg) (i : BitVec 20) (j : BitVec 12),
    let J := fun (n : Instr) (target : Word) => Does n s fun t =>
      OnlyThread s t ∧ Transfers target s.th t.th ∧ WritesX d (s.th.pc + 4#64) s.th t.th
    J (.jal d i) (BitVec.ofInt 64 (s.th.pc.toNat + 2 * i.toInt)) ∧
    J (.jalr d a j) (BitVec.ofNat 64 ((BitVec.ofInt 64 ((s.th.rx a).toInt + j.toInt)).toNat / 2 * 2))

/-- R90, R91: LOOP and LOOPI complete and arm a level: the count, LBEG and LEND.  A count of 0 skips the body and continues at LEND; any
other count continues at pc + 4.  Neither transfers control, so the loop-end test runs on the successor. -/
def Obligations.LoopsArmALevel : Prop :=
  ∀ (s : State) (l : BitVec 1) (a : Reg) (n : BitVec 10) (i : BitVec 12), 3 ≤ i.toNat →
    let lbeg := s.th.pc + 4#64
    let lend := s.th.pc + BitVec.ofNat 64 (2 * i.toNat)
    let armed := fun (c : BitVec 32) =>
      if l = 0#1 then { s.th with lbeg0 := lbeg, lend0 := lend, lc0 := c } else { s.th with lbeg1 := lbeg, lend1 := lend, lc1 := c }
    let Arms := fun (count : Nat) (t : State) =>
      let u := armed (BitVec.ofNat 32 count)
      OnlyThread s t ∧ t.th.bare = u.bare ∧ Succeeds (if count = 0 then lend else lbeg) u t.th
    (∃ t, exec (.loop l a i) s = .next t ∧ Arms (min (s.th.rx a).toNat (2 ^ 32 - 1)) t) ∧
    ∃ t, exec (.loopi l n i) s = .next t ∧ Arms n.toNat t

/-- R46, R61, R94, R286: what changes no register: PHINT, which sends a prefetch for a line of another layer or package, unless the RDC holds
it already and the hint is not one for the HS (target 2); one of an own-layer line changes nothing (log 92, the model's reading); FETCHB once the thread's stores are performed; TYIELD and the compact ADDI x0, x0, 1, which only enter the tile engine's queue
as a marker, and which act at once if nothing stands before them: the core's turn is over.  The other compact forms are their 32-bit
instructions. -/
def Obligations.HintsAndCompactForms : Prop :=
  ∀ (s : State) (d a : Reg) (i : BitVec 10) (k : BitVec 2) (j : BitVec 6),
    let va := BitVec.ofInt 64 ((s.th.rx a).toInt + 64 * i.toInt)
    let near := s.formOk va = false ∨ dieOf va = 14 ∨ dieOf va = 8 ∨ dieOf va = 15 ∨ dieOf va = s.myLayer
    let Yields := fun (n : Instr) (len : Nat) => s.teRoom 0 0 0 = true →
      (Does n s fun t =>
        Completes len s.th t.th ∧ t.th.bare = { s.th with te := t.th.te, teSeq := s.th.teSeq + 1 }.bare ∧
          t = { s with threads := t.threads, clusters := t.clusters } ∧
          (∀ p, p ≠ s.cur → t.thread p = { s.thread p with te := (t.thread p).te }) ∧
          ∀ c, t.cluster c = { s.cluster c with used := (t.cluster c).used }) ∧
      (∀ p e q, s.coreQueue s.myCore = (p, e) :: q → e.op ≠ 2 → e.seq < s.th.teSeq → Does n s fun t => OnlyThread s t) ∧
      (s.coreQueue s.myCore = [] → Does n s fun t =>
        (∃ e, t.th.te.getLast? = some e ∧ e.op = 2 ∧ e.done = true) ∧
          ((s.cluster s.myCluster).cur = some s.myCore → (t.cluster s.myCluster).used = 4 * s.weight s.myCore))
    (near → Does (.phint a i k) s (ResultNone 4 s)) ∧
    (¬ near ∧ s.rdcHit va ≠ none ∧ k ≠ 2#2 → Does (.phint a i k) s fun t =>
      t = { s with threads := t.threads, rdc := t.rdc, free := t.free, l1d := t.l1d, hs := t.hs, hsPoison := t.hsPoison } ∧
        (∀ p, p ≠ s.cur → t.thread p = s.thread p) ∧ (∀ x, t.peek x = s.peek x) ∧
        (t.rdc.map fun l => { l with cores := 0#8 }) = (s.rdc.map fun l => { l with cores := 0#8 }) ∧
        Completes 4 s.th t.th ∧ WritesNone s.th t.th) ∧
    (¬ near ∧ (s.rdcHit va = none ∨ k = 2#2) → Does (.phint a i k) s fun t =>
      Sends (fun q => q.kind = .hint k ∧ q.va = va ∧ q.mute = true) s t ∧ Completes 4 s.th t.th ∧ WritesNone s.th t.th) ∧
    (s.th.denial = none ∧ s.th.ors = 0 ∧ s.localDone = true ∧ s.bdPending = false → Does .fetchb s (ResultNone 4 s)) ∧
    (s.th.denial = none ∧ s.th.ors ≠ 0 → Does .fetchb s fun t => t.th = { s.th with waiting := true } ∧ OnlyThread s t) ∧
    Yields .tyield 4 ∧ Yields (.hAddi 0#5 1#6) 2 ∧
    (¬ (d = 0#5 ∧ j = 1#6) → Does (.hAddi d j) s (ResultX 2 d (BitVec.ofInt 64 ((s.th.rx d).toInt + j.toInt)) s)) ∧
    Does (.hMove d a) s (ResultX 2 d (s.th.rx a) s) ∧
    Does (.hAdd d a) s (ResultX 2 d (BitVec.ofNat 64 ((s.th.rx d).toNat + (s.th.rx a).toNat)) s)

/-! ### Exceptions -/

/-- R44, R45, R208, R306: before any effect, an operand out of the range of its table takes 0x05, then a supervisor-only instruction at user
level 0x06, then an enable that is 0 takes 0x07, where EINFO marks the missing ones. -/
def Obligations.DecodeChecksTrapInOrder : Prop :=
  (∀ (i : Instr) (s : State), i.wf = false → otherRow i = false → Does i s (Traps 0x05 1 (encode i).bits 0#64 s)) ∧
  (∀ (i : Instr) (s : State), i.wf = true → supervisorOnly i = true → s.th.status.getLsbD 0 = false →
     Does i s (Traps 0x06 1 (encode i).bits 0#64 s)) ∧
  (∀ (i : Instr) (s : State), i.wf = true → enablesOf i &&& ~~~ s.th.status.extractLsb' 4 3 ≠ 0#3 →
     Does i s (Traps 0x07 1 (encode i).bits ((enablesOf i &&& ~~~ s.th.status.extractLsb' 4 3).setWidth 64) s))

/-- R45, R209, R210: the effect of ECALL, EBREAK and a word that no table allocates is the trap entry; ERET restores SV and IE from PSV and PIE,
sets PSV := 0 and PIE := 1, and continues at EPC with bit 0 clear; every other bit and register is kept. -/
def Obligations.EnteringAndReturning : Prop :=
  (∀ (s : State) (w : BitVec 32),
     Does .ecall s (Traps 0x13 3 0#64 0#64 s) ∧ Does .ebreak s (Traps 0x12 3 0#64 0#64 s) ∧
     Does (.illegalOrReservedEncoding w) s (Traps 0x05 1 (w.setWidth 64) 0#64 s)) ∧
  (∀ s : State, s.th.status.getLsbD 0 = true →
     Does .eret s fun t =>
       OnlyThread s t ∧ Transfers (s.th.epc &&& ~~~ 1#64) s.th t.th ∧
         t.th.bare = { s.th with status := t.th.status }.bare ∧
         ∀ i, i < 64 → t.th.status.getLsbD i =
           if i = 0 then s.th.status.getLsbD 3 else if i = 1 then s.th.status.getLsbD 2 else if i = 2 then true
           else if i = 3 then false else s.th.status.getLsbD i)

/-! ### Scalar floating point -/

/-- R117, R118: the operation on the values at sf width, rounded once, sign-filled, with its flags.  FEN is 1, and the rounding mode that
rm or FCSR.RM names is `m`. -/
def Obligations.ScalarArithmeticRoundsOnce : Prop :=
  ∀ (s : State) (z : BitVec 2) (r : BitVec 3) (q : BitVec 1) (d a b c : Reg) (m : Nat),
    s.th.status.getLsbD 4 = true → r.toNat ≤ 5 →
    let F := sfFmt z
    let x := fVal z s.th a
    let y := fVal z s.th b
    let w := fVal z s.th c
    (s.th.mode r = some m →
      Does (.fadd z r d a b) s (FpToF z d (F.add m x y) s) ∧
      Does (.fsub z r d a b) s (FpToF z d (F.add m x y.neg) s) ∧
      Does (.fmul z r d a b) s (FpToF z d (F.mul m x y) s) ∧
      Does (.fdiv z r d a b) s (FpToF z d (F.div m x y) s) ∧
      Does (.fsqrt z r d a) s (FpToF z d (F.sqrt m x) s)) ∧
    (s.th.mode (if q = 1#1 then 0#3 else 5#3) = some m →
      Does (.fma z q d a b c) s (FpToF z d (F.fma m x y w) s) ∧
      Does (.fms z q d a b c) s (FpToF z d (F.fma m x y w.neg) s) ∧
      Does (.fnma z q d a b c) s (FpToF z d (F.fma m x.neg y w.neg) s) ∧
      Does (.fnms z q d a b c) s (FpToF z d (F.fma m x.neg y w) s)) ∧
    (s.th.mode r = none → Does (.fadd z r d a b) s (Traps 0x05 1 (encode (.fadd z r d a b)).bits 2#64 s))

/-- R119 to R122, R124: minimum and maximum, the sign operations, moves and FCLASS.  They read no rounding mode. -/
def Obligations.ScalarMovesAndClasses : Prop :=
  ∀ (s : State) (z : BitVec 2) (d a b : Reg), s.th.status.getLsbD 4 = true →
    let F := sfFmt z
    let x := fBits z s.th a
    let y := fBits z s.th b
    let h := 2 ^ (F.width - 1)
    let S := fun (i : Instr) (sign : Bool) =>
      Does i s (ResultF d (signFill (sfBytes z) (x % h + (if sign then h else 0))) 0 s)
    let e := x / 2 ^ F.mb % 2 ^ F.eb
    let f := x % 2 ^ F.mb
    Does (.fmin z d a b) s (FpToF z d (F.minMax false x y) s) ∧ Does (.fmax z d a b) s (FpToF z d (F.minMax true x y) s) ∧
    S (.fcpsgn z d a b) (decide (h ≤ y)) ∧ S (.fxsgn z d a b) (decide (h ≤ x) != decide (h ≤ y)) ∧
    S (.fneg z d a) (!decide (h ≤ x)) ∧ S (.fabs z d a) false ∧
    Does (.fmov d a) s (ResultF d (s.th.rf a) 0 s) ∧
    Does (.fclass z d a) s (ResultX 4 d (BitVec.ofNat 64
      ((if h ≤ x then 8 else 0) +
        (if e = 2 ^ F.eb - 1 then (if f = 0 then 3 else if f < 2 ^ (F.mb - 1) then 5 else 4)
         else if e = 0 then (if f = 0 then 0 else 1) else 2))) s) ∧
    Does (.fmvx z d a) s (ResultX 4 d (signFill (sfBytes z) x) s) ∧
    Does (.fmvf z d a) s (ResultF d (signFill (sfBytes z) ((s.th.rx a).toNat % 2 ^ F.width)) 0 s)

/-- R121, R123: compares write 1 or 0, 0 with any NaN; conversions round once, and out of range saturates with INV. -/
def Obligations.ScalarComparesAndConverts : Prop :=
  ∀ (s : State) (z u : BitVec 2) (r : BitVec 3) (n g : BitVec 1) (d a b : Reg) (m : Nat), s.th.status.getLsbD 4 = true →
    let x := fVal z s.th a
    let y := fVal z s.th b
    let nan := x.isNan || y.isNan
    let loud := if nan then 1 else 0
    let C := fun (i : Instr) (fl : Nat) (v : Bool) => Does i s (FpToX d (if !nan && v then 1#64 else 0#64) fl s)
    C (.feq z d a b) (if x.isSnan || y.isSnan then 1 else 0) (x.eq y) ∧ C (.flt z d a b) loud (x.lt y) ∧
    C (.fle z d a b) loud (x.lt y || x.eq y) ∧
    (r.toNat ≤ 5 → s.th.mode r = some m →
      let v := if g = 1#1 then (s.th.rx a) else ((s.th.rx a).setWidth 32).setWidth 64
      let k : Int := if n = 1#1 then v.toNat else if g = 1#1 then v.toInt else (v.setWidth 32).toInt
      let lo : Int := if n = 1#1 then 0 else if g = 1#1 then -2 ^ 63 else -2 ^ 31
      let hi : Int := if n = 1#1 then (if g = 1#1 then 2 ^ 64 - 1 else 2 ^ 32 - 1) else if g = 1#1 then 2 ^ 63 - 1 else 2 ^ 31 - 1
      let w := toIntRange m lo hi x
      (z ≠ u → Does (.fcvtFf z r u d a) s (FpToF z d ((sfFmt z).convert m false (fVal u s.th a)) s)) ∧
      Does (.fcvtFInt z r n g d a) s (FpToF z d ((sfFmt z).ofInt m false k) s) ∧
      Does (.fcvtIntF z r n g d a) s (FpToX d (BitVec.ofInt 64 w.1) w.2 s))

/-- R43: m × 2^e, cut to a multiple k × 2^q, is rounded to nearest even (0), to nearest away (1), toward zero (2), toward +∞ (3) or
toward −∞ (4), and is exact if it is such a multiple.  With d = 2^(q − e), the multiple is k × d in units of 2^e. -/
def Obligations.RoundingPicksTheMultiple : Prop :=
  ∀ (neg : Bool) (m : Nat) (e q : Int), e < q →
    let d := 2 ^ (q - e).toNat
    let k := fun rm => (roundAt rm neg m e q).1
    (2 * (k 0 * d) ≤ 2 * m + d ∧ 2 * m ≤ 2 * (k 0 * d) + d ∧ (2 * m + d = 2 * (k 0 * d) ∨ 2 * m = 2 * (k 0 * d) + d → k 0 % 2 = 0)) ∧
    (2 * (k 1 * d) ≤ 2 * m + d ∧ 2 * m < 2 * (k 1 * d) + d) ∧
    (k 2 * d ≤ m ∧ m < k 2 * d + d) ∧
    (if neg then k 3 * d ≤ m ∧ m < k 3 * d + d else m ≤ k 3 * d ∧ k 3 * d < m + d) ∧
    (if neg then m ≤ k 4 * d ∧ k 4 * d < m + d else k 4 * d ≤ m ∧ m < k 4 * d + d) ∧
    ∀ rm, rm < 5 → ((roundAt rm neg m e q).2 = true ↔ k rm * d = m)

/-- R99, R117: in every IEEE format and mode, a NaN result is the canonical one, the invalid cases raise INV, a division of a finite non-
zero value by zero raises DVZ, and the sign of an exact zero is as R117 gives it. R155: the special cases of the three approximations
in every format and mode, and the rule's own example of a reciprocal.  R43, R98, R107, R114: in every format a finite value is rounded once, to the
multiple that `roundAt` picks, with OVF, UNF and INX; R108, R117 to R119, R121, R123: sums, products, quotients, roots, fused products,
minima, comparisons and conversions of finite values are those of the exact values. -/
def Obligations.SpecialValues : Prop :=
  (∀ (f : Fmt) (m : Nat) (a b : Bool) (x y : Nat) (e : Int) (v : FVal), f ∈ [fp64, fp32, fp16, bf16] → m < 5 → 0 < x →
     (f.decode f.nan = .nan false) ∧
     (f.add m (.nan a) v).1 = f.nan ∧ (f.add m v (.nan a)).1 = f.nan ∧ (f.mul m (.nan a) v).1 = f.nan ∧
     (f.div m v (.nan a)).1 = f.nan ∧ (f.sqrt m (.nan a)) = (f.nan, if a then 1 else 0) ∧
     f.add m (.inf a) (.inf (!a)) = (f.nan, 1) ∧ f.mul m (.fin a 0 e) (.inf b) = (f.nan, 1) ∧
     f.div m (.fin a 0 e) (.fin b 0 e) = (f.nan, 1) ∧ f.div m (.inf a) (.inf b) = (f.nan, 1) ∧
     f.sqrt m (.fin true x e) = (f.nan, 1) ∧ f.sqrt m (.fin a 0 e) = (f.signBit a, 0) ∧
     f.div m (.fin a x e) (.fin b 0 e) = (f.inf (a != b), 2) ∧
     f.add m (.fin a 0 e) (.fin a 0 e) = (f.signBit a, 0) ∧
     f.add m (.fin a x e) (.fin (!a) x e) = (f.signBit (m == 4), 0) ∧
     f.fma m (.inf a) (.fin b 0 e) (.nan false) = (f.nan, 1) ∧
     (f.add m (.fin a x e) (.fin a y e)) = f.round m false a (x + y) e) ∧
  (∀ (f : Fmt) (m : Nat) (n : Bool) (y : Nat) (e : Int), f ∈ [fp64, fp32, fp16, bf16] → m < 5 → 0 < y →
     f.recip m (.fin n 0 e) = (f.inf n, 2) ∧ f.rsqrt m (.fin n 0 e) = (f.inf n, 2) ∧ f.exp2 m (.fin n 0 e) = ((2 ^ (f.eb - 1) - 1) * 2 ^ f.mb, 0) ∧
     f.recip m (.inf n) = (f.signBit n, 0) ∧ f.rsqrt m (.inf false) = (0, 0) ∧ f.exp2 m (.inf false) = (f.inf false, 0) ∧
     f.rsqrt m (.inf true) = (f.nan, 1) ∧ f.exp2 m (.inf true) = (0, 0) ∧ f.rsqrt m (.fin true y e) = (f.nan, 1) ∧
     f.recip m (.nan n) = (f.nan, if n then 1 else 0) ∧ f.rsqrt m (.nan n) = (f.nan, if n then 1 else 0) ∧
     f.exp2 m (.nan n) = (f.nan, if n then 1 else 0) ∧
     fp32.recip 0 (fp32.decode 0x40400000) = (0x3EAAB000, 0x10)) ∧
  ∀ (f : Fmt) (m x y va vb : Nat) (sat a b : Bool) (e g k lo hi : Int),
    f ∈ [fp64, fp32, fp16, bf16, e4m3, e5m2, e3m2, e2m3, e2m1] → m < 5 →
    let at_ := fun (q : Int) (n : Bool) (v : Nat) (z : Int) => let u : Int := v * 2 ^ (z - q).toNat; if n then -u else u
    let qn := e + (Nat.log2 x + 1) - (f.mb + 1)
    let q := max qn (2 - 2 ^ (f.eb - 1) - f.mb)
    let K := (roundAt m a x e q).1 * 2 ^ (q - f.qmin).toNat
    let inexact := (roundAt m a x e q).2 = false
    let tiny := qn < f.qmin ∧ (roundAt m a x e qn).1 < 2 ^ f.mb * 2 ^ (f.qmin - qn).toNat
    let r := min e g
    let A := at_ r a x e
    let B := at_ r b y g
    (g ≤ e → roundAt m a x e g = (x * 2 ^ (e - g).toNat, true)) ∧
    f.qmin = 2 - 2 ^ (f.eb - 1) - f.mb ∧ f.round m sat a 0 e = (f.signBit a, 0) ∧
    (0 < x → (K : Int) ≤ FVal.toInt f.qmin (f.decode (f.largest false)) →
      (∃ M E, f.decode (f.round m sat a x e).1 = .fin a M E ∧ f.qmin ≤ E ∧ M * 2 ^ (E - f.qmin).toNat = K) ∧
      ((f.round m sat a x e).2.testBit 4 = true ↔ inexact) ∧ ((f.round m sat a x e).2.testBit 3 = true ↔ inexact ∧ tiny) ∧
      (f.round m sat a x e).2 % 8 = 0 ∧ (f.round m sat a x e).2 < 32) ∧
    (0 < x → FVal.toInt f.qmin (f.decode (f.largest false)) < K → f.round m sat a x e =
      (if sat || m == 2 || m == 3 && a || m == 4 && !a then f.largest a else f.inf a, 4 + 16)) ∧
    f.mul m (.fin a x e) (.fin b y g) = f.round m false (a != b) (x * y) (e + g) ∧
    f.fma m (.fin a x e) (.fin b y g) (.fin sat va k) = f.add m (.fin (a != b) (x * y) (e + g)) (.fin sat va k) ∧
    (A + B ≠ 0 → f.add m (.fin a x e) (.fin b y g) = f.round m false (decide (A + B < 0)) (A + B).natAbs r) ∧
    (A + B = 0 → f.add m (.fin a x e) (.fin b y g) = (f.signBit (if x = 0 ∧ y = 0 ∧ a = b then a else m == 4), 0)) ∧
    (0 < x → 0 < y → ∃ j : Nat, 2 ^ (f.mb + 1) * y ≤ x * 2 ^ j ∧
      let u := x * 2 ^ j / y
      f.div m (.fin a x e) (.fin b y g) =
        if x * 2 ^ j % y = 0 then f.round m false (a != b) u (e - g - j) else f.round m false (a != b) (4 * u + 1) (e - g - j - 2)) ∧
    (0 < y → f.div m (.fin a 0 e) (.fin b y g) = (f.signBit (a != b), 0)) ∧
    (0 < x → ∃ j u : Nat, (e - j) % 2 = 0 ∧ 2 ^ (f.mb + 1) ≤ u ∧ u * u ≤ x * 2 ^ j ∧ x * 2 ^ j < (u + 1) * (u + 1) ∧
      f.sqrt m (.fin false x e) =
        if u * u = x * 2 ^ j then f.round m false false u ((e - j) / 2) else f.round m false false (4 * u + 1) ((e - j) / 2 - 2)) ∧
    ((FVal.fin a x e).lt (.fin b y g) = true ↔ A < B) ∧ ((FVal.fin a x e).eq (.fin b y g) = true ↔ A = B) ∧
    (f.decode va = .fin a x e → f.decode vb = .fin b y g →
      let less := A < B ∨ A = B ∧ a = true ∧ b = false
      f.minMax false va vb = (if less then va else vb, 0) ∧ f.minMax true va vb = (if less then vb else va, 0)) ∧
    f.convert m sat (.fin a x e) = f.round m sat a x e ∧ f.ofInt m sat k = f.round m sat (decide (k < 0)) k.natAbs 0 ∧
    let R : Int := if a then -((roundAt m a x e 0).1 : Int) else (roundAt m a x e 0).1
    (lo ≤ hi → toIntRange m lo hi (.fin a x e) =
      if R < lo then (lo, 1) else if hi < R then (hi, 1) else (R, if (roundAt m a x e 0).2 then 0 else 16)) ∧
    toIntRange m lo hi (.nan a) = (0, 1) ∧ toIntRange m lo hi (.inf a) = (if a then lo else hi, 1)

/-! ### Memory -/

/-- R125 to R127, R298, R320: the causes of a scalar access, in order: the form of the address; on the own layer and in the BD region a page
that denies it, then alignment, then for a load a place of the BD region that is none; in the Rope window the cause that R127 gives a store or an
atomic, and for a load the grant, then alignment.  EVA is the address and EINFO holds KIND. -/
def Obligations.AccessCausesInOrder : Prop :=
  ∀ (i : Instr) (s s' : State) (k : AKind) (va : Word) (n : Nat),
    accessOf i s.th = some (k, va, n) → (enablesOf i = 1#3 → s.th.status.getLsbD 4 = true) →
    let info := BitVec.ofNat 64 (kindField k)
    let x := s.translate s.myCore s.myLayer s.th.tag s.th.sv k va (s.place s.cur)
    let own := (va.extractLsb' 52 4).toNat = s.myLayer ∨ va.extractLsb' 52 4 = 15#4 ∨ va.extractLsb' 52 4 = 8#4
    (s.formOk va = false → Does i s (Traps 0x0F 0 va info s)) ∧
    (s.formOk va = true → own → dieOf va ≠ 14 →
      (∀ c, c < 0x10 → 0x08 ≤ c → x = (.deny c, s') → Does i s (Traps c 0 va info s')) ∧
      (∀ pa mt, x = (.ok pa mt, s') → va.toNat % n ≠ 0 → Does i s (Traps 0x0E 0 va info s')) ∧
      (∀ pa mt, x = (.ok pa mt, s') → va.toNat % n = 0 → k = .load → 0x2000000000 ≤ pa →
        (let o := pa - 0x10000000000
         ¬ (o + n ≤ 0x10000 ∨ 0x100000 ≤ o ∧ o + n ≤ 0x180000) ∧ ¬ (0x8000000000 ≤ o ∧ o + n ≤ 0x10000000000)) →
        Does i s (Traps 0x09 0 va info s'))) ∧
    (s.formOk va = true → dieOf va = 14 →
      (k = .store → Does i s (Traps 0x0B 0 va info s)) ∧ (k = .amo → Does i s (Traps 0x0C 0 va info s)) ∧
      (k = .load → (s.granted s.th.tag.ctx (offOf va) n = false → Does i s (Traps 0x09 0 va info s)) ∧
        (s.granted s.th.tag.ctx (offOf va) n = true → va.toNat % n ≠ 0 → Does i s (Traps 0x0E 0 va info s))))

/-- R265, R257: an access of the own layer whose page one TLB entry of the core maps, and that the page allows, goes to that page's frame;
the check changes nothing. R256, R258, R259: a check that passes changes no thread, no Rope window, no BD memory, no request, and no line of an
RDC or an L1I. -/
def Obligations.AHitGivesTheFrameAndACheckKeepsThreads : Prop :=
  (∀ (s : State) (u : Nat) (k : AKind) (va : Word) (n align rope noCtx key mt : Nat),
     Maps s k va key mt → va.toNat % align = 0 → s.check u k va n align rope noCtx = .ok (.mem key mt) s) ∧
  (∀ (s s' : State) (u : Nat) (k : AKind) (va : Word) (n align rope noCtx : Nat) (tg : Target),
     s.check u k va n align rope noCtx = .ok tg s' →
     s'.threads = s.threads ∧ s'.cur = s.cur ∧ s'.rope = s.rope ∧ s'.bd = s.bd ∧ s'.packets = s.packets ∧ s'.nextId = s.nextId ∧
       s'.agenda = s.agenda ∧ s'.devState = s.devState ∧ s'.rdc = s.rdc ∧ s'.l1i = s.l1i)

/-- R127, R128, R130: loads that no other layer serves: the bytes in the memory of the own layer; those of the own replica of the Rope window,
with no Rope write of the thread to them under way; those of BD memory, with no earlier write of the thread there under way: extended, into the
destination.  R253, R379: a page of memory type device reads the bytes that BD memory has, any other type those or the ones of a line that the
layer's HSs hold. -/
def Obligations.LoadsReadOwnLayer : Prop :=
  (∀ (s : State) (layer o n mt : Nat), o % 64 + n ≤ 64 →
    (mt = 3 → (s.bdSee layer o n mt).1 = valOf (s.bdReads o n)) ∧
    (mt ≠ 3 → (s.bdSee layer o n mt).1 = valOf (s.bdReads o n) ∨
      ∃ l, Table.find s.bdLines (bdLineKey layer o) = some l ∧ (s.bdSee layer o n mt).1 = l.toNat / 2 ^ (8 * (o % 64)) % 2 ^ (8 * n)) ∧
    (∃ b f r, (s.bdSee layer o n mt).2 = { s with bdLines := b, free := f, refused := r })) ∧
  ∀ (s s' : State) (d a : Reg) (i : BitVec 12) (j : BitVec 6) (key mt v : Nat),
    let va := BitVec.ofInt 64 ((s.th.rx a).toInt + i.toInt)
    let sp := BitVec.ofNat 64 ((s.th.rx 2#5).toNat + 8 * j.toNat)
    let Reads := fun (va : Word) (n : Nat) =>
      s.check 0 .load va n n 0 0 = .ok (.mem key mt) s' ∧ s'.mustWait va.toNat n = false ∧
          s'.deviceWaits mt = false ∧ s'.isPoisoned key n = false ∧ v = s'.peekNat key n ∨
        s' = s ∧ dieOf va = 14 ∧ s.formOk va = true ∧ s.granted s.th.tag.ctx (offOf va) n = true ∧ va.toNat % n = 0 ∧
          (∀ x, x ∈ s.myRope → x.covers (offOf va) n = false) ∧ v = s.ropeRead s.myLayer (offOf va) n ∨
        ∃ u, s.check 0 .load va n n 0 0 = .ok (.bd key mt) u ∧ (key + n ≤ 0x10000 ∨ 0x100000 ≤ key ∧ key + n ≤ 0x180000) ∧
          u.bdPending = false ∧ u.deviceWaits mt = false ∧ (v, s') = u.bdSee u.myLayer key n mt
    let Sx := fun (k : Instr) (len n : Nat) (va : Word) => Reads va n → Does k s fun t =>
      OnlyThread s' t ∧ Completes len s.th t.th ∧ WritesX d (BitVec.ofInt 64 (BitVec.ofNat (8 * n) v).toInt) s.th t.th
    let Zx := fun (k : Instr) (n : Nat) => Reads va n → Does k s fun t =>
      OnlyThread s' t ∧ Completes 4 s.th t.th ∧ WritesX d (BitVec.ofNat 64 (v % 2 ^ (8 * n))) s.th t.th
    let Fx := fun (k : Instr) (n : Nat) => s.th.status.getLsbD 4 = true → Reads va n → Does k s fun t =>
      OnlyThread s' t ∧ Completes 4 s.th t.th ∧ WritesF d (signFill n v) 0 s.th t.th
    Sx (.ldI8 d a i) 4 1 va ∧ Sx (.ldI16 d a i) 4 2 va ∧ Sx (.ldI32 d a i) 4 4 va ∧ Sx (.ldI64 d a i) 4 8 va ∧
    Sx (.hLds d j) 2 8 sp ∧ Zx (.ldN8 d a i) 1 ∧ Zx (.ldN16 d a i) 2 ∧ Zx (.ldN32 d a i) 4 ∧
    Fx (.fldF16 d a i) 2 ∧ Fx (.fldF32 d a i) 4 ∧ Fx (.fldF64 d a i) 8

/-- R128, R130: stores to the own layer write their low bytes and nothing else, and enter psig; a store to a page of memory type device is
irrevocable (R345), and one whose controller stalls it waits (R365).  R21, R379: a store to the BD region leaves for the BD and counts in ors; at
256 it waits. -/
def Obligations.StoresWriteOwnLayer : Prop :=
  ∀ (s s' : State) (a b : Reg) (i : BitVec 12) (j : BitVec 6) (key mt : Nat),
    let va := BitVec.ofInt 64 ((s.th.rx a).toInt + i.toInt)
    let sp := BitVec.ofNat 64 ((s.th.rx 2#5).toNat + 8 * j.toNat)
    let W := fun (k : Instr) (len n : Nat) (va v : Word) =>
      (s.check 0 .store va n n 0x0B 0 = .ok (.mem key mt) s' → s'.raddWaits key n = false → s'.deviceWaits mt = false →
        (mt ≠ 3 ∨ s'.stallsAt (key / 16) (s'.colour s'.th) = false → Does k s fun t =>
          StoresAt key (bytesOf n v.toNat) s' t ∧ Completes len s.th t.th ∧
            t.th.bare = { s.th with psig := psigAfter s.th va, region := if mt = 3 then irrevAfter s.th else s.th.region }.bare) ∧
        (mt = 3 ∧ s'.stallsAt (key / 16) (s'.colour s'.th) = true → Does k s (Waits s'))) ∧
      (s.check 0 .store va n n 0x0B 0 = .ok (.bd key mt) s' →
        (s.th.ors < 256 → Does k s fun t =>
          Sends (fun p => p.kind = .store ∧ p.va = va ∧ p.n = n ∧ p.pa = key ∧ p.mt = mt ∧ p.counted = 1 ∧
            lineGet p.data 0 n = v.toNat % 2 ^ (8 * n)) s' t ∧ Completes len s.th t.th ∧
          t.th.bare = { s.th with
            psig := psigAfter s.th va, ors := s.th.ors + 1, region := if mt = 3 then irrevAfter s.th else s.th.region }.bare) ∧
        (256 ≤ s.th.ors → Does k s (Waits s')))
    W (.stI8 a b i) 4 1 va (s.th.rx b) ∧ W (.stI16 a b i) 4 2 va (s.th.rx b) ∧ W (.stI32 a b i) 4 4 va (s.th.rx b) ∧
    W (.stI64 a b i) 4 8 va (s.th.rx b) ∧ W (.hSts b j) 2 8 sp (s.th.rx b) ∧
    (s.th.status.getLsbD 4 = true →
      W (.fstF16 a b i) 4 2 va (s.th.rf b) ∧ W (.fstF32 a b i) 4 4 va (s.th.rf b) ∧ W (.fstF64 a b i) 4 8 va (s.th.rf b))

/-- R21, R128, R253, R345: a store to another layer or package, of every width, leaves as a request, retires and counts in ors; at 256 it
waits; it is irrevocable if its home's page is of memory type device (in another package the type is a free value, log 66).  A load from there that
neither the RDC nor an answer serves sends a request and waits; one that has its answer, or finds its line in the RDC, completes.  R132: an AMO or CAS
there sends its request, which it cannot withdraw, and waits; with the answer it completes, and the cluster's RDC copy of the line is gone
(R252). -/
def Obligations.RemoteAccessesLeaveTheCore : Prop :=
  ∀ (s s' : State) (w : BitVec 1) (d a b : Reg) (i : BitVec 12) (j : BitVec 6),
    let va := BitVec.ofInt 64 ((s.th.rx a).toInt + i.toInt)
    let sp := BitVec.ofNat 64 ((s.th.rx 2#5).toNat + 8 * j.toNat)
    let fen := s.th.status.getLsbD 4 = true
    let St := fun (k : Instr) (len n : Nat) (va v : Word) =>
      let mt := (s'.awayType va).1
      s.check 0 .store va n n 0x0B 0 = .ok .away s' → va.toNat % n = 0 →
      (s.th.ors < 256 → Does k s fun t =>
        Sends (fun p => p.kind = .store ∧ p.va = va ∧ p.n = n ∧ lineGet p.data 0 n = v.toNat % 2 ^ (8 * n) ∧ p.mt = mt ∧ p.counted = 1) s' t ∧
          Completes len s.th t.th ∧ t.th.bare = { s.th with
            psig := psigAfter s.th va, ors := s.th.ors + 1, region := if mt = 3 then irrevAfter s.th else s.th.region }.bare) ∧
      (256 ≤ s.th.ors → Does k s (Waits s'))
    let Ld := fun (k : Instr) (len n : Nat) (va : Word) (Writes : Nat → Thread → Thread → Prop) =>
      s.check 0 .load va n n 0 0 = .ok .away s' → s'.mustWait va.toNat n = false → va.toNat % n = 0 →
      (s'.rdcHit va = none → s'.answer (lineVa va) .load = none → s'.th.reqs = [] → Does k s fun t =>
        Sends (fun p => p.kind = .load ∧ p.va = va ∧ p.n = n) s' t ∧ t.th.waiting = true ∧ t.th.reqs = [s'.nextId] ∧ t.th.calm = s.th.calm) ∧
      (∀ x, s'.rdcHit va = none → s'.answer (lineVa va) .load = some x → x.held = none → x.cause = 0 → x.poison = 0#4 → Does k s fun t =>
        OnlyThread s' t ∧ Completes len s.th t.th ∧ Writes (lineGet (x.data.setWidth 512) (va.toNat % 64) n) s.th t.th) ∧
      (∀ l, s'.rdcHit va = some l → l.poison = 0#4 → Does k s fun t =>
        OnlyThread s' t ∧ Completes len s.th t.th ∧ Writes (lineGet l.data (va.toNat % 64) n) s.th t.th)
    let Sx := fun (k : Instr) (len n : Nat) (va : Word) => Ld k len n va fun v => WritesX d (BitVec.ofInt 64 (BitVec.ofNat (8 * n) v).toInt)
    let Zx := fun (k : Instr) (n : Nat) => Ld k 4 n va fun v => WritesX d (BitVec.ofNat 64 v)
    let Fx := fun (k : Instr) (n : Nat) => fen → Ld k 4 n va fun v => WritesF d (signFill n v) 0
    let At := fun (k : Instr) (q : Packet → Prop) =>
      let n := if w = 0#1 then 4 else 8
      let va := s.th.rx a
      s.check 0 .amo va n n 0x0C 0 = .ok .away s' →
      (s'.answer va.toNat .amo = none → s'.th.reqs = [] → Does k s fun t =>
        Sends (fun p => q p ∧ p.va = va ∧ p.n = n ∧ lineGet p.data 0 n = (s.th.rx b).toNat % 2 ^ (8 * n)) s' t ∧
          t.th.waiting = true ∧ t.th.reqs = [s'.nextId] ∧ t.th.sent = true ∧ t.th.calm = s.th.calm) ∧
      (∀ x, s'.answer va.toNat .amo = some x → x.held = none → x.cause = 0 → x.poison = 0#4 → Does k s fun t =>
        Completes 4 s.th t.th ∧ t.th.bare = { s.th with x := t.th.x, psig := psigAfter s.th va, region := irrevAfter s.th }.bare ∧
          (∀ r, t.th.rx r = if r = 0#5 then 0#64
            else if r = d then BitVec.ofInt 64 (BitVec.ofNat (8 * n) (x.data.toNat % 2 ^ (8 * n))).toInt else s.th.rx r) ∧
          (∀ l, l ∈ t.rdc ↔ l ∈ s'.rdc ∧ ¬ (l.cl = s.myCluster ∧ l.va = va.toNat / 64 * 64 ∧ l.tag = s.th.tag)) ∧
          (∀ y, t.peek y = s'.peek y) ∧ ∀ p, p ≠ s.cur → t.thread p = s.thread p)
    St (.stI8 a b i) 4 1 va (s.th.rx b) ∧ St (.stI16 a b i) 4 2 va (s.th.rx b) ∧ St (.stI32 a b i) 4 4 va (s.th.rx b) ∧
    St (.stI64 a b i) 4 8 va (s.th.rx b) ∧ St (.hSts b j) 2 8 sp (s.th.rx b) ∧
    (fen → St (.fstF16 a b i) 4 2 va (s.th.rf b) ∧ St (.fstF32 a b i) 4 4 va (s.th.rf b) ∧ St (.fstF64 a b i) 4 8 va (s.th.rf b)) ∧
    Sx (.ldI8 d a i) 4 1 va ∧ Sx (.ldI16 d a i) 4 2 va ∧ Sx (.ldI32 d a i) 4 4 va ∧ Sx (.ldI64 d a i) 4 8 va ∧ Sx (.hLds d j) 2 8 sp ∧
    Zx (.ldN8 d a i) 1 ∧ Zx (.ldN16 d a i) 2 ∧ Zx (.ldN32 d a i) 4 ∧
    Fx (.fldF16 d a i) 2 ∧ Fx (.fldF32 d a i) 4 ∧ Fx (.fldF64 d a i) 8 ∧
    At (.amoadd w d a b) (fun p => p.kind = .amo 0) ∧ At (.amoswap w d a b) (fun p => p.kind = .amo 1) ∧
    At (.amoand w d a b) (fun p => p.kind = .amo 2) ∧ At (.amoor w d a b) (fun p => p.kind = .amo 3) ∧
    At (.amoxor w d a b) (fun p => p.kind = .amo 4) ∧ At (.amomin w d a b) (fun p => p.kind = .amo 5) ∧
    At (.amomax w d a b) (fun p => p.kind = .amo 6) ∧ At (.amominu w d a b) (fun p => p.kind = .amo 7) ∧
    At (.amomaxu w d a b) (fun p => p.kind = .amo 8) ∧
    At (.cas w d a b) (fun p => p.kind = .cas ∧ lineGet p.data2 0 (if w = 0#1 then 4 else 8) =
      (s.th.rx d).toNat % 2 ^ (8 * if w = 0#1 then 4 else 8))

/-- R132 to R134: an AMO or CAS on the own layer reads the old value, writes the new one as one step, and gives the old one back, sign-
extended; a CAS whose comparison fails writes nothing.  It enters psig and is irrevocable (R129, R345). R135: a RADD or RADD.F
is posted: it retires with memory unchanged, its addend on its way to the home HS or the BD; one that finds a partner in the cluster's
combining node joins it (R292).  One on the own layer's memory does not count in ors; any other does, and waits at 256 (R21). -/
def Obligations.AtomicsAndReductions : Prop :=
  (∀ (s s' : State) (w : BitVec 1) (d a b : Reg) (key mt : Nat),
     let n := if w = 0#1 then 4 else 8
     let va := s.th.rx a
     s.check 0 .amo va n n 0x0C 0 = .ok (.mem key mt) s' → s'.mustWait va.toNat n = false → s'.raddWaits key n = false →
     s'.isPoisoned key n = false →
     let old := s'.peekNat key n
     let y := (s.th.rx b).toNat % 2 ^ (8 * n)
     let e := (s.th.rx d).toNat % 2 ^ (8 * n)
     let less := decide ((BitVec.ofNat (8 * n) old).toInt < (BitVec.ofNat (8 * n) y).toInt)
     let A := fun (i : Instr) (new : Option Nat) => Does i s fun t =>
       (match new with | some v => StoresAt key (bytesOf n v) s' t | none => OnlyThread s' t) ∧ Completes 4 s.th t.th ∧
         t.th.bare = { s.th with x := t.th.x, psig := psigAfter s.th va, region := irrevAfter s.th }.bare ∧
         ∀ r, t.th.rx r = if r = 0#5 then 0#64 else if r = d then BitVec.ofInt 64 (BitVec.ofNat (8 * n) old).toInt else s.th.rx r
     A (.amoadd w d a b) (some ((old + y) % 2 ^ (8 * n))) ∧ A (.amoswap w d a b) (some y) ∧
     A (.amoand w d a b) (some (old &&& y)) ∧ A (.amoor w d a b) (some (old ||| y)) ∧ A (.amoxor w d a b) (some (old ^^^ y)) ∧
     A (.amomin w d a b) (some (if less then old else y)) ∧ A (.amomax w d a b) (some (if less then y else old)) ∧
     A (.amominu w d a b) (some (min old y)) ∧ A (.amomaxu w d a b) (some (max old y)) ∧
     A (.cas w d a b) (if old = e then some y else none)) ∧
  (∀ (s s' : State) (w : BitVec 1) (a b : Reg) (tg : Target) (fp : Bool),
     let n := if w = 0#1 then 4 else 8
     let va := s.th.rx a
     let i := if fp then Instr.raddF w a b else Instr.radd w a b
     let y := if fp then (s.th.rf b).toNat % 2 ^ (8 * n) else (s.th.rx b).toNat % 2 ^ (8 * n)
     let counts := match tg with | .mem _ _ => 0 | _ => 1
     s.check 0 .amo va n n 0x0C 0x0B = .ok tg s' → (fp = true → s.th.status.getLsbD 4 = true) → (tg = .away → va.toNat % n = 0) →
     (counts = 0 ∨ s.th.ors < 256 → Does i s fun t =>
       Completes 4 s.th t.th ∧
         t.th.bare = { s.th with psig := psigAfter s.th va, region := irrevAfter s.th, ors := s.th.ors + counts }.bare ∧
         (∀ k, t.peek k = s'.peek k) ∧ (∀ p, p ≠ s.cur → t.thread p = s.thread p) ∧
         (s'.raddPartner fp va n = none → ∃ p ∈ t.packets, p.id = s'.nextId ∧ p.kind = .radd fp ∧ p.va = va ∧ p.n = n ∧
           lineGet p.data 0 n = y ∧ p.counted = counts) ∧
         (∀ q, s'.raddPartner fp va n = some q → ∃ p ∈ t.packets, p.id = q.id ∧ p.joined = [s.cur] ∧ p.counted = q.counted + counts ∧
           p.data = BitVec.ofNat 512 (raddSum fp n (lineGet q.data 0 n) y))) ∧
     (counts = 1 ∧ 256 ≤ s.th.ors → Does i s (Waits s')))

/-- R131, R137, R141: PREF and SIGRD; FENCE and ORSWAIT complete when what they wait for is over, raise a deferred denial, and wait
otherwise; SIGCLR of a sync object of the own layer clears FULL and SIG, writes the reserved bits as zero (R5), and leaves VALUE and
psig; on a page of memory type device it is cause 0x0C, in the Rope window it is an ordered item, and one of another layer or of the BD is a
request (R127).  PREF of the own layer, the Rope window or the BD changes nothing else: no page-table entry gains AC or D; one of another layer
completes if the RDC holds the line or its home has answered, and else asks the home. -/
def Obligations.OrderingInstructions : Prop :=
  ∀ (s s' : State) (p : BitVec 2) (q : BitVec 5) (d a : Reg) (i : BitVec 12) (tg : Target) (key mt : Nat) (y : Denial),
    let settledAll := s.localDone = true ∧ (p ≠ 1#2 → s.th.ors = 0)
    let denied := s.th.denial = some y ∧ y.cause < 0x20
    (settledAll ∧ (p.getLsbD 1 = true → s.th.denial = none) → Does (.fence p) s (ResultNone 4 s)) ∧
    (p.getLsbD 1 = true ∧ denied → Does (.fence p) s (DenialTraps y s)) ∧
    (¬ settledAll ∧ (p.getLsbD 1 = true → s.th.denial = none) → Does (.fence p) s (Waits s)) ∧
    (s.th.denial = none ∧ s.th.ors = 0 → Does .orswait s (ResultNone 4 s)) ∧
    (denied → Does .orswait s (DenialTraps y s)) ∧
    (s.th.denial = none ∧ s.th.ors ≠ 0 → Does .orswait s fun t => Waits s t ∧ t.th.parked = some .orswait) ∧
    (s.th.status.getLsbD 5 = true → Does (.sigrd d) s (ResultV 4 d s.th.psig 0 s)) ∧
    (let va := BitVec.ofInt 64 ((s.th.rx a).toInt + i.toInt)
     let k : AKind := if q = 1#5 then .store else .load
     q.toNat ≤ 2 → s.check 0 k va 1 1 0 0 = .ok tg s' →
       (tg ≠ .away → Does (.pref q a i) s (ResultNone 4 s)) ∧
       (∀ x, tg = .away → (s.rdcHit va = none ∨ q = 1#5) → s.answer va.toNat k = some x → x.held = none → x.cause = 0 →
         Does (.pref q a i) s (ResultNone 4 s)) ∧
       (tg = .away → s.rdcHit va ≠ none → q = 2#5 → Does (.pref q a i) s (ResultNone 4 s)) ∧
       (tg = .away → s.rdcHit va = none ∨ q = 1#5 → s.answer va.toNat k = none → s.th.reqs = [] → Does (.pref q a i) s fun t =>
         Sends (fun p => p.kind = .pref q.toNat ∧ p.va = va) s t ∧ t.th.waiting = true ∧ t.th.reqs = [s.nextId] ∧ t.th.calm = s.th.calm)) ∧
    (let va := s.th.rx a
     let posted := { s.th with region := irrevAfter s.th, ors := s.th.ors + 1 }
     s.check 0 .store va 128 128 0 0 = .ok tg s' → (tg = .away → va.toNat % 128 = 0) →
       (tg = .mem key 3 ∨ tg = .bd key 3 → Does (.sigclr a) s (Traps 0x0C 0 va (BitVec.ofNat 64 (kindField .store)) s')) ∧
       (s.th.ors < 256 → tg = .away ∨ tg = .bd key mt ∧ mt ≠ 3 → Does (.sigclr a) s fun t =>
         Sends (fun p => p.kind = .sigclr ∧ p.va = va ∧ p.n = 128 ∧ p.counted = 1) s' t ∧ Completes 4 s.th t.th ∧ t.th.bare = posted.bare) ∧
       (s.th.ors < 256 → tg = .rope key → Does (.sigclr a) s fun t =>
         Enqueues s.myLayer { Item.blank with
           op := .sigclr, src := s.cur, tag := s.th.tag, colour := some (s.colour s.th), off := key, n := 128 } s t ∧
           Completes 4 s.th t.th ∧ t.th.bare = posted.bare) ∧
       (256 ≤ s.th.ors → tg = .away ∨ tg = .rope key ∨ tg = .bd key mt ∧ mt ≠ 3 → Does (.sigclr a) s (Waits s'))) ∧
    (s.check 0 .store (s.th.rx a) 128 128 0 0 = .ok (.mem key mt) s' → mt ≠ 3 → s'.raddWaits key 128 = false → Does (.sigclr a) s fun t =>
      StoresBytes (fun x => if key + 8 ≤ x ∧ x < key + 128 then some 0#8 else none) s' t ∧ Completes 4 s.th t.th ∧ t.th.bare = { s.th with region := irrevAfter s.th }.bare)

/-- R127, R138 to R140, R345: acquires and releases.  At cluster and die scope they are a load and a store in order; at package
and system scope a release merges psig into SIG, sets FULL at 192 bits, writes VALUE, zeroes the reserved bits (R5) and clears psig, and
an acquire drops the lines of its context that FULL or SIG names from the RDC, merges SIG into psig and gives VALUE; on its way back a fill of
a line that it drops is kept out of the RDC (R231).  An object of another layer is asked for; an acquire of it, or of one in the BD, also drops
the RDC's copy of the object's first line (R252).  R242: FULLACQ counts the acquires that find FULL, SELINV what the others drop: two for a line that
the L1D of the core holds too (log 82, the model's choice). -/
def Obligations.AcquireAndRelease : Prop :=
  ∀ (s s' : State) (w : BitVec 1) (p : BitVec 2) (d a b : Reg) (tg : Target) (key mt : Nat),
    let n := if w = 0#1 then 4 else 8
    let va := s.th.rx a
    let y := (s.th.rx b).toNat
    let line := va.toNat / 64 * 64
    let asks := fun (t : State) => t.th.waiting = true ∧ t.th.reqs = [s'.nextId] ∧ t.th.calm = s.th.calm
    let Good := fun (x : Answer) => x.held = none ∧ x.cause = 0 ∧ x.poison = 0#4
    (p.getLsbD 1 = false → dieOf va ≠ 14 → s.check 0 .acq va n n 0 0 = .ok tg s' →
      (∀ v : Nat, tg = .mem key mt ∧ s'.mustWait va.toNat n = false ∧ s'.deviceWaits mt = false ∧ s'.isPoisoned key n = false ∧
            v = s'.peekNat key n ∨
          (∃ x, tg = .away ∧ s'.answer va.toNat .acq = some x ∧ Good x ∧ v = x.data.toNat % 2 ^ (8 * n)) →
        Does (.ldAcq w p d a) s fun t =>
          OnlyThread s' t ∧ Completes 4 s.th t.th ∧ WritesX d (BitVec.ofInt 64 (BitVec.ofNat (8 * n) v).toInt) s.th t.th) ∧
      (tg = .away → s'.answer va.toNat .acq = none → s'.th.reqs = [] → Does (.ldAcq w p d a) s fun t =>
        Sends (fun q => q.kind = .acq ∧ q.va = va ∧ q.n = n) s' t ∧ asks t)) ∧
    (p.getLsbD 1 = false → s.check 0 .rel va n n 0x0B 0 = .ok tg s' → s'.localDone = true → (p = 0#2 → s.th.ors = 0) →
      (tg = .mem key mt → s'.deviceWaits mt = false → (mt = 3 → s'.cairn.active = false) → Does (.stRel w p a b) s fun t =>
        StoresAt key (bytesOf n y) s' t ∧ Completes 4 s.th t.th ∧
          t.th.bare = { s.th with region := if mt = 3 then irrevAfter s.th else s.th.region }.bare) ∧
      (tg = .away → va.toNat % n = 0 → s.th.ors < 256 → Does (.stRel w p a b) s fun t =>
        Sends (fun q => q.kind = .store ∧ q.va = va ∧ q.n = n ∧ q.counted = 1 ∧ lineGet q.data 0 n = y % 2 ^ (8 * n)) s' t ∧
          Completes 4 s.th t.th ∧ t.th.bare = { s.th with
            ors := s.th.ors + 1, region := if (s'.awayType va).1 = 3 then irrevAfter s.th else s.th.region }.bare)) ∧
    (p.getLsbD 1 = true ∨ dieOf va = 14 → s.check 0 .acq va 128 128 0 0 = .ok tg s' →
      (∀ obj : BitVec 1024,
        (tg = .mem key mt ∧ mt ≠ 3 ∧ s'.mustWait va.toNat 128 = false ∧ s'.isPoisoned key 128 = false ∧
            obj = BitVec.ofNat 1024 (s'.peekNat key 128)) ∨
          (tg = .rope key ∧ s'.myRope = [] ∧ obj = BitVec.ofNat 1024 (s'.ropeRead s.myLayer key 128)) ∨
          (tg = .bd key mt ∧ mt ≠ 3 ∧ s'.bdPending = false ∧ (key + 128 ≤ 0x10000 ∨ 0x100000 ≤ key ∧ key + 128 ≤ 0x180000) ∧
            obj = BitVec.ofNat 1024 (valOf (s'.bdReads key 128))) ∨
          (∃ x, tg = .away ∧ s'.answer va.toNat .acq = some x ∧ Good x ∧ obj = x.data) →
        let far := tg = .away ∨ tg = .bd key mt
        let full := obj.getLsbD 64
        let sig := obj.extractLsb' 512 512
        let old := BitVec.ofInt 64 (BitVec.ofNat (8 * n) (obj.toNat % 2 ^ (8 * n))).toInt
        let own := fun (l : RdcLine) => far ∧ l.cl = s.myCluster ∧ l.va = line ∧ l.tag = s.th.tag
        let hit := fun (l : RdcLine) => l.cl = s.myCluster ∧ l.tag.ctx = s.th.tag.ctx ∧
          (p = 3#2 ∧ dieOf va ≠ 14 ∨ l.va / 2 ^ 52 % 16 ≠ 9) ∧ (full = true ∨ sigHit sig l.va = true)
        let dropped := ((s'.rdc.filter fun l => decide (hit l ∧ ¬ own l)).map fun l => if l.cores.getLsbD (s.myCore % 8) then 2 else 1).sum
        let stops := fun (x : Packet) => x.pending = false ∧ x.kind.fills = true ∧
          (let l : RdcLine := ⟨clusterOf x.src, x.va.toNat / 64 * 64, x.tag, x.sup, 0#4, 0#512, 0#8⟩; own l ∨ hit l)
        Does (.ldAcq w p d a) s fun t =>
          t = { s' with threads := t.threads, rdc := t.rdc, packets := t.packets, bdLines := t.bdLines } ∧
          (tg ≠ .bd key mt → t.bdLines = s'.bdLines) ∧ (∀ q, q ≠ s.cur → t.thread q = s.thread q) ∧
          (∀ l, l ∈ t.rdc ↔ l ∈ s'.rdc ∧ ¬ own l ∧ ¬ hit l) ∧
          t.packets.map (fun x => { x with noFill := false }) = s'.packets.map (fun x => { x with noFill := false }) ∧
          (∀ x, x ∈ s'.packets → (stops x → { x with noFill := true } ∈ t.packets) ∧ (¬ stops x → x ∈ t.packets)) ∧
          Completes 4 s.th t.th ∧
          t.th.bare = { s.th with x := t.th.x, psig := s.th.psig ||| sig, fullAcq := t.th.fullAcq, selInv := t.th.selInv }.bare ∧
          t.th.fullAcq.toNat = (if full then min (s.th.fullAcq.toNat + 1) 0xFFFF else s.th.fullAcq.toNat) ∧
          t.th.selInv.toNat = (if full then s.th.selInv.toNat else min (s.th.selInv.toNat + dropped) 0xFFFF) ∧
          ∀ r, t.th.rx r = if r = 0#5 then 0#64 else if r = d then old else s.th.rx r) ∧
      (tg = .away → s'.answer va.toNat .acq = none → s'.th.reqs = [] → Does (.ldAcq w p d a) s fun t =>
        Sends (fun q => q.kind = .acq ∧ q.va = va ∧ q.n = 128) s' t ∧ asks t)) ∧
    (s.formOk va = true → dieOf va = 14 → Does (.stRel w p a b) s (Traps 0x0B 0 va (BitVec.ofNat 64 (kindField .rel)) s)) ∧
    (p.getLsbD 1 = true → s.check 0 .rel va 128 128 0x0B 0 = .ok tg s' →
      let new := fun (obj : BitVec 1024) => obj.extractLsb' 512 512 ||| s.th.psig
      let sat := fun (obj : BitVec 1024) => 192 ≤ ((List.range 512).filter fun j => (new obj).getLsbD j).length
      let after := fun (obj : BitVec 1024) (x : Nat) =>
        if x < n then BitVec.ofNat 8 (y / 256 ^ x)
        else if x < 8 then obj.extractLsb' (8 * x) 8
        else if x = 8 then (if sat obj then 1#8 else obj.extractLsb' 64 8 &&& 1#8)
        else if x < 64 then 0#8
        else (new obj).extractLsb' (8 * (x - 64)) 8
      let goes := s'.localDone = true ∧ s.th.ors = 0 ∧ s'.copiesRunning = false ∧ s.th.denial = none
      let Done := fun (t : State) => Completes 4 s.th t.th ∧ t.th.bare = { s.th with psig := 0, region := irrevAfter s.th }.bare
      (tg = .mem key mt → mt ≠ 3 → goes → Does (.stRel w p a b) s fun t => Done t ∧
        StoresBytes (fun x => if x < key ∨ key + 128 ≤ x then none
          else some (after (BitVec.ofNat 1024 (s'.peekNat key 128)) (x - key))) s' t) ∧
      (tg = .bd key mt → mt ≠ 3 → goes → key + 128 ≤ 0x8000 → Does (.stRel w p a b) s fun t => Done t ∧
        t = { s' with threads := t.threads, bd := t.bd, bdLines := t.bdLines } ∧ (∀ q, q ≠ s.cur → t.thread q = s.thread q) ∧
        ∀ x, Memory.read t.bd x = if x < key ∨ key + 128 ≤ x then Memory.read s'.bd x
          else after (BitVec.ofNat 1024 (valOf (s'.bdReads key 128))) (x - key)) ∧
      (tg = .mem key mt ∨ tg = .bd key mt → mt = 3 → Does (.stRel w p a b) s (Traps 0x0C 0 va (BitVec.ofNat 64 (kindField .rel)) s')) ∧
      (tg = .mem key mt → mt ≠ 3 → s.th.denial = none → s.th.ors ≠ 0 → Does (.stRel w p a b) s (Waits s')) ∧
      (tg = .away → s'.answer va.toNat .rel = none → s'.th.reqs = [] → Does (.stRel w p a b) s fun t =>
        Sends (fun q => q.kind = .probe .rel ∧ q.va = va ∧ q.n = 128) s' t ∧ asks t) ∧
      (∀ x, tg = .away → s'.answer va.toNat .rel = some x → Good x →
        (s.th.sent = false → goes → s.th.reqs = [] → Does (.stRel w p a b) s fun t =>
          Sends (fun q => q.kind = .rel ∧ q.va = va ∧ q.n = n ∧ lineGet q.data 0 n = y % 2 ^ (8 * n) ∧ q.data2 = s.th.psig) s' t ∧
            t.th.sent = true ∧ asks t) ∧
        (s.th.sent = true → Does (.stRel w p a b) s fun t => Done t ∧ OnlyThread s' t)))

/-- R142 to R144: WAITNE completes only on a different word and parks on an equal one.  BAR arrives once, parks, and completes when
its phase has released; BARWAIT does not arrive.  A descriptor that the thread is no party to is cause 0x05. -/
def Obligations.WaitsAndBarriers : Prop :=
  ∀ (s s' : State) (w : BitVec 1) (a b : Reg) (n : BitVec 4) (key mt ph : Nat),
    let m := if w = 0#1 then 4 else 8
    let va := s.th.rx a
    let cl := s.myCluster % 16
    let B := s.barCl s.myLayer n.toNat cl
    let desc := s.bardesc s.myLayer n.toNat
    (s.check 0 .load va m m 0 0 = .ok (.mem key mt) s' → s'.mustWait va.toNat m = false → s'.deviceWaits mt = false →
      s'.isPoisoned key m = false →
      (s'.peekNat key m ≠ (s.th.rx b).toNat % 2 ^ (8 * m) → Does (.waitne w a b) s (ResultNone 4 s')) ∧
      (s'.peekNat key m = (s.th.rx b).toNat % 2 ^ (8 * m) → Does (.waitne w a b) s fun t =>
        Waits s' t ∧ t.th.parked = some (.watch 0 key m ((s.th.rx b).toNat % 2 ^ (8 * m))))) ∧
    (s.th.parked = some (.bar n.toNat ph) →
      (ph < B.phase → Does (.bar n) s fun t =>
        OnlyThread s t ∧ Completes 4 s.th t.th ∧ t.th.bare = { s.th with prg := 0 }.bare) ∧
      (B.phase ≤ ph → Does (.bar n) s fun t => Waits s t ∧ t.th.parked = s.th.parked)) ∧
    (s.th.parked = none → s.th.prg = 0#7 → s.barOk n.toNat = true → s.localDone = true →
      barLmask desc &&& ~~~ (1#8 <<< s.myLayer) = 0#8 → Does (.bar n) s fun t =>
        t.th.waiting = true ∧ t.th.calm = s.th.calm ∧ (∃ q, t.th.parked = some (.bar n.toNat q) ∧ B.phase ≤ q) ∧
        (∀ q, q ≠ s.cur → t.thread q = s.thread q) ∧ (∀ x, t.peek x = s.peek x) ∧
        t.barCl s.myLayer n.toNat cl =
          if B.cur < barNthr desc then { B with cur := B.cur + 1 } else { B with next := B.next + 1 }) ∧
    (s.th.parked = none → ph < 2 → s.th.prg.toNat = 2 + ph → B.phase % 2 ≠ ph → 0 < B.phase → B.next = 0 → Does (.bar n) s fun t =>
        OnlyThread s t ∧ Completes 4 s.th t.th ∧ t.th.bare = { s.th with prg := 0 }.bare) ∧
    (s.th.parked = none → s.th.prg = 0#7 → s.barOk n.toNat = false →
      Does (.bar n) s (Traps 0x05 1 (encode (.bar n)).bits 0#64 s) ∧
      Does (.barwait n) s (Traps 0x05 1 (encode (.barwait n)).bits 0#64 s)) ∧
    (s.th.parked = none → s.barOk n.toNat = true → Does (.barwait n) s fun t =>
      Waits s t ∧ t.th.parked = some (.barwait n.toNat B.phase) ∧ OnlyThread s t) ∧
    (s.th.parked = some (.barwait n.toNat ph) →
      (ph < B.phase → Does (.barwait n) s (ResultNone 4 s)) ∧ (B.phase ≤ ph → Does (.barwait n) s (Waits s)))

/-- R145 to R148: RST is posted as an ordered beat; RST.REL, RAMO and RCAS send theirs once, wait, and complete with the answer of the own
replica; RFENCE waits for the thread's own Rope writes. -/
def Obligations.RopeInstructions : Prop :=
  ∀ (s : State) (w : BitVec 1) (o : BitVec 3) (d a b : Reg) (r : Answer),
    let n := if w = 0#1 then 4 else 8
    let va := s.th.rx a
    let inWindow := fun (m : Nat) => dieOf va = 14 ∧ s.formOk va = true ∧ s.granted s.th.tag.ctx (offOf va) m = true ∧ va.toNat % m = 0
    let item := fun (op : RopeOp) => { Item.blank with op := op, src := s.cur, tag := s.th.tag, colour := some (s.colour s.th), off := offOf va, n := n, val := s.th.rx b }
    let old := BitVec.ofInt 64 (BitVec.ofNat (8 * n) (r.data.toNat % 2 ^ (8 * n))).toInt
    let sends := fun (t : State) => t.th.waiting = true ∧ t.th.reqs = [s.nextId] ∧ t.th.sent = true ∧ t.th.calm = s.th.calm
    (inWindow n → s.th.ors < 256 → Does (.rst w a b) s fun t =>
      Enqueues s.myLayer (item .rst) s t ∧ Completes 4 s.th t.th ∧
        t.th.bare = { s.th with ors := s.th.ors + 1, region := irrevAfter s.th }.bare) ∧
    (inWindow n → 256 ≤ s.th.ors → Does (.rst w a b) s (Waits s)) ∧
    (s.formOk va = true → dieOf va ≠ 14 → Does (.rst w a b) s (Traps 0x0F 0 va (BitVec.ofNat 64 (kindField .store + 4)) s)) ∧
    (s.th.reqs = [] →
      (inWindow 128 → s.th.denial = none → s.localDone = true → s.th.ors = 0 → s.copiesRunning = false →
        Does (.rstRel w a b) s fun t => Enqueues s.myLayer { item .rstRel with sig := s.th.psig } s t ∧ sends t) ∧
      (inWindow n → o.toNat < 5 → Does (.ramo w o d a b) s fun t =>
        Enqueues s.myLayer { item (.ramo o.toNat) with expect := s.th.rx d } s t ∧ sends t) ∧
      (inWindow n → Does (.rcas w d a b) s fun t =>
        Enqueues s.myLayer { item .rcas with expect := s.th.rx d } s t ∧ sends t)) ∧
    (s.itemAnswer = some r →
      (Does (.rstRel w a b) s fun t => OnlyThread s t ∧ Completes 4 s.th t.th ∧
        t.th.bare = { s.th with psig := 0, region := irrevAfter s.th }.bare) ∧
      (o.toNat < 5 → Does (.ramo w o d a b) s fun t => OnlyThread s t ∧ Completes 4 s.th t.th ∧
        WritesX d old { s.th with region := irrevAfter s.th } t.th) ∧
      (Does (.rcas w d a b) s fun t => OnlyThread s t ∧ Completes 4 s.th t.th ∧
        WritesX d old { s.th with region := irrevAfter s.th } t.th)) ∧
    (s.myRope = [] → Does .rfence s (ResultNone 4 s)) ∧ (s.myRope ≠ [] → Does .rfence s (Waits s))

/-! ### Vectors -/

/-- R149, R150, R153, and the compact integer forms of R60: the lanes that km names become the operation modulo 2^w, and the others keep
their value.  VEN is 1. -/
def Obligations.VectorIntegerLanes : Prop :=
  ∀ (s : State) (w : BitVec 2) (k : BitVec 3) (d a b : Reg), s.th.status.getLsbD 5 = true →
    let V := fun (j : Instr) (len n : Nat) (km : Word) (c : Reg) (f : BitVec n → BitVec n → BitVec n) =>
      ∃ v : Line, (∀ i, i < 512 / n → Lane n v i =
        if km.getLsbD i then f (Lane n (s.th.rv c) i) (Lane n (s.th.rv b) i) else Lane n (s.th.rv d) i) ∧
        Does j s (ResultV len d v 0 s)
    let W := fun (j : Instr) (f : BitVec (8 * 2 ^ w.toNat) → BitVec (8 * 2 ^ w.toNat) → BitVec (8 * 2 ^ w.toNat)) =>
      V j 4 (8 * 2 ^ w.toNat) (s.th.rk k) a f
    let C := fun (j : Instr) (n : Nat) (f : BitVec n → BitVec n → BitVec n) => V j 2 n (BitVec.allOnes 64) d f
    let n := 8 * 2 ^ w.toNat
    W (.vadd w k d a b) (fun x y => BitVec.ofNat n (x.toNat + y.toNat)) ∧
    W (.vsub w k d a b) (fun x y => BitVec.ofInt n (x.toInt - y.toInt)) ∧
    W (.vmul w k d a b) (fun x y => BitVec.ofNat n (x.toNat * y.toNat)) ∧
    W (.vmulh w k d a b) (fun x y => BitVec.ofInt n (x.toInt * y.toInt / 2 ^ n)) ∧
    W (.vmin w k d a b) (fun x y => BitVec.ofInt n (min x.toInt y.toInt)) ∧
    W (.vmax w k d a b) (fun x y => BitVec.ofInt n (max x.toInt y.toInt)) ∧
    W (.vminu w k d a b) (fun x y => BitVec.ofNat n (min x.toNat y.toNat)) ∧
    W (.vmaxu w k d a b) (fun x y => BitVec.ofNat n (max x.toNat y.toNat)) ∧
    W (.vand w k d a b) (fun x y => x &&& y) ∧ W (.vor w k d a b) (fun x y => x ||| y) ∧ W (.vxor w k d a b) (fun x y => x ^^^ y) ∧
    W (.vsll w k d a b) (fun x y => BitVec.ofNat n (x.toNat * 2 ^ (y.toNat % n))) ∧
    W (.vsrl w k d a b) (fun x y => BitVec.ofNat n (x.toNat / 2 ^ (y.toNat % n))) ∧
    W (.vsra w k d a b) (fun x y => BitVec.ofInt n (x.toInt / 2 ^ (y.toNat % n))) ∧
    (¬ (d = 0#5 ∧ b = 0#5) → C (.hVaddI32 d b) 32 (fun x y => BitVec.ofNat 32 (x.toNat + y.toNat))) ∧
    C (.hVsubI32 d b) 32 (fun x y => BitVec.ofInt 32 (x.toInt - y.toInt)) ∧
    C (.hVaddI64 d b) 64 (fun x y => BitVec.ofNat 64 (x.toNat + y.toNat)) ∧
    C (.hVandN64 d b) 64 (fun x y => x &&& y) ∧ C (.hVorN64 d b) 64 (fun x y => x ||| y) ∧ C (.hVxorN64 d b) 64 (fun x y => x ^^^ y) ∧
    C (.hVminI32 d b) 32 (fun x y => BitVec.ofInt 32 (min x.toInt y.toInt)) ∧
    C (.hVmaxI32 d b) 32 (fun x y => BitVec.ofInt 32 (max x.toInt y.toInt)) ∧
    Does (.hVmov d b) s (ResultV 2 d (s.th.rv b) 0 s)

/-- R152, R154, R156, and the compact forms of R60: floating-point lanes, each rounded once by FCSR.RM; minimum and maximum read no mode.
The flags are those of the active lanes; one that is enabled traps and writes no lane (R116).  VEN is 1. -/
def Obligations.VectorFloatLanes : Prop :=
  ∀ (s : State) (w : BitVec 2) (k : BitVec 3) (d a b : Reg) (m : Nat), s.th.status.getLsbD 5 = true →
    let km := s.th.rk k
    let all : Word := BitVec.allOnes 64
    let F := wdFmt w
    let x := fun (f : Fmt) (r : Reg) (i : Nat) => f.decode (lane (s.th.rv r) f.width i)
    let old := fun (f : Fmt) (i : Nat) => BitVec.ofNat f.width (lane (s.th.rv d) f.width i)
    let V := fun (j : Instr) (len : Nat) (f : Fmt) (km : Word) (r : Nat → FRes) =>
      ∃ v fl, (∀ i, i < 512 / f.width → Lane f.width v i = if km.getLsbD i then BitVec.ofNat f.width (r i).1 else old f i) ∧
        LaneFlags (512 / f.width) km (fun i => (r i).2) fl ∧ Does j s (FpToV len d v fl s)
    let M := fun (big : Bool) (f : Fmt) (p q : Reg) (i : Nat) => f.minMax big (lane (s.th.rv p) f.width i) (lane (s.th.rv q) f.width i)
    (V (.vfmin w k d a b) 4 F km (M false F a b) ∧ V (.vfmax w k d a b) 4 F km (M true F a b) ∧
      V (.hVfminF32 d b) 2 fp32 all (M false fp32 d b) ∧ V (.hVfmaxF32 d b) 2 fp32 all (M true fp32 d b)) ∧
    (s.th.mode 5#3 = some m →
      V (.vfadd w k d a b) 4 F km (fun i => F.add m (x F a i) (x F b i)) ∧
      V (.vfsub w k d a b) 4 F km (fun i => F.add m (x F a i) (x F b i).neg) ∧
      V (.vfmul w k d a b) 4 F km (fun i => F.mul m (x F a i) (x F b i)) ∧
      V (.vfdiv w k d a b) 4 F km (fun i => F.div m (x F a i) (x F b i)) ∧
      V (.vfsqrt w k d a) 4 F km (fun i => F.sqrt m (x F a i)) ∧
      V (.vfma w k d a b) 4 F km (fun i => F.fma m (x F a i) (x F b i) (x F d i)) ∧
      V (.vfms w k d a b) 4 F km (fun i => F.fma m (x F a i) (x F b i) (x F d i).neg) ∧
      V (.vfnma w k d a b) 4 F km (fun i => F.fma m (x F a i).neg (x F b i) (x F d i).neg) ∧
      V (.vfnms w k d a b) 4 F km (fun i => F.fma m (x F a i).neg (x F b i) (x F d i)) ∧
      V (.hVfaddF32 d b) 2 fp32 all (fun i => fp32.add m (x fp32 d i) (x fp32 b i)) ∧
      V (.hVfsubF32 d b) 2 fp32 all (fun i => fp32.add m (x fp32 d i) (x fp32 b i).neg) ∧
      V (.hVfmulF32 d b) 2 fp32 all (fun i => fp32.mul m (x fp32 d i) (x fp32 b i)) ∧
      V (.hVfaddBf16 d b) 2 bf16 all (fun i => bf16.add m (x bf16 d i) (x bf16 b i)) ∧
      V (.hVfmulBf16 d b) 2 bf16 all (fun i => bf16.mul m (x bf16 d i) (x bf16 b i)) ∧
      V (.vfrcp w k d a) 4 F km (fun i => F.recip m (x F a i)) ∧ V (.vfrsq w k d a) 4 F km (fun i => F.rsqrt m (x F a i)) ∧
      V (.vfexp2 w k d a) 4 F km (fun i => F.exp2 m (x F a i))) ∧
    (s.th.mode 5#3 = none → Does (.vfadd w k d a b) s (Traps 0x05 1 (encode (.vfadd w k d a b)).bits 2#64 s))

/-- R157, R158: a compare writes the bits of the active lanes where it holds, and 0 elsewhere; with a NaN a floating-point one is false.
VSEL writes every lane. -/
def Obligations.VectorComparesAndSelect : Prop :=
  ∀ (s : State) (w : BitVec 2) (k c : BitVec 3) (d a b : Reg), s.th.status.getLsbD 5 = true →
    let km := s.th.rk k
    let n := 8 * 2 ^ w.toNat
    let F := wdFmt w
    let x := fun (r : Reg) (i : Nat) => F.decode (lane (s.th.rv r) F.width i)
    let C := fun (j : Instr) (f : BitVec n → BitVec n → Prop) =>
      ∃ v : Word, (∀ i, i < 64 → (v.getLsbD i = true ↔
        i < 512 / n ∧ km.getLsbD i = true ∧ f (Lane n (s.th.rv a) i) (Lane n (s.th.rv b) i))) ∧ Does j s (ResultK c v 0 s)
    let G := fun (j : Instr) (quiet : Bool) (f : FVal → FVal → Bool) =>
      ∃ (v : Word) (fl : Nat), (∀ i, i < 64 → (v.getLsbD i = true ↔ i < 512 / F.width ∧ km.getLsbD i = true ∧
          (x a i).isNan = false ∧ (x b i).isNan = false ∧ f (x a i) (x b i) = true)) ∧
        LaneFlags (512 / F.width) km (fun i =>
          if (x a i).isSnan || (x b i).isSnan || (!quiet && ((x a i).isNan || (x b i).isNan)) then 1 else 0) fl ∧
        Does j s (FpToK c v fl s)
    C (.vcmpeq w k c a b) (fun p q => p.toNat = q.toNat) ∧ C (.vcmpne w k c a b) (fun p q => p.toNat ≠ q.toNat) ∧
    C (.vcmplt w k c a b) (fun p q => p.toInt < q.toInt) ∧ C (.vcmple w k c a b) (fun p q => p.toInt ≤ q.toInt) ∧
    C (.vcmpltu w k c a b) (fun p q => p.toNat < q.toNat) ∧ C (.vcmpleu w k c a b) (fun p q => p.toNat ≤ q.toNat) ∧
    G (.vfcmpeq w k c a b) true (fun p q => p.eq q) ∧ G (.vfcmplt w k c a b) false (fun p q => p.lt q) ∧
    G (.vfcmple w k c a b) false (fun p q => p.lt q || p.eq q) ∧
    ∃ v : Line, (∀ i, i < 512 / n → Lane n v i = if km.getLsbD i then Lane n (s.th.rv a) i else Lane n (s.th.rv b) i) ∧
      Does (.vsel w k d a b) s (ResultV 4 d v 0 s)

/-- R159, R160: broadcast, element access and permutation, with only the low bits of an index; integer reductions of the active lanes, from
the identity of the operation, into lane 0, with the other lanes 0. R161: the floating-point reductions combine the active lanes in the
fixed tree; a value beside an absent node is passed on. -/
def Obligations.VectorPermuteAndReduce : Prop :=
  (∀ (s : State) (w : BitVec 2) (k : BitVec 3) (d a b : Reg), s.th.status.getLsbD 5 = true →
     let km := s.th.rk k
     let n := 8 * 2 ^ w.toNat
     let l := 512 / n
     let x := fun i => Lane n (s.th.rv a) i
     let V := fun (j : Instr) (f : Nat → BitVec n) => ∃ v : Line, (∀ i, i < l → Lane n v i = f i) ∧ Does j s (ResultV 4 d v 0 s)
     let act := ((List.range l).filter fun i => km.getLsbD i).map x
     let R := fun (j : Instr) (r : Int) => Does j s (ResultV 4 d ((BitVec.ofInt n r).setWidth 512) 0 s)
     let sel := (s.th.rx b).toNat % l
     V (.vbcast w k d a) (fun i => if km.getLsbD i then (s.th.rx a).setWidth n else Lane n (s.th.rv d) i) ∧
     Does (.vextr w d a b) s (ResultX 4 d (BitVec.ofInt 64 (x sel).toInt) s) ∧
     V (.vinsr w d a b) (fun i => if i = sel then (s.th.rx a).setWidth n else Lane n (s.th.rv d) i) ∧
     V (.vperm w k d a b) (fun i => if km.getLsbD i then x ((Lane n (s.th.rv b) i).toNat % l) else Lane n (s.th.rv d) i) ∧
     R (.vredAdd w k d a) (act.map fun e => (e.toNat : Int)).sum ∧
     R (.vredMin w k d a) ((act.map fun e => e.toInt).foldl min (2 ^ (n - 1) - 1)) ∧
     R (.vredMax w k d a) ((act.map fun e => e.toInt).foldl max (-2 ^ (n - 1))) ∧
     R (.vredMinu w k d a) ((act.map fun e => (e.toNat : Int)).foldl min (2 ^ n - 1)) ∧
     R (.vredMaxu w k d a) ((act.map fun e => (e.toNat : Int)).foldl max 0)) ∧
  (∀ (s : State) (w : BitVec 2) (k : BitVec 3) (d a : Reg) (m : Nat), s.th.status.getLsbD 5 = true →
     let F := wdFmt w
     let l := 512 / F.width
     let T := fun (j : Instr) (op : Nat → Nat → FRes) (dflt : Nat) =>
       ∃ (node : Nat → Nat → Option Nat) (fl : Nat),
         (∀ i, i < l → node 0 i = if (s.th.rk k).getLsbD i then some (lane (s.th.rv a) F.width i) else none) ∧
         (∀ v i, i < l / 2 ^ (v + 1) → node (v + 1) i =
           match node v (2 * i), node v (2 * i + 1) with
           | none, r => r
           | some p, none => some p
           | some p, some q => some (op p q).1) ∧
         (∀ n, fl.testBit n = true ↔ ∃ v i p q, i < l / 2 ^ (v + 1) ∧ node v (2 * i) = some p ∧ node v (2 * i + 1) = some q ∧
           (op p q).2.testBit n = true) ∧
         Does j s (FpToV 4 d (BitVec.ofNat 512
           (match node (Nat.log2 l) 0 with
            | none => dflt
            | some v => if (F.decode v).isNan then F.nan else v)) fl s)
     (s.th.mode 5#3 = some m → T (.vfredAdd w k d a) (fun p q => F.add m (F.decode p) (F.decode q)) 0) ∧
     T (.vfredMin w k d a) (F.minMax false) (F.inf false) ∧ T (.vfredMax w k d a) (F.minMax true) (F.inf true))

/-- R107, R108, R162, R163: VCVT converts min(64, 512 / wider width) elements, keeps the inactive ones and clears every other bit; the
integer forms convert lanes of one width. -/
def Obligations.VectorConversions : Prop :=
  ∀ (s : State) (u z : BitVec 4) (q : BitVec 1) (k : BitVec 3) (d a : Reg) (m : Nat), s.th.status.getLsbD 5 = true →
    s.th.mode 5#3 = some m →
    let km := s.th.rk k
    let n := min 64 (512 / max (eltWidth u.toNat) (eltWidth z.toNat))
    let wide := if u = 6#4 ∨ u = 7#4 then 6 else eltWidth u.toNat
    let r := fun i => convertElt u.toNat z.toNat m (q == 1#1) (elt z.toNat (s.th.rv a) i)
    let x := fun (f : Fmt) (i : Nat) => lane (s.th.rv a) f.width i
    let V := fun (j : Instr) (f : Fmt) (g : Nat → Nat × Nat) =>
      ∃ v fl, (∀ i, i < 512 / f.width → Lane f.width v i =
          if km.getLsbD i then BitVec.ofNat f.width (g i).1 else Lane f.width (s.th.rv d) i) ∧
        LaneFlags (512 / f.width) km (fun i => (g i).2) fl ∧ Does j s (FpToV 4 d v fl s)
    let toInt := fun (f : Fmt) (i : Nat) =>
      let y := toIntRange m (-2 ^ (f.width - 1)) (2 ^ (f.width - 1) - 1) (f.decode (x f i))
      ((BitVec.ofInt f.width y.1).toNat, y.2)
    ((Instr.vcvt u z q k d a).wf = true →
      ∃ v fl,
        (∀ i, i < n → elt u.toNat v i = if km.getLsbD i then (r i).1 % 2 ^ wide else elt u.toNat (s.th.rv d) i) ∧
        (∀ i, (if u = 6#4 ∨ u = 7#4 then (4 * n ≤ i ∧ i < 256) ∨ 256 + 2 * n ≤ i else eltWidth u.toNat * n ≤ i) → v.getLsbD i = false) ∧
        LaneFlags n km (fun i => (r i).2) fl ∧ Does (.vcvt u z q k d a) s (FpToV 4 d v fl s)) ∧
    V (.vcvtF32I32 k d a) fp32 (fun i => fp32.ofInt m false (BitVec.ofNat 32 (x fp32 i)).toInt) ∧
    V (.vcvtF64I64 k d a) fp64 (fun i => fp64.ofInt m false (BitVec.ofNat 64 (x fp64 i)).toInt) ∧
    V (.vcvtI32F32 k d a) fp32 (toInt fp32) ∧ V (.vcvtI64F64 k d a) fp64 (toInt fp64)

/-- R164 to R168: vector loads and stores of the own layer, whose elements the core's TLB maps: the active lanes are read or written, each
at its own address, and no other byte changes; with no active lane nothing is accessed; an element of no form, a denied or a misaligned one
raises its cause, for the line and strided forms with nothing changed, and for a gather or a scatter with the lanes before it performed and
prg naming it.  The instruction is at its beginning: nothing of it has been read or checked. -/
def Obligations.VectorMemoryAccesses : Prop :=
  ∀ (s : State) (w : BitVec 2) (k : BitVec 3) (d a b : Reg) (key mt : Nat → Nat), s.th.status.getLsbD 5 = true →
    s.th.got = [] → s.th.plan = [] →
    let km := s.th.rk k
    let n := 8 * 2 ^ w.toNat
    let l := 512 / n
    let on := fun i => i < l ∧ km.getLsbD i = true
    let va := fun (i : Nat) => BitVec.ofInt 64 ((s.th.rx a).toInt + i * (s.th.rx b).toInt)
    let ga := fun i => BitVec.ofInt 64 ((s.th.rx a).toInt + (Lane n (s.th.rv b) i).toInt)
    let Line1 := fun (kd : AKind) => Maps s kd (s.th.rx a) (key 0) (mt 0) ∧ (s.th.rx a).toNat % 64 = 0
    let Reads := fun (f : Nat → Word) (i : Nat) => Maps s .load (f i) (key i) (mt i) ∧ (f i).toNat % (n / 8) = 0 ∧
      s.mustWait (f i).toNat (n / 8) = false ∧ s.deviceWaits (mt i) = false ∧ s.isPoisoned (key i) (n / 8) = false
    let Writes := fun (f : Nat → Word) (i : Nat) =>
      Maps s .store (f i) (key i) (mt i) ∧ (f i).toNat % (n / 8) = 0 ∧ WriteGoes s (key i) (n / 8) (mt i)
    let Sectors := ∀ j, j < 64 → Maps s .load (s.th.rx a + BitVec.ofNat 64 j) (key 0 + j) (mt 0)
    let val := fun i => BitVec.ofNat n (s.peekNat (key i) (n / 8))
    let byteOf := fun (i x : Nat) => BitVec.ofNat 8 (lane (s.th.rv d) n i / 256 ^ (x - key i))
    let dev := ∃ i, on i ∧ mt i = 3
    let Stored := fun (f : Nat → Word) (m : Nat) (on' : Nat → Prop) (t : State) => MemFrame s t ∧
      (∀ x i, on' i → key i ≤ x → x < key i + m → (∀ j, i < j → on' j → ¬ (key j ≤ x ∧ x < key j + m)) → t.peek x = byteOf i x) ∧
      (∀ x, (∀ i, on' i → ¬ (key i ≤ x ∧ x < key i + m)) → t.peek x = s.peek x) ∧
      ∀ i, t.th.psig.getLsbD i = true ↔ s.th.psig.getLsbD i = true ∨ ∃ j, on' j ∧ (psigAfter s.th (f j)).getLsbD i = true
    let from_ := fun i => on i ∧ s.th.prg.toNat ≤ i
    ((∀ i, ¬ on i) → Does (.vld w k d a) s (ResultNone 4 s) ∧ Does (.vst w k d a) s (ResultNone 4 s) ∧
      Does (.vlds w k d a b) s (ResultNone 4 s)) ∧
    ((∃ i, on i) →
      (Line1 .load → Sectors → s.mustWait (s.th.rx a).toNat 64 = false → s.deviceWaits (mt 0) = false →
        s.isPoisoned (key 0) 64 = false →
        ∃ v, (∀ i, i < l → Lane n v i = if km.getLsbD i then BitVec.ofNat n (s.peekNat (key 0 + n / 8 * i) (n / 8)) else Lane n (s.th.rv d) i) ∧
          ∃ t, exec (.vld w k d a) s = .next t ∧ ResultV 4 d v 0 s t) ∧
      (Line1 .store → WriteGoes s (key 0) 64 (mt 0) → ∃ t, exec (.vst w k d a) s = .next t ∧
        StoresBytes (fun x => if key 0 ≤ x ∧ x < key 0 + 64 ∧ km.getLsbD ((x - key 0) / (n / 8)) = true then
          some ((s.th.rv d).extractLsb' (8 * (x - key 0)) 8) else none) s t ∧ Completes 4 s.th t.th ∧
        t.th.bare = { s.th with
          psig := psigAfter s.th (s.th.rx a)
          region := if mt 0 = 3 then irrevAfter s.th else s.th.region }.bare) ∧
      (∀ c, FirstCause s .load (s.th.rx a) 64 c → ∃ t, exec (.vld w k d a) s = .next t ∧ Traps c 0 (s.th.rx a) 9#64 s t) ∧
      (∀ c, FirstCause s .store (s.th.rx a) 64 c → ∃ t, exec (.vst w k d a) s = .next t ∧ Traps c 0 (s.th.rx a) 17#64 s t) ∧
      ((∀ i, on i → Reads va i) →
        ∃ v, (∀ i, i < l → Lane n v i = if km.getLsbD i then val i else Lane n (s.th.rv d) i) ∧
          ∃ t, exec (.vlds w k d a b) s = .next t ∧ ResultV 4 d v 0 s t) ∧
      (∀ j c, on j → (∀ i, i < j → on i → Reads va i) → FirstCause s .load (va j) (n / 8) c →
        ∃ t, exec (.vlds w k d a b) s = .next t ∧ Traps c 0 (va j) 9#64 s t) ∧
      (∀ j c, on j → (∀ i, i < j → on i → Writes va i) → FirstCause s .store (va j) (n / 8) c →
        ∃ t, exec (.vsts w k d a b) s = .next t ∧ Traps c 0 (va j) 17#64 s t)) ∧
    ((∀ i, on i → Writes va i) → ∃ t, exec (.vsts w k d a b) s = .next t ∧ Stored va (n / 8) on t ∧ Completes 4 s.th t.th ∧
      t.th.bare = { s.th with psig := t.th.psig, region := t.th.region }.bare ∧
      (dev → t.th.region = irrevAfter s.th) ∧ (¬ dev → t.th.region = s.th.region)) ∧
    ((∀ i, from_ i → Writes ga i) → ∃ t, exec (.vscatter w k d a b) s = .next t ∧ Stored ga (n / 8) from_ t ∧ Completes 4 s.th t.th ∧
      t.th.bare = { s.th with psig := t.th.psig, region := t.th.region, prg := 0 }.bare) ∧
    (∀ j c, from_ j → (∀ i, i < j → from_ i → Writes ga i) → FirstCause s .store (ga j) (n / 8) c →
      ∃ t, exec (.vscatter w k d a b) s = .next t ∧ Stored ga (n / 8) (fun i => from_ i ∧ i < j) t ∧
        ∃ u, u = { s.th with psig := u.psig, region := u.region, prg := BitVec.ofNat 7 j } ∧ Enters c 0 false s.th.pc (ga j) 17#64 u t.th) ∧
    ((∀ i, from_ i → Reads ga i) → ∃ t, exec (.vgather w k d a b) s = .next t ∧
      OnlyThread s t ∧ Completes 4 s.th t.th ∧ t.th.bare = { s.th with v := t.th.v, prg := 0, status := t.th.status }.bare ∧
        (∀ r, r ≠ d → t.th.rv r = s.th.rv r) ∧
        (∀ i, i < l → Lane n (t.th.rv d) i = if km.getLsbD i = true ∧ s.th.prg.toNat ≤ i then val i else Lane n (s.th.rv d) i) ∧
        ∀ i, i < 64 → t.th.status.getLsbD i = (s.th.status.getLsbD i || (decide (i = vdirtyBit) && decide (∃ j, j < l ∧ km.getLsbD j = true ∧ s.th.prg.toNat ≤ j)))) ∧
    (∀ j c, from_ j → (∀ i, i < j → from_ i → Reads ga i) → FirstCause s .load (ga j) (n / 8) c →
      ∃ t, exec (.vgather w k d a b) s = .next t ∧
        (∃ u, OnlyThread s t ∧ Enters c 0 false s.th.pc (ga j) 9#64 u t.th ∧
          u = { s.th with v := t.th.v, prg := BitVec.ofNat 7 j, status := u.status }) ∧
        (∀ r, r ≠ d → t.th.rv r = s.th.rv r) ∧
        ∀ i, i < l → Lane n (t.th.rv d) i =
          if km.getLsbD i = true ∧ s.th.prg.toNat ≤ i ∧ i < j then val i else Lane n (s.th.rv d) i)

/-! ### Tiles -/

/-- R183, R187 to R189, R278, and ACZERO of R178: every accumulator element scaled, converted or cleared in place, one tile row moved, the
weight planes exchanged whole; TSYNC waits for the thread's tile instructions, a TWLD in expansion among them.  The TE has room, and nothing read is poisoned. -/
def Obligations.TileRegisterOps : Prop :=
  ∀ (s : State) (g : BitVec 1) (d : BitVec 2) (e : BitVec 3) (q : BitVec 4) (a : Reg),
    s.th.status.getLsbD 6 = true → s.th.poisoned = [] →
    let F := if g = 0#1 then fp64 else fp32
    let old := fun (w r n : Nat) => (s.th.arow d r).extractLsb' (w * n) w
    let busy := ∃ x, x ∈ s.th.te ∧ x.op = 0 ∧ x.done = false ∧ x.other = d.toNat
    let without := fun (k : Nat) => s.th.pairs.filter fun r => r.1 != k
    let Acc := fun (i : Instr) (w : Nat) (f : Nat → Nat → BitVec w) => s.teRoom 0 1 0 = true → Does i s fun t =>
      OnlyThread s t ∧ Completes 4 s.th t.th ∧
        t.th.bare = { s.th with
          a := t.th.a, status := s.th.status ||| oneBit (28 + d.toNat), te := t.th.te, teSeq := t.th.teSeq, pairs := without (8 + d.toNat) }.bare ∧
        (∀ r n, r < 16 → n < 2048 / w → (t.th.arow d r).extractLsb' (w * n) w = f r n) ∧
        ∀ c r, c ≠ d → r < 16 → t.th.arow c r = s.th.arow c r
    Acc (.aczero d) 32 (fun _ _ => 0#32) ∧
    (s.th.status.getLsbD 4 = true → ¬ busy → Acc (.acscale g d a) F.width (fun r n =>
      BitVec.ofNat F.width (F.mul 0 (F.decode (old F.width r n).toNat) (F.decode ((s.th.rf a).toNat % 2 ^ F.width))).1)) ∧
    (busy → s.teRoom 0 1 0 = true → Does (.accvt g d) s (Waits s) ∧ (s.th.status.getLsbD 4 = true → Does (.acscale g d a) s (Waits s))) ∧
    (¬ busy → Acc (.accvt 1#1 d) 32 (fun r n => BitVec.ofNat 32 (fp32.ofInt 0 false (old 32 r n).toInt).1)) ∧
    (¬ busy → Acc (.accvt 0#1 d) 64 (fun r n => BitVec.ofNat 64 (fp64.convert 0 false (fp32.decode (old 32 r n).toNat)).1)) ∧
    (s.th.status.getLsbD 5 = true →
      (s.teRoom 1 0 0 = true → Does (.tmovTv e q a) s fun t => OnlyThread s t ∧ Completes 4 s.th t.th ∧
        t.th.bare = { s.th with
          t := t.th.t, status := s.th.status ||| oneBit (32 + e.toNat), te := t.th.te, teSeq := t.th.teSeq, pairs := without e.toNat }.bare ∧
        ∀ c r, r < 16 → t.th.row c r = if c = e ∧ r = q.toNat then s.th.rv a else s.th.row c r) ∧
      (s.teRoom 0 0 0 = true → Does (.tmovVt a e q) s fun t => OnlyThread s t ∧ Completes 4 s.th t.th ∧
        WritesV a (s.th.row e q.toNat) 0 { s.th with te := t.th.te, teSeq := t.th.teSeq } t.th)) ∧
    (s.myWeight ≠ 0 → s.teRoom 0 0 0 = true → Does .twswap s fun t => ShadowJoins 1 s t ∧ Completes 4 s.th t.th ∧
      t.th.bare = { s.th with
        wp0 := s.th.wp1, wp1 := s.th.wp0, plane0 := s.th.plane1, plane1 := s.th.plane0
        spare0 := s.th.spare1, spare1 := s.th.spare0, te := t.th.te, teSeq := t.th.teSeq
        pairs := s.th.pairs.filter fun r => r.1 != 12 && r.1 != 13
        status := s.th.status ||| oneBit 27 }.bare) ∧
    (s.myWeight = 0 → Does .twswap s (Waits s)) ∧
    (let twld := (s.cluster s.myCluster).twld
     ((∀ x, x ∈ s.th.te → x.done = true ∨ x.op = 2) ∧ (∀ x, x ∈ s.mine → x.unit ≠ 2 ∨ x.isStore = false) ∧
         (∀ w, w ∈ twld → w.1 ≠ s.cur) → Does .tsync s (ResultNone 4 s)) ∧
       ((∃ x, x ∈ s.th.te ∧ x.done = false ∧ x.op ≠ 2) ∨ (∃ w, w ∈ twld ∧ w.1 = s.cur) → Does .tsync s (Waits s)))

/-- R178 to R182, R303: tile and accumulator loads read the rows from prg on and clear prg; TWLD reads its block into wp1 and names its format.
At a line that has a cause the rows before its row are loaded, none of its own, and prg names it; a TWLD changes nothing.
The core's TLB maps every line, and the thread has no request in flight. -/
def Obligations.TileLoads : Prop :=
  ∀ (s : State) (e : BitVec 3) (d : BitVec 2) (x p : BitVec 1) (f : BitVec 4) (a b : Reg) (K M : Word → Nat),
    s.th.status.getLsbD 6 = true → s.mine = [] → s.poison = [] → s.th.got = [] →
    let line := fun (va : Word) => Maps s .load va (K va) (M va)
    let va := fun (r : Nat) => BitVec.ofInt 64 ((s.th.rx a).toInt + r * (s.th.rx b).toInt)
    let sub := fun (r j : Nat) => va r + BitVec.ofNat 64 (64 * j)
    let from_ := s.th.prg.toNat
    let B := s.th.rx a
    let H := s.th.rx a + s.th.rx b
    let n1 := dataBytes f.toNat
    let n2 := metaBytes f.toNat (p == 1#1)
    let n3 := scaleBytes f.toNat (p == 1#1) (x == 1#1)
    let fp6 := f = 6#4 ∨ f = 7#4
    let Stopped := fun (y : Nat) (u : Word) (t : State) => t.th.epc = s.th.pc ∧ t.th.ecause = BitVec.ofNat 64 y ∧ t.th.eva = u ∧ t.th.einfo = 10#64
    let at_ := fun (base : Word) (k : Nat) => let c := base + BitVec.ofNat 64 k
      s.peek (K (c - BitVec.ofNat 64 (c.toNat % 64)) + c.toNat % 64)
    ((∀ r, from_ ≤ r → r < 16 → line (va r) ∧ (va r).toNat % 64 = 0) → s.teRoom 1 0 0 = true → Does (.tld e a b) s fun t =>
      OnlyThread s t ∧ Completes 4 s.th t.th ∧
        t.th.bare = { s.th with
          t := t.th.t, prg := 0, te := t.th.te, teSeq := t.th.teSeq, poisoned := t.th.poisoned, pairs := t.th.pairs
          status := s.th.status ||| (if from_ < 16 then oneBit (32 + e.toNat) else 0#64) }.bare ∧
        ∀ c r, r < 16 → t.th.row c r =
          if c = e ∧ from_ ≤ r then BitVec.ofNat 512 (s.peekNat (K (va r)) 64) else s.th.row c r) ∧
    ((∀ r j, from_ ≤ r → r < 16 → j < 4 → line (sub r j) ∧ (va r).toNat % 64 = 0) → s.teRoom 0 1 0 = true → Does (.acld d a b) s fun t =>
      OnlyThread s t ∧ Completes 4 s.th t.th ∧
        t.th.bare = { s.th with
          a := t.th.a, prg := 0, te := t.th.te, teSeq := t.th.teSeq, poisoned := t.th.poisoned, pairs := t.th.pairs
          status := s.th.status ||| (if from_ < 16 then oneBit (28 + d.toNat) else 0#64) }.bare ∧
        (∀ c r, r < 16 → ¬ (c = d ∧ from_ ≤ r) → t.th.arow c r = s.th.arow c r) ∧
        ∀ r j, r < 16 → from_ ≤ r → j < 4 →
          (t.th.arow d r).extractLsb' (512 * j) 512 = BitVec.ofNat 512 (s.peekNat (K (sub r j)) 64)) ∧
    (∀ r y, from_ ≤ r → r < 16 → (∀ i, from_ ≤ i → i < r → line (va i) ∧ (va i).toNat % 64 = 0) → FirstCause s .load (va r) 64 y →
      s.teRoom 1 0 0 = true → Does (.tld e a b) s fun t => OnlyThread s t ∧
        (∀ c i, i < 16 → t.th.row c i =
          if c = e ∧ from_ ≤ i ∧ i < r then BitVec.ofNat 512 (s.peekNat (K (va i)) 64) else s.th.row c i) ∧
        t.th.prg = BitVec.ofNat 7 r ∧ Stopped y (va r) t ∧
        t.th.status.getLsbD (32 + e.toNat) = (s.th.status.getLsbD (32 + e.toNat) || decide (0 < r))) ∧
    (∀ r j y, from_ ≤ r → r < 16 → j < 4 → (∀ i k, from_ ≤ i → (i < r ∧ k < 4 ∨ i = r ∧ k < j) → line (sub i k) ∧ (va i).toNat % 64 = 0) →
      FirstCause s .load (sub r j) 64 y → s.teRoom 0 1 0 = true → Does (.acld d a b) s fun t => OnlyThread s t ∧
        (∀ c i, i < 16 → ¬ (c = d ∧ from_ ≤ i ∧ i < r) → t.th.arow c i = s.th.arow c i) ∧
        (∀ i k, from_ ≤ i → i < r → k < 4 → (t.th.arow d i).extractLsb' (512 * k) 512 = BitVec.ofNat 512 (s.peekNat (K (sub i k)) 64)) ∧
        t.th.prg = BitVec.ofNat 7 r ∧ Stopped y (sub r j) t ∧
        t.th.status.getLsbD (28 + d.toNat) = (s.th.status.getLsbD (28 + d.toNat) || decide (0 < r))) ∧
    ((Instr.twld x p f a b).wf = true → s.teRoom 0 0 1 = true →
      let region := fun (k : Nat) => B + BitVec.ofNat 64 k
      let high := fun (k : Nat) => H + BitVec.ofNat 64 k
      let part := fun (k : Nat) => (high k).toNat % 64 = 0 ∨ k = 0
      (∀ k y, k < n1 + n2 + n3 → k % 64 = 0 → (∀ i, i < k → i % 64 = 0 → line (region i) ∧ B.toNat % 64 = 0) →
        FirstCause s .load (region k) 64 y → Does (.twld x p f a b) s (Traps y 0 (region k) 10#64 s)) ∧
      (fp6 → B.toNat % 64 = 0 → (∀ i, i < n1 + n2 + n3 → i % 64 = 0 → line (region i)) →
        ∀ k y, k < 1024 → part k → (∀ i, i < k → part i → line (high i) ∧ H.toNat % 16 = 0) →
          FirstCause s .load (high k) 16 y → Does (.twld x p f a b) s (Traps y 0 (high k) 10#64 s))) ∧
    ((Instr.twld x p f a b).wf = true → B.toNat % 64 = 0 → (fp6 → H.toNat % 16 = 0) →
      (∀ k, k < n1 + n2 + n3 → k % 64 = 0 → line (B + BitVec.ofNat 64 k)) →
      (fp6 → ∀ k, k < 1024 → (H + BitVec.ofNat 64 k).toNat % 64 = 0 ∨ k = 0 → line (H + BitVec.ofNat 64 k) ∧
        K (H + BitVec.ofNat 64 k) = K (H + BitVec.ofNat 64 k - BitVec.ofNat 64 ((H + BitVec.ofNat 64 k).toNat % 64)) + (H + BitVec.ofNat 64 k).toNat % 64) →
      s.teRoom 0 0 1 = true → Does (.twld x p f a b) s fun t =>
        (∃ c, t = { s.setCluster s.myCluster c with threads := t.threads } ∧
          c = { s.cluster s.myCluster with nextPlane := c.nextPlane, twld := c.twld }) ∧
        (∀ q, q ≠ s.cur → t.thread q = s.thread q) ∧ Completes 4 s.th t.th ∧
        t.th.bare = { s.th with
          wp1 := t.th.wp1, plane1 := t.th.plane1, spare1 := Side.zero, te := t.th.te, teSeq := t.th.teSeq, poisoned := t.th.poisoned, pairs := t.th.pairs
          status := s.th.status ||| oneBit 27 }.bare ∧
        ∃ P, t.th.wp1 = some P ∧ P.fmt = f ∧ P.sp = (p == 1#1) ∧ P.mx = (x == 1#1) ∧
          (∀ k, k < n1 → P.w.extractLsb' (8 * k) 8 = at_ B k) ∧
          (∀ k, k < n2 → P.keep.extractLsb' (8 * k) 8 = at_ B (n1 + k)) ∧
          (∀ k, k < n3 → P.scale.extractLsb' (8 * k) 8 = at_ B (n1 + n2 + k)) ∧
          (fp6 → ∀ k, k < 1024 → P.w.extractLsb' (8 * (2048 + k)) 8 = at_ H k))

/-- R177, R186, R303: ACST converts the rows from prg on to nearest even and stores them; where rows overlap the later one remains.  At a
line that has a cause the rows before its row are stored, none of its own, and prg names it. -/
def Obligations.TileStores : Prop :=
  ∀ (s : State) (q : BitVec 1) (f : BitVec 4) (d : BitVec 2) (a b : Reg) (key mt : Nat → Nat → Nat),
    s.th.status.getLsbD 6 = true → s.th.poisoned = [] → s.teRoom 0 0 0 = true →
    (¬ ∃ x, x ∈ s.th.te ∧ x.op = 0 ∧ x.done = false ∧ x.other = d.toNat) →
    s.th.plan = [] → s.rowPending = false → (Instr.acst q f d a b).wf = true →
    let c := f.toNat
    let n := if c < 2 then 256 else if c < 4 then 128 else if c = 8 then 32 else 64
    let ew := 8 * n / 64
    let va := fun (r : Nat) => BitVec.ofInt 64 ((s.th.rx a).toInt + r * (s.th.rx b).toInt)
    let el := fun (r k : Nat) => (s.th.arow d r).extractLsb' (32 * k) 32
    let conv := fun (r k : Nat) =>
      if c = 9 then BitVec.ofInt ew (if q = 1#1 then max (-128) (min 127 (el r k).toInt) else (el r k).toInt)
      else BitVec.ofNat ew ((fmtOf c).convert 0 (q == 1#1) (fp32.decode (el r k).toNat)).1
    let lineOf := fun (r j : Nat) => va r + BitVec.ofNat 64 (64 * j)
    let on := fun (e r j : Nat) => s.th.prg.toNat ≤ r ∧ r < e ∧ 64 * j < n
    let covers := fun (e x r : Nat) => ∃ j, on e r j ∧ key r j ≤ x ∧ x < key r j + min 64 n
    let Passes := fun (r j : Nat) => Maps s .store (lineOf r j) (key r j) (mt r j) ∧ (va r).toNat % min 64 n = 0
    let Goes := fun (e : Nat) => (∀ r j, on e r j → Passes r j ∧ WriteGoes s (key r j) (min 64 n) (mt r j)) ∧
      ∀ r j k, on e r j → on e r k → j < k → key r j + 64 ≤ key r k ∨ key r k + 64 ≤ key r j
    let Stored := fun (e : Nat) (t : State) =>
      MemFrame s t ∧
      (∀ i, t.th.psig.getLsbD i = true ↔ s.th.psig.getLsbD i = true ∨
        ∃ r j, on e r j ∧ (psigAfter s.th (lineOf r j)).getLsbD i = true) ∧
      (∀ x, (∀ r, ¬ covers e x r) → t.peek x = s.peek x) ∧
      ∃ v : Nat → BitVec 2048,
        (∀ r, if c < 2 then v r = s.th.arow d r else ∀ k, k < 64 → (v r).extractLsb' (ew * k) ew = conv r k) ∧
        ∀ x r j, on e r j → key r j ≤ x → x < key r j + min 64 n → (∀ i, r < i → ¬ covers e x i) →
          t.peek x = (v r).extractLsb' (8 * (64 * j + (x - key r j))) 8
    (Goes 16 → Does (.acst q f d a b) s fun t =>
      Stored 16 t ∧ Completes 4 s.th t.th ∧
      t.th.bare = { s.th with psig := t.th.psig, region := t.th.region, prg := 0, te := t.th.te, teSeq := t.th.teSeq }.bare) ∧
    ∀ r j x, on 16 r j → Goes r → (∀ i, i < j → Passes r i) → FirstCause s .store (lineOf r j) (min 64 n) x →
      Does (.acst q f d a b) s fun t => Stored r t ∧
        ∃ u, u = { s.th with psig := u.psig, region := u.region, prg := BitVec.ofNat 7 r } ∧ Enters x 0 false s.th.pc (lineOf r j) 18#64 u t.th

/-- R109 to R111, R184, R185, R283, R349: a multiply adds to every element of ad its products with the unpruned weights of wp0, summed as R109 or R111
says; a plane that the form and the format do not fit is cause 0x1A.  The sum does not depend on the order of its terms (R110).
A shadow with TDUP = 1 runs it too. -/
def Obligations.TileMultiplies : Prop :=
  ∀ (s : State) (q : BitVec 1) (f : BitVec 4) (d : BitVec 2) (a : BitVec 3) (b : Reg) (p : Plane) (form : Nat) (i : Instr),
    s.th.status.getLsbD 6 = true → s.th.status.getLsbD 5 = true → s.th.poisoned = [] → s.teRoom 0 1 0 = true → s.myWeight ≠ 0 →
    i.wf = true →
    (form = 0 ∧ i = .tmma q f d a ∨ form = 1 ∧ i = .tmmaSp q f d a ∨ form = 2 ∧ i = .tmmaMx q f d a b) →
    let c := f.toNat
    let kk := if c = 0 then 8 else if c = 2 ∨ c = 3 then 32 else if c = 8 then 128 else 64
    let depth := if form = 1 then 2 * kk else kk
    let w := if c = 0 then 64 else 32
    let ew := 512 / kk
    let bits := fun (r k : Nat) => (Lane ew (if k < kk then s.th.row a r else s.th.row (a + 1#3) r) (k % kk)).toNat
    let sc := fun (r k : Nat) => (Lane 8 (s.th.rv b) (kk / 32 * r + k / 32)).toNat
    let scale := fun (v : FVal) (x : Nat) => if x = 255 then FVal.nan false
      else match v with
        | .fin n m e => .fin n m (e + x - 127)
        | v => v
    let A := fun (r k : Nat) =>
      let v := if c = 9 then FVal.fin (decide ((BitVec.ofNat 8 (bits r k)).toInt < 0)) (BitVec.ofNat 8 (bits r k)).toInt.natAbs (-6)
        else (fmtOf c).decode (bits r k)
      if form = 2 then scale v (sc r k) else v
    let old := fun (r n : Nat) => (s.th.arow d r).extractLsb' (w * n) w
    let term := fun (r n k : Nat) => (p.weight k n).map fun y => (mulVal (A r k) y).getD (.nan false)
    let intTerm := fun (r n k : Nat) => (p.rowOf k n).map fun j =>
      (BitVec.ofNat 8 (bits r k)).toInt * (BitVec.ofNat 8 (p.stored j n)).toInt
    let fits := aClass c = wClass p.fmt.toNat ∧ (p.sp = true ↔ form = 1) ∧ (form = 2 → p.mx = true) ∧ (form ≠ 2 → c = 9 → p.mx = false)
    (s.th.wp0 = some p → fits → Does i s fun t =>
      ShadowJoins (if c = 0 then 4 else 2) s t ∧ Completes 4 s.th t.th ∧
        t.th.bare = { s.th with
          a := t.th.a, status := s.th.status ||| oneBit (28 + d.toNat), te := t.th.te, teSeq := t.th.teSeq
          pairs := s.th.pairs.filter fun r => r.1 != 8 + d.toNat }.bare ∧
        (∀ e r, e ≠ d → r < 16 → t.th.arow e r = s.th.arow e r) ∧
        ∀ r n, r < 16 → n < 2048 / w → (t.th.arow d r).extractLsb' (w * n) w = BitVec.ofNat w (
          if c = 9 ∧ form ≠ 2 then
            (let z := (old r n).toInt + ((List.range depth).filterMap (intTerm r n)).sum
             (BitVec.ofInt 32 (if q = 1#1 then max (-2 ^ 31) (min (2 ^ 31 - 1) z) else z)).toNat)
          else if c = 0 then tileSum fp64 160 (q == 1#1) (fp64.decode (old r n).toNat :: (List.range depth).filterMap (term r n))
          else tileSum fp32 63 (q == 1#1) (fp32.decode (old r n).toNat :: (List.range depth).filterMap (term r n)))) ∧
    (s.th.wp0 = some p → ¬ fits → Does i s (Traps 0x1A 2 0#64
      (BitVec.ofNat 64 (1024 * form + (if p.mx then 512 else 0) + (if p.sp then 256 else 0) + 16 * p.fmt.toNat + c)) s)) ∧
    (s.th.wp0 = none → Does i s (Traps 0x1A 2 0#64 (BitVec.ofNat 64 (1024 * form + 240 + c)) s)) ∧
    ∀ (g : Nat) (sat : Bool) (xs ys : List FVal), xs.Perm ys →
      tileSum fp32 g sat xs = tileSum fp32 g sat ys ∧ tileSum fp64 g sat xs = tileSum fp64 g sat ys

/-! ### Copies and messages -/

/-- R190, R191, R195, R196: nothing to move changes nothing; the precise causes in order, those of the arrival word unless rs3 is x0; a
copy that passes is in flight and counted, and waits at 96.  CWAIT and CPOLL read the counter; CCANCEL stops the thread's copies on it, with
the psig bits of the lines they have written, and discards records. -/
def Obligations.CopiesIssueAndCount : Prop :=
  ∀ (s s' : State) (g : BitVec 3) (d a b c : Reg) (n : BitVec 7) (va : Word),
    let D := s.th.rx d
    let S := s.th.rx a
    let L := s.th.rx b
    let A := s.th.rx c
    let cp := fun (form : Nat) (str : Word) => ({
      id := s.nextId, src := s.cur, tag := s.th.tag, sup := s.th.status.getLsbD 0, colour := s.colour s.th, cg := g.toNat, form := form
      dst := D, from_ := S, len := L, strides := str, arr := A, hasArr := c != 0#5
      next := [], ahead := [], moved := [], flying := [], reads := [], sig := 0, doneBytes := 0
      agent := if form = 2 then 8 else s.agentTo s.cur D } : Copy)
    let Issues := fun (i : Instr) (k : Copy) =>
      (s.copyCheck k D = .ok () s' ∧ s.slotsUsed < 96 → Does i s fun t =>
        t = { s with threads := t.threads, nextId := s.nextId + 1, copies := s.copies ++ [k], cairn := t.cairn } ∧
        t.cairn = { s.cairn with injected := t.cairn.injected } ∧ (∀ p, p ≠ s.cur → t.thread p = s.thread p) ∧
        Completes 4 s.th t.th ∧ t.th.bare = { s.th with cg := t.th.cg, region := irrevAfter s.th }.bare ∧
        ∀ h, Table.at 0#7 t.th.cg h = if h = g.toNat then Table.at 0#7 s.th.cg h + 1#7 else Table.at 0#7 s.th.cg h) ∧
      (s.copyCheck k D = .ok () s' ∧ 96 ≤ s.slotsUsed → Does i s (Waits s))
    let strides := s.th.rx (b + 1#5)
    (L = 0#64 → Does (.cpy g d a b c) s (ResultNone 4 s) ∧ Does (.cpyBc g d a b c) s (ResultNone 4 s)) ∧
    (L ≠ 0#64 → Issues (.cpy g d a b c) (cp 0 0#64) ∧ Issues (.cpyBc g d a b c) (cp 2 0#64)) ∧
    ((Instr.cpy2d g d a b c).wf = true →
      (L.toNat / 2 ^ 32 = 0 ∨ L.toNat % 2 ^ 32 = 0 → Does (.cpy2d g d a b c) s (ResultNone 4 s)) ∧
      (L.toNat / 2 ^ 32 ≠ 0 ∧ L.toNat % 2 ^ 32 ≠ 0 → Issues (.cpy2d g d a b c) (cp 1 strides))) ∧
    (L ≠ 0#64 →
      let F := fun v m => s.rangeForm v m
      let m := L.toNat
      let T := fun (code : Nat) (w info : Word) => Does (.cpy g d a b c) s (Traps code 0 w info s)
      (F S m = some va → T 0x0F va 11#64) ∧ (F S m = none → F D m = some va → T 0x0F va 19#64) ∧
      (F S m = none → F D m = none → c ≠ 0#5 → F A 16 = some va → T 0x0F va 19#64) ∧
      (F S m = none → F D m = none → c = 0#5 ∨ F A 16 = none → (dieOf D = 14 → T 0x0B D 19#64) ∧
        (dieOf D ≠ 14 → (dieOf A = 14 → T 0x0B A 19#64) ∧ (dieOf A ≠ 14 → A.toNat % 16 ≠ 0 → T 0x0E A 19#64))) ∧
      (F S m = none → (∀ l, l < 8 → F (BitVec.ofNat 64 (l * 2 ^ 52 + offOf D)) m = none) → c = 0#5 ∨ F A 16 = none → D.toNat < 2 ^ 56 →
        dieOf D = 8 ∨ dieOf D = 9 ∨ dieOf D = 14 → Does (.cpyBc g d a b c) s (Traps 0x0B 0 D 19#64 s)) ∧
      (F S m = none ↔ s.formOk S = true ∧ s.formOk (S + L - 1#64) = true ∧ dieOf (S + L - 1#64) = dieOf S ∧ S.toNat ≤ (S + L - 1#64).toNat)) ∧
    (n.toNat ≤ 96 → ((s.th.cgOf g).toNat ≤ n.toNat → Does (.cwait g n) s (ResultNone 4 s)) ∧
      (n.toNat < (s.th.cgOf g).toNat → Does (.cwait g n) s fun t => Waits s t ∧ t.th.parked = some (.cwait g.toNat n.toNat))) ∧
    Does (.cpoll d g) s (ResultX 4 d (BitVec.ofNat 64 (s.th.cgOf g).toNat) s) ∧
    Does (.ccancel g) s fun t =>
      (∀ k, k ∈ t.copies ↔ k ∈ s.copies ∧ ¬ (∃ j, j ∈ s.copies ∧ j.src = s.cur ∧ j.cg = g.toNat ∧ j.id = k.id)) ∧
      (∀ x, t.peek x = s.peek x) ∧ (∀ p, p ≠ s.cur → t.thread p = s.thread p) ∧ Completes 4 s.th t.th ∧
      t.th.bare = { s.th with
        psig := t.th.psig, cg := t.th.cg, region := irrevAfter s.th, copyRecs := s.th.copyRecs.filter fun r => r.cg != g.toNat }.bare ∧
      (∀ h, Table.at 0#7 t.th.cg h = if h = g.toNat then 0#7 else Table.at 0#7 s.th.cg h) ∧
      ∀ i, t.th.psig.getLsbD i = true ↔ s.th.psig.getLsbD i = true ∨
        ∃ j, j ∈ s.copies ∧ j.src = s.cur ∧ j.cg = g.toNat ∧ j.writtenSig.getLsbD i = true

/-- R202, R203, R205, R206: MPOST posts a buffer; one above 2^24 bytes is refused in its status word.  MSEND clears STATUS first, then waits
for the thread's stores, then completes its word with 0x12 for a bad endpoint or length, or sends the bytes it has read. -/
def Obligations.MessagesPostAndSend : Prop :=
  ∀ (s s' : State) (p : BitVec 1) (d a b c : Reg) (key mt : Nat) (bs : List Byte) (poison : Bool),
    let E := s.th.rx d
    let V := s.th.rx a
    let L := s.th.rx b
    let C := s.th.rx c
    let range := L = 0#64 ∨ s.rangeForm V L.toNat = none
    let word := s.rangeForm C 16 = none ∧ dieOf C ≠ 14 ∧ C.toNat % 16 = 0
    let q := E.toNat % 4096
    (E.extractLsb' 12 13 ≠ 0#13 → Does (.mpost d a b c) s (Traps 0x0F 0 E 19#64 s)) ∧
    (E.extractLsb' 12 13 = 0#13 → L.toNat ≤ 2 ^ 24 →
      (L ≠ 0#64 → s.rangeForm V L.toNat = some (BitVec.ofNat 64 key) → Does (.mpost d a b c) s (Traps 0x0F 0 (BitVec.ofNat 64 key) 19#64 s)) ∧
      (range → s.rangeForm C 16 = some (BitVec.ofNat 64 key) → Does (.mpost d a b c) s (Traps 0x0F 0 (BitVec.ofNat 64 key) 19#64 s)) ∧
      (range → s.rangeForm C 16 = none → (L ≠ 0#64 ∧ dieOf V = 14 → Does (.mpost d a b c) s (Traps 0x0B 0 V 19#64 s)) ∧
        (L = 0#64 ∨ dieOf V ≠ 14 → (dieOf C = 14 → Does (.mpost d a b c) s (Traps 0x0B 0 C 19#64 s)) ∧
          (dieOf C ≠ 14 → C.toNat % 16 ≠ 0 → Does (.mpost d a b c) s (Traps 0x0E 0 C 19#64 s))))) ∧
    (E.extractLsb' 12 13 = 0#13 → (L.toNat ≤ 2 ^ 24 → range ∧ (L ≠ 0#64 → dieOf V ≠ 14)) → word →
      (2 ^ 24 < L.toNat → Maps s .store C key mt → WriteGoes s key 16 mt → Does (.mpost d a b c) s fun t =>
        StoresAt key (bytesOf 8 L.toNat ++ bytesOf 4 4 ++ bytesOf 4 0) s t ∧ Completes 4 s.th t.th ∧
          t.th.bare = { s.th with psig := psigAfter s.th C, region := irrevAfter s.th }.bare) ∧
      (L.toNat ≤ 2 ^ 24 → s.inbound = [] → (s.postedTo q).length < 64 → Does (.mpost d a b c) s fun t =>
        t = { s with threads := t.threads, posted := t.posted } ∧ (∀ r, r ≠ s.cur → t.thread r = s.thread r) ∧
          (∀ r, t.postedTo r = if r = q then s.postedTo q ++ [⟨s.cur, s.th.who, s.th.tag, s.th.status.getLsbD 0, V, L.toNat, C⟩] else s.postedTo r) ∧
          Completes 4 s.th t.th ∧ t.th.bare = { s.th with region := irrevAfter s.th }.bare) ∧
      (L.toNat ≤ 2 ^ 24 → 64 ≤ (s.postedTo q).length → Does (.mpost d a b c) s (Waits s))) ∧
    (s.th.sent = false →
      (L ≠ 0#64 → s.rangeForm V L.toNat = some (BitVec.ofNat 64 key) →
        Does (.msend p d a b c) s (Traps 0x0F 0 (BitVec.ofNat 64 key) 11#64 s)) ∧
      (range → word → s.slotsUsed < 96 → Maps s .store C key mt → WriteGoes s key 4 mt → s.th.ors ≠ 0 → Does (.msend p d a b c) s fun t =>
        StoresAt key (bytesOf 4 0) s t ∧ t.th.waiting = true ∧ t.th.sent = true ∧
          t.th.calm = { s.th with psig := psigAfter s.th C, region := if mt = 3 then irrevAfter s.th else s.th.region }.calm)) ∧
    (s.th.sent = true → s.localDone = true → s.th.ors = 0 →
      (2 ^ 25 ≤ E.toNat ∨ 2 ^ 24 < L.toNat → Maps s .store C key mt → s.isFenced s.myLayer = false → s.isAsleep s.myLayer = false →
        Does (.msend p d a b c) s fun t => StoresAt key (bytesOf 4 0x12) s t ∧ Completes 4 s.th t.th ∧
          t.th.bare = { s.th with region := irrevAfter s.th }.bare) ∧
      (E.toNat < 2 ^ 25 → L.toNat ≤ 2 ^ 24 →
        s.copyRead s.copyBlank (L.toNat / 64 + 2) V L.toNat = ((bs, poison), none, false, s') → Does (.msend p d a b c) s fun t =>
          t = { s' with threads := t.threads, nextId := s'.nextId + 1, cairn := t.cairn
                        messages := s'.messages ++ [⟨s'.nextId, s.cur, s.th.tag, s.th.status.getLsbD 0, s.colour s.th, p == 1#1, E, bs, C, s'.sendAgent E, none⟩] } ∧
            (∀ r, r ≠ s.cur → t.thread r = s'.thread r) ∧ Completes 4 s'.th t.th ∧
            t.th.bare = { s'.th with region := irrevAfter s'.th }.bare)) ∧
    (s.th.sent = true → s.th.ors ≠ 0 → Does (.msend p d a b c) s (Waits s))

/-! ### Control and status registers -/

/-- R23, R24, R212: the checks of a CSR access in order, and what a read gives; the bits of EINFO that the layout of its cause reserves read 0
(log 42). -/
def Obligations.CsrChecksAndReads : Prop :=
  ∀ (s : State) (d a : Reg) (i : BitVec 12),
    let n := i.toNat
    let sup := s.th.status.getLsbD 0
    let units := s.th.status.getLsbD 4 = true ∨ s.th.status.getLsbD 5 = true
    let known := n = 0x001 ∨ 0x010 ≤ n ∧ n ≤ 0x015 ∨ n = 0x020 ∨ 0x400 ≤ n ∧ n ≤ 0x402 ∨ 0x410 ≤ n ∧ n ≤ 0x412 ∨ 0x420 ≤ n ∧ n ≤ 0x422 ∨
      0x428 ≤ n ∧ n ≤ 0x42F ∨ 0x440 ≤ n ∧ n ≤ 0x450 ∨ n = 0x460 ∨ 0x800 ≤ n ∧ n ≤ 0x805 ∨ 0x808 ≤ n ∧ n ≤ 0x80B ∨
      0x810 ≤ n ∧ n ≤ 0x812 ∨ n = 0x820 ∨ 0x840 ≤ n ∧ n ≤ 0x87F
    let readOnly := if sup then n = 0x400 ∨ n = 0x401 ∨ 0x410 ≤ n ∧ n ≤ 0x412 ∨ n = 0x421 ∨ n = 0x422 ∨ n = 0x811
      else ¬ (n = 0x001 ∨ 0x010 ≤ n ∧ n ≤ 0x015 ∨ n = 0x020)
    let T := fun (j : Instr) (code : Nat) (info : Word) => Does j s (Traps code 1 (encode j).bits info s)
    (¬ known → T (.csrr d i) 0x05 0#64 ∧ T (.csrw d a i) 0x05 0#64 ∧ T (.csrs d a i) 0x05 0#64 ∧ T (.csrc d a i) 0x05 0#64) ∧
    (known → 0x800 ≤ n → sup = false →
      T (.csrr d i) 0x06 0#64 ∧ T (.csrw d a i) 0x06 0#64 ∧ T (.csrs d a i) 0x06 0#64 ∧ T (.csrc d a i) 0x06 0#64) ∧
    (known → (n < 0x800 ∨ sup = true) → readOnly →
      T (.csrw d a i) 0x05 0#64 ∧ T (.csrs d a i) 0x05 0#64 ∧ T (.csrc d a i) 0x05 0#64) ∧
    (n = 1 → ¬ units →
      T (.csrr d i) 0x07 3#64 ∧ T (.csrw d a i) 0x07 3#64 ∧ T (.csrs d a i) 0x07 3#64 ∧ T (.csrc d a i) 0x07 3#64) ∧
    (known → (n < 0x800 ∨ sup = true) → (n = 1 → units) → ∃ v, Does (.csrr d i) s (ResultX 4 d v s) ∧
      (n = 0x001 → v = s.th.fcsr) ∧ (n = 0x010 → v = s.th.lc0.setWidth 64) ∧ (n = 0x011 → v = s.th.lc1.setWidth 64) ∧
      (n = 0x012 → v = s.th.lbeg0) ∧ (n = 0x013 → v = s.th.lend0) ∧ (n = 0x014 → v = s.th.lbeg1) ∧ (n = 0x015 → v = s.th.lend1) ∧
      (n = 0x020 → v = s.th.prg.setWidth 64) ∧ (n = 0x401 → v.toNat = (s.basecamp.pkg.toNat * 2 ^ 16 + s.cur) % 2 ^ 64) ∧
      (n = 0x402 → v = (s.th.tag.inc ++ s.th.tag.ctx).setWidth 64) ∧ (n = 0x410 → v = s.cycles s.myCore) ∧
      (n = 0x411 → v = s.th.instret) ∧ (n = 0x412 → v = BitVec.ofNat 64 (s.slot / 3)) ∧ (n = 0x420 → v = s.th.step) ∧
      (n = 0x400 → v = 3#64) ∧
      (n = 0x421 → v = BitVec.ofNat 64
        (((List.range 512).filter fun b => s.th.psig.getLsbD b).length + 2 ^ 16 * s.th.selInv.toNat + 2 ^ 32 * s.th.fullAcq.toNat)) ∧
      (n = 0x460 → let c := s.core s.myCore
        v = BitVec.ofNat 64 (c.en.toNat + 2 * c.tdup.toNat + 2 ^ 24 * c.misCnt.toNat)) ∧
      (n = 0x820 → let C := s.cairn
        v = BitVec.ofNat 64 (2 ^ 52 * C.ctx.toNat + 2 ^ 44 * C.lmask.toNat + 2 ^ 40 * C.stage.toNat + 2 ^ 39 * C.pod.toNat +
          2 ^ 35 * (C.state % 8) + 2 ^ 34 * C.epoch.toNat + 2 ^ 22 * (C.nmember % 4096))) ∧
      (n = 0x422 → v = BitVec.ofNat 64 s.th.ors) ∧
      (∀ g : BitVec 3, n = 0x428 + g.toNat → v = (s.th.cgOf g).setWidth 64) ∧
      (∀ g, g < 16 → n = 0x440 + g → v = s.bardesc s.myLayer g) ∧ (n = 0x450 → v = (s.cluster s.myCluster).engweight.setWidth 64) ∧
      (n = 0x800 → v = s.th.status) ∧ (n = 0x801 → v = s.th.epc) ∧ (n = 0x802 → v = s.th.ecause) ∧ (n = 0x803 → v = s.th.eva) ∧
      (n = 0x804 → v = s.th.einfo &&& einfoMask s.th.ecause) ∧ (n = 0x805 → v = s.th.evec) ∧ (∀ g, g < 4 → n = 0x808 + g → v = Table.at 0#64 s.th.kscratch g) ∧
      (n = 0x810 → v = s.th.slice.setWidth 64) ∧ (n = 0x811 → v = s.th.switchCost.setWidth 64) ∧
      (n = 0x812 → v = s.th.clampCnt.setWidth 64) ∧ (∀ g, g < 64 → n = 0x840 + g → v = s.slotEntry s.myLayer g))

/-- R212: CSRW, CSRS and CSRC give the old value and write the new one: its fields change, reserved and read-only bits do not, and no other
register does (a write of FCSR sets FDIRTY, R18; one of SLICE starts a new slice, R305).  EINFO's reserved bits are those of the layout that
ECAUSE names (log 42).  R27, R313, R314, R336, R348, R357: what a write of the shared registers does. -/
def Obligations.CsrWritesChangeOneRegister : Prop :=
  ∀ (s : State) (d a : Reg) (i : BitVec 12),
    let n := i.toNat
    let old := s.th.csr n
    let x := s.th.rx a
    let even : Word := 0xFFFFFFFFFFFFFFFE#64
    let set := fun (v : Word) => ({ s.th with
      fcsr := if n = 1 then v &&& 0xEF9F#64 else s.th.fcsr
      lc0 := if n = 0x010 then v.setWidth 32 else s.th.lc0
      lc1 := if n = 0x011 then v.setWidth 32 else s.th.lc1
      lbeg0 := if n = 0x012 then v &&& even else s.th.lbeg0
      lend0 := if n = 0x013 then v &&& even else s.th.lend0
      lbeg1 := if n = 0x014 then v &&& even else s.th.lbeg1
      lend1 := if n = 0x015 then v &&& even else s.th.lend1
      prg := if n = 0x020 then v.setWidth 7 else s.th.prg
      step := if n = 0x420 then v else s.th.step
      cg := if 0x428 ≤ n ∧ n ≤ 0x42F then Table.put s.th.cg (n - 0x428) (BitVec.ofNat 7 (min (v.toNat % 128) 96)) else s.th.cg
      status := if n = 0x800 then (s.th.status &&& ~~~ 0xFFFE00007E#64) ||| (v &&& 0xFFFE00007E#64)
        else if n = 1 then s.th.status ||| oneBit 25 else s.th.status
      epc := if n = 0x801 then v &&& even else s.th.epc
      ecause := if n = 0x802 then v &&& 0x80000000000000FF#64 else s.th.ecause
      eva := if n = 0x803 then v else s.th.eva
      einfo := if n = 0x804 then v &&& einfoMask s.th.ecause else s.th.einfo
      evec := if n = 0x805 then v &&& ~~~ 0xFFF#64 else s.th.evec
      kscratch := if 0x808 ≤ n ∧ n ≤ 0x80B then Table.put s.th.kscratch (n - 0x808) v else s.th.kscratch
      slice := if n = 0x810 then v.setWidth 32 else s.th.slice
      sliceE := if n = 0x810 then 0 else s.th.sliceE
      sliceRun := if n = 0x810 then true else s.th.sliceRun
      irq17 := if n = 0x810 then none else s.th.irq17
      clampCnt := if n = 0x812 then v.setWidth 32 else s.th.clampCnt } : Thread)
    let user := n = 1 ∨ 0x010 ≤ n ∧ n ≤ 0x015 ∨ n = 0x020
    let mine := user ∨ n = 0x420 ∨ 0x428 ≤ n ∧ n ≤ 0x42F ∨ 0x800 ≤ n ∧ n ≤ 0x805 ∨ 0x808 ≤ n ∧ n ≤ 0x80B ∨ n = 0x810 ∨ n = 0x812
    let W := fun (j : Instr) (v : Word) => Does j s fun t => OnlyThread s t ∧ Completes 4 (set v) t.th ∧ WritesX d old (set v) t.th
    (mine → (user ∨ s.th.status.getLsbD 0 = true) → (n = 1 → s.th.status.getLsbD 4 = true ∨ s.th.status.getLsbD 5 = true) →
      W (.csrw d a i) x ∧ W (.csrs d a i) (old ||| x) ∧ W (.csrc d a i) (old &&& ~~~ x)) ∧
    let shared := s.csr n
    let Each := fun (o : Word) (P : Instr → Word → Prop) =>
      P (.csrw d a i) x ∧ P (.csrs d a i) (o ||| x) ∧ P (.csrc d a i) (o &&& ~~~ x)
    let Done := fun (t : State) => (∀ p, p ≠ s.cur → t.thread p = s.thread p) ∧ Completes 4 s.th t.th ∧ WritesX d shared s.th t.th
    (s.th.status.getLsbD 0 = true →
      (n = 0x402 → Each shared fun j v =>
        let g : Tag := ⟨v.setWidth 12, v.extractLsb' 12 8⟩
        (s.current s.myLayer g = true → Does j s fun t =>
          OnlyThread s t ∧ Completes 4 s.th t.th ∧ WritesX d shared (s.th.retag g) t.th) ∧
        (s.th.resident = true → s.current s.myLayer g = false → Does j s fun t => t.th.resident = false ∧
          (∀ p, p ≠ s.cur → p ≠ pairOf s.cur → t.thread p = s.thread p) ∧ ∀ k, t.peek k = s.peek k)) ∧
      (n = 0x450 → Each shared fun j v => Does j s fun t =>
        t = { s.setCluster s.myCluster { s.cluster s.myCluster with engweight := v.setWidth 32 } with threads := t.threads } ∧ Done t) ∧
      (n = 0x460 → Each shared fun j v => Does j s fun t =>
        t = { s.setCore s.myCore { s.core s.myCore with en := v.getLsbD 0, tdup := v.getLsbD 1, misCnt := v.extractLsb' 24 16 } with
          threads := t.threads } ∧ Done t) ∧
      (n = 0x820 → Each shared fun j v =>
        let active := 1 ≤ s.cairn.state ∧ s.cairn.state ≤ 3
        (active → v.getLsbD 38 = false → Does j s (ResultX 4 d shared s)) ∧
        (active → v.getLsbD 38 = true → Does j s fun t => t.cairn.state = 6 ∧ t.cairn.epoch = !s.cairn.epoch ∧
          (∀ k, ¬ InStaging s k → t.peek k = s.peek k) ∧
          (∀ p, p ≠ s.cur → t.thread p = { s.thread p with flipped := false }) ∧ Completes 4 s.th t.th ∧
          WritesX d shared { s.th with flipped := false } t.th) ∧
        (¬ active → Does j s fun t => t = { s with
          cairn := { s.cairn with
            ctx := v.extractLsb' 52 12, lmask := v.extractLsb' 44 8, stage := v.extractLsb' 40 4, pod := v.getLsbD 39
            nmember := min (v.extractLsb' 22 12).toNat 2048 }
          threads := t.threads } ∧ Done t)) ∧
      (∀ g, g < 16 → n = 0x440 + g → Each shared fun j v =>
        let outstanding := ∃ c, c < 16 ∧ ((s.barCl s.myLayer g c).cur ≠ 0 ∨ (s.barCl s.myLayer g c).next ≠ 0)
        (outstanding → Does j s (ResultX 4 d shared s)) ∧
        (¬ outstanding → Does j s fun t =>
          t.bardesc s.myLayer g = (if v.getLsbD 31 = true ∧ barValid s.myLayer v = false then v &&& 0x7FFFFF#64 else v &&& 0x807FFFFF#64) ∧
          (∀ h, h ≠ g → t.bardesc s.myLayer h = s.bardesc s.myLayer h) ∧ (∀ l, l ≠ s.myLayer → t.layer l = s.layer l) ∧ Done t)) ∧
      (∀ g, g < 64 → n = 0x840 + g → Each (s.slotEntry 8 g) fun j v =>
        (∀ r, s.itemAnswer = some r → Does j s (ResultX 4 d (BitVec.ofNat 64 r.data.toNat) s)) ∧
        (s.th.reqs ≠ [] → s.itemAnswer = none → Does j s (Waits s)) ∧
        (s.th.reqs = [] → s.slotAccepts s.myLayer g v = false → Does j s (ResultX 4 d (s.slotEntry s.myLayer g) s)) ∧
        (s.th.reqs = [] → s.slotAccepts s.myLayer g v = true → Does j s fun t => Waits s t ∧ t.th.reqs = [s.nextId] ∧
          t.slotEntry 8 g = v &&& 0x3F#64 ∧ (∀ h, h ≠ g → t.slotEntry 8 h = s.slotEntry 8 h) ∧ (∀ l, l < 8 → t.layer l = s.layer l) ∧
          t.bdQueue = s.bdQueue ++ [{ Item.blank with
            op := .slotNotice g (v &&& 0x3F#64), id := s.nextId, src := s.cur, expect := s.slotEntry 8 g }])))

/-! ### Maintenance, regions, pairs and steps -/

/-- R211, R213, R214: WFI; TLBI and TLBIA wait for the layer's accesses in progress, then drop the layer's entries they name and no others,
and requests that the layer has translated for others are translated again; the cache forms change what the caches hold, and memory only
where DCINV loses dirty data. -/
def Obligations.WaitsAndMaintenance : Prop :=
  ∀ (s : State) (a b : Reg) (key mt : Nat), s.th.status.getLsbD 0 = true →
    let va := s.th.rx a
    let ctx : BitVec 12 := (s.th.rx b).setWidth 12
    let own := dieOf va = s.myLayer ∨ dieOf va = 8 ∨ dieOf va = 15
    let inPage := fun (e : TlbEntry) => e.die = dieOf va ∧ e.base ≤ offOf va ∧ offOf va < e.base + 2 ^ e.bits
    let line := fun (x : Nat) => key / 64 * 64 ≤ x ∧ x < key / 64 * 64 + 64
    let again := s.packets.map fun r =>
      match r.stage with
      | .atHome _ => if dieOf r.va = s.myLayer ∧ layerOf r.src ≠ s.myLayer then { r with stage := .toHome } else r
      | _ => r
    let Quiet := fun (t : State) => Completes 4 s.th t.th ∧ WritesNone s.th t.th ∧ (∀ p, p ≠ s.cur → t.thread p = s.thread p)
    (s.th.pending.isSome = true → Does .wfi s (ResultNone 4 s)) ∧
    (s.th.pending = none → Does .wfi s fun t => Waits s t ∧ t.th.parked = some .wfi) ∧
    (s.formOk va = true → own → s.localDone = true → s.xlatBusy s.myLayer = false → Does (.tlbi a b) s fun t =>
      t = { s with threads := t.threads, tlb := t.tlb, walkers := t.walkers, packets := again } ∧ Quiet t ∧
        (∀ e, e ∈ t.tlb ↔ e ∈ s.tlb ∧ ¬ (e.layer = s.myLayer ∧ inPage e ∧ (e.tag.ctx = ctx ∨ e.pte.getLsbD 6 = true))) ∧
        ∀ w, w ∈ t.walkers → w ∈ s.walkers) ∧
    (s.formOk va = false ∨ ¬ own → Does (.tlbi a b) s (Traps 0x0F 0 va 8#64 s)) ∧
    (s.localDone = false ∨ s.xlatBusy s.myLayer = true →
      (s.formOk va = true → own → Does (.tlbi a b) s (Waits s)) ∧ Does (.tlbia a) s (Waits s)) ∧
    (s.localDone = true → s.xlatBusy s.myLayer = false → Does (.tlbia a) s fun t =>
      t = { s with threads := t.threads, tlb := t.tlb, walkers := t.walkers, ctxCache := t.ctxCache, packets := again } ∧ Quiet t ∧
        ∀ e, e ∈ t.tlb ↔ e ∈ s.tlb ∧
          ¬ (e.layer = s.myLayer ∧ (va.getLsbD 63 = true ∨ e.tag.ctx = va.setWidth 12 ∧ e.pte.getLsbD 6 = false))) ∧
    (Does (.icinv 1#1 0#5) s fun t => t = { s with threads := t.threads, l1i := t.l1i } ∧ Quiet t ∧
      ∀ l, l ∈ t.l1i ↔ l ∈ s.l1i ∧ l.core ≠ s.myCore) ∧
    (Maps s .fetch va key mt → Does (.icinv 0#1 a) s fun t => t = { s with threads := t.threads, l1i := t.l1i } ∧ Quiet t ∧
      ∀ l, l ∈ t.l1i ↔ l ∈ s.l1i ∧ ¬ (l.core = s.myCore ∧ l.va = va.toNat / 64 * 64)) ∧
    (s.formOk va = false → Does (.icinv 0#1 a) s (Traps 0x0F 0 va 0#64 s) ∧ Does (.dcwb 0#1 a) s (Traps 0x0F 0 va 8#64 s) ∧
      Does (.dcinv 0#1 a) s (Traps 0x0F 0 va 8#64 s) ∧ Does (.dcflush 0#1 a) s (Traps 0x0F 0 va 8#64 s)) ∧
    (Does (.dcwb 1#1 0#5) s fun t => t = { s with threads := t.threads, l1d := t.l1d, hs := t.hs, hsPoison := t.hsPoison } ∧ Quiet t ∧
      (∀ x, t.peek x = s.peek x) ∧ ∀ k e, Table.find t.l1d k = some e → e.owner ≠ s.myCore) ∧
    (Maps s .load va key mt →
      (Does (.dcwb 0#1 a) s fun t => t = { s with threads := t.threads, l1d := t.l1d, hs := t.hs, hsPoison := t.hsPoison } ∧ Quiet t ∧
        (∀ x, t.peek x = s.peek x) ∧ ∀ k, key / 64 * 4 ≤ k → k < key / 64 * 4 + 4 → Table.find t.l1d k = none) ∧
      (Does (.dcinv 0#1 a) s fun t =>
        t = { s with
          threads := t.threads, l1d := t.l1d, hs := t.hs, poison := t.poison, hbmPoison := t.hbmPoison, hsPoison := t.hsPoison } ∧ Quiet t ∧
        (∀ x, ¬ line x → t.peek x = s.peek x) ∧ ∀ x, line x → t.peek x = sectorByte (s.hbmSector (x / 16)) (x % 16)) ∧
      (s.cairn.state = 0 → Does (.dcflush 0#1 a) s fun t => Quiet t ∧ (∀ x, t.peek x = s.peek x) ∧
        ∀ k, key / 64 * 4 ≤ k → k < key / 64 * 4 + 4 → Table.find t.l1d k = none ∧ Table.find t.hs k = none)) ∧
    (Does (.dcinv 1#1 0#5) s fun t =>
      t = { s with
        threads := t.threads, l1d := t.l1d, rdc := t.rdc, poison := t.poison, hbmPoison := t.hbmPoison, hsPoison := t.hsPoison } ∧ Quiet t ∧
      (∀ l, l ∈ t.rdc ↔ l ∈ s.rdc ∧ l.cl ≠ s.myCluster) ∧ (∀ e, e ∈ t.l1d → e ∈ s.l1d ∧ e.2.owner ≠ s.myCore) ∧
      ∀ k, (∀ e, (k, e) ∈ s.l1d → e.owner ≠ s.myCore) → Table.find t.l1d k = Table.find s.l1d k) ∧
    (Does (.dcflush 1#1 0#5) s fun t =>
      t = { s with threads := t.threads, l1d := t.l1d, hs := t.hs, rdc := t.rdc, hsPoison := t.hsPoison } ∧ Quiet t ∧
      (∀ x, t.peek x = s.peek x) ∧ ∀ l, l ∈ t.rdc ↔ l ∈ s.rdc ∧ l.cl ≠ s.myCluster)

/-- R224 to R227, R345, R348 to R350: RGN names the next instruction; PAIR and UNPAIR answer a status that applies and mark the
partner; CSTEP counts, and the colour flips at S; SNAPARM answers busy or a step that is not ahead, or arms. -/
def Obligations.RegionsPairsAndSteps : Prop :=
  ∀ (s : State) (d a : Reg),
    let entry := (s.th.pc + 4#64) &&& 0x00FFFFFFFFFFFFFE#64
    let q := s.cur ^^^ 2
    let on := (s.core s.myCore).en = true ∧ (s.core (q / 2)).en = true
    let free := (s.thread q).resident = false ∧ (s.thread q).shadow = false
    let S := s.th.rx a
    let active := s.cairn.state = 1 ∨ s.cairn.state = 2 ∨ s.cairn.state = 3
    let sup := s.th.status.getLsbD 0 = true
    let paired := s.th.status.getLsbD 10 = true
    let others := fun (t : State) => ∀ p, p ≠ s.cur → p ≠ q → t.thread p = s.thread p
    (¬ paired ∨ s.th.crc = s.th.shadowCrc → Does .rgn s fun t => OnlyThread s t ∧ Completes 4 s.th t.th ∧
      t.th.bare = { s.th with region := entry }.bare) ∧
    (paired → s.th.crc ≠ s.th.shadowCrc → s.th.restartable = true → Does .rgn s fun t =>
      t.th.calm = { s.th with
        pc := s.th.region &&& 0x00FFFFFFFFFFFFFE#64, prg := 0, region := s.th.region ||| oneBit 63 }.calm ∧
      (∀ p, p ≠ s.cur → t.thread p = s.thread p) ∧ ∀ x, t.peek x = s.peek x) ∧
    (paired → s.th.crc ≠ s.th.shadowCrc → s.th.restartable = false → Does .rgn s fun t =>
      Enters 0x15 4 false (s.th.region &&& 0x00FFFFFFFFFFFFFE#64) 0#64
        (BitVec.ofNat 64 (min s.th.regionCount (2 ^ 32 - 1) + (if s.th.region.getLsbD 63 then 2 ^ 32 else 0) + 2 ^ 33)) s.th t.th ∧
      (∀ p, p ≠ s.cur → t.thread p = s.thread p) ∧ ∀ x, t.peek x = s.peek x) ∧
    (sup → paired ∨ ¬ on ∨ ¬ free → ∃ v : Word, (v = 3#64 ∧ paired ∨ v = 2#64 ∧ ¬ on ∨ v = 1#64 ∧ ¬ free) ∧
      Does (.pair d) s (ResultX 4 d v s)) ∧
    (sup → ¬ paired → on → free → Does (.pair d) s fun t => t = { s with threads := t.threads } ∧ others t ∧
      t.thread q = { s.thread q with shadow := true } ∧ Completes 4 s.th t.th ∧
      WritesX d 0#64 { s.th with region := entry, status := s.th.status ||| oneBit 10, tdup := (s.core s.myCore).tdup } t.th) ∧
    (sup → ¬ paired → Does (.unpair d) s (ResultX 4 d 3#64 s)) ∧
    (sup → paired → Does (.unpair d) s fun t => t = { s with threads := t.threads } ∧ others t ∧
      t.thread q = { s.thread q with shadow := false } ∧ Completes 4 s.th t.th ∧
      WritesX d 0#64 { s.th with status := s.th.status &&& ~~~ oneBit 10 } t.th) ∧
    (¬ active ∨ s.th.tag.ctx ≠ s.cairn.ctx ∨ s.th.step + 1#64 ≠ s.cairn.s ∨ s.th.flipped = true → Does .cstep s fun t =>
      OnlyThread s t ∧ Completes 4 s.th t.th ∧
      t.th.bare = { s.th with step := s.th.step + 1#64, region := irrevAfter s.th }.bare) ∧
    (active → s.th.tag.ctx = s.cairn.ctx → s.th.step + 1#64 = s.cairn.s → s.th.flipped = false → Does .cstep s fun t =>
      Completes 4 s.th t.th ∧ t.th.bare = { s.th with step := s.th.step + 1#64, region := irrevAfter s.th, flipped := true }.bare ∧
        (∀ p, p ≠ s.cur → t.thread p = s.thread p) ∧ (∀ x, t.peek x = s.peek x) ∧
        t.cairn.flips = if s.cairn.state = 1 then s.cairn.flips + 1 else s.cairn.flips) ∧
    (sup → active ∨ S.toNat ≤ s.th.step.toNat → ∃ v : Word, (v = 1#64 ∧ active ∨ v = 2#64 ∧ S.toNat ≤ s.th.step.toNat) ∧
      Does (.snaparm d a) s fun t => OnlyThread s t ∧ Completes 4 s.th t.th ∧ WritesX d v { s.th with region := irrevAfter s.th } t.th) ∧
    (sup → ¬ active → s.th.step.toNat < S.toNat → Does (.snaparm d a) s fun t =>
      Completes 4 s.th t.th ∧ (∀ x, ¬ InStaging s x → t.peek x = s.peek x) ∧ t.cairn.s = S ∧
        t.cairn.state = (if s.cairn.nmember = 0 then 2 else 1) ∧ t.cairn.flips = 0 ∧
        (∀ p, p ≠ s.cur → t.thread p = { s.thread p with flipped := false }) ∧
        WritesX d 0#64 { s.th with region := irrevAfter s.th, flipped := false } t.th)

/-! ### Saving and loading a thread -/

/-- R215 to R218: CTXSAVE checks its area, takes its waits, and writes the always-written blocks and every dirty slot; a slot that is not
dirty keeps its bytes, VALID gains the slots written, and the dirty bits are cleared. -/
def Obligations.SavingAThread : Prop :=
  ∀ (s : State) (a : Reg) (key mt : Nat), s.th.status.getLsbD 0 = true →
    let va := s.th.rx a
    let dirty := fun i => s.th.status.getLsbD i = true
    let W := fun (t : State) (o : Nat) => BitVec.ofNat 64 (t.peekNat (key + o) 8)
    let side := fun (p : Option Plane) => ∃ q, p = some q ∧ (q.sp = true ∨ q.mx = true)
    let ready := s.th.denial = none ∧ s.localDone = true ∧ s.th.ors = 0 ∧ (∀ e, e ∈ s.th.te → e.done = true) ∧ s.copiesRunning = false
    (va.toNat % 64 ≠ 0 → Does (.ctxsave a) s (Traps 0x0E 0 va 16#64 s)) ∧
    (va.toNat % 64 = 0 → (∀ j, j < 0x9A00 → Maps s .store (va + BitVec.ofNat 64 j) (key + j) mt) →
      (∀ d, s.th.denial = some d → Does (.ctxsave a) s (DenialTraps d s)) ∧
      (s.th.denial = none → ¬ ready → Does (.ctxsave a) s (Waits s)) ∧
      (∀ r rs, ready → s.th.copyRecs = r :: rs →
        Does (.ctxsave a) s (Traps 0x14 5 r.fva (BitVec.ofNat 64 (min (rs.length + 1) 127)) s)) ∧
      (ready → s.th.copyRecs = [] → s.isFenced s.myLayer = false → s.isAsleep s.myLayer = false → Does (.ctxsave a) s fun t =>
        Completes 4 s.th t.th ∧ (∀ p, p ≠ s.cur → t.thread p = s.thread p) ∧
        t.th.bare = { s.th with
          status := s.th.status &&& ~~~ 0xFFFE000000#64, region := irrevAfter s.th, psig := t.th.psig
          saveCost := t.th.saveCost, irq16 := t.th.irq16 }.bare ∧
        (∀ i, s.th.psig.getLsbD i = true ∨ (∃ j, j < 0x380 ∧ (psigAfter s.th (va + BitVec.ofNat 64 j)).getLsbD i = true) → t.th.psig.getLsbD i = true) ∧
        (∀ i, t.th.psig.getLsbD i = true → ∃ j, j < 0x9A00 ∧ (psigAfter s.th (va + BitVec.ofNat 64 j)).getLsbD i = true) ∧
        (∀ x, x < key ∨ key + 0x9A00 ≤ x → t.peek x = s.peek x) ∧
        W t 0x00 = s.th.status &&& ~~~ 0xFFFE000000#64 ∧ W t 0x08 = (s.th.tag.inc ++ s.th.tag.ctx).setWidth 64 ∧ W t 0x10 = s.th.fcsr ∧
        W t 0x18 = s.th.lc0.setWidth 64 ∧ W t 0x20 = s.th.lc1.setWidth 64 ∧ W t 0x28 = s.th.lbeg0 ∧ W t 0x30 = s.th.lend0 ∧
        W t 0x38 = s.th.lbeg1 ∧ W t 0x40 = s.th.lend1 ∧ W t 0x48 = s.th.prg.setWidth 64 ∧ W t 0x50 = s.th.step ∧
        (∀ g : BitVec 3, t.peek (key + 0x58 + g.toNat) = (s.th.cgOf g).setWidth 8) ∧ W t 0x60 = s.th.region ∧
        W t 0x68 = s.th.slice.setWidth 64 ∧ W t 0x70 = s.th.clampCnt.setWidth 64 ∧ W t 0x78 = s.th.epc ∧ W t 0x80 = s.th.ecause ∧
        W t 0x88 = s.th.eva ∧ W t 0x90 = s.th.einfo &&& einfoMask s.th.ecause ∧ W t 0x98 = s.th.evec ∧
        (∀ i, i < 4 → W t (0xA0 + 8 * i) = Table.at 0#64 s.th.kscratch i) ∧ W t 0xC0 = 1#64 ∧
        (∀ i, i < 64 → (W t 0xC8).getLsbD i =
          if i = 0 then true else if i = 1 then s.th.status.getLsbD 26 || (W s 0xC8).getLsbD i
          else if i < 10 then s.th.status.getLsbD (30 + i) || (W s 0xC8).getLsbD i
          else if i < 14 then s.th.status.getLsbD (18 + i) || (W s 0xC8).getLsbD i
          else if i = 14 then s.th.status.getLsbD 27 || (W s 0xC8).getLsbD i
          else if i = 15 ∨ i = 16 then
            (if dirty 27 then decide ((if i = 15 then s.th.wp0 else s.th.wp1).any (fun q => q.sp || q.mx)) else (W s 0xC8).getLsbD i)
          else false) ∧
        (∀ r : Reg, W t (0x100 + 8 * r.toNat) = s.th.rx r ∧ W t (0x200 + 8 * r.toNat) = s.th.rf r) ∧
        (∀ r : BitVec 3, W t (0x300 + 8 * r.toNat) = s.th.rk r) ∧ t.peekNat (key + 0x340) 64 = s.th.psig.toNat ∧
        (dirty 26 → ∀ r : Reg, t.peekNat (key + 0x400 + 64 * r.toNat) 64 = (s.th.rv r).toNat) ∧
        (¬ dirty 26 → ∀ x, key + 0x400 ≤ x → x < key + 0xC00 → t.peek x = s.peek x) ∧
        (∀ n : BitVec 3,
          (dirty (32 + n.toNat) → ∀ r, r < 16 → t.peekNat (key + 0xC00 + 0x400 * n.toNat + 64 * r) 64 = (s.th.row n r).toNat) ∧
          (¬ dirty (32 + n.toNat) → ∀ x, key + 0xC00 + 0x400 * n.toNat ≤ x → x < key + 0xC00 + 0x400 * (n.toNat + 1) → t.peek x = s.peek x)) ∧
        (∀ n : BitVec 2,
          (dirty (28 + n.toNat) → ∀ r, r < 16 → t.peekNat (key + 0x2C00 + 0x1000 * n.toNat + 256 * r) 256 = (s.th.arow n r).toNat) ∧
          (¬ dirty (28 + n.toNat) → ∀ x, key + 0x2C00 + 0x1000 * n.toNat ≤ x → x < key + 0x2C00 + 0x1000 * (n.toNat + 1) →
            t.peek x = s.peek x)) ∧
        (dirty 27 → s.th.wp0 = none → W t 0x8C00 = 64#64) ∧ (dirty 27 → s.th.wp1 = none → W t 0x8C08 = 64#64) ∧
        (¬ dirty 27 → ∀ x, key + 0x6C00 ≤ x → x < key + 0x9A00 → t.peek x = s.peek x) ∧
        (¬ side s.th.wp0 → ∀ x, key + 0x9000 ≤ x → x < key + 0x9500 → t.peek x = s.peek x) ∧
        (¬ side s.th.wp1 → ∀ x, key + 0x9500 ≤ x → x < key + 0x9A00 → t.peek x = s.peek x)))

/-- R215, R216, R219: CTXLOAD checks its area and VERSION; of the parts that the mask names it loads those marked VALID and resets the
others, parts that it does not name keep their registers, and memory does not change. -/
def Obligations.LoadingAThread : Prop :=
  ∀ (s : State) (a b : Reg) (key mt : Nat), s.th.status.getLsbD 0 = true →
    let va := s.th.rx a
    let mask : Nat := if b = 0#5 then 2 ^ 17 - 1 else (s.th.rx b).toNat % 2 ^ 17
    let D := fun (o : Nat) => BitVec.ofNat 64 (s.peekNat (key + o) 8)
    let valid := fun i => (D 0xC8).getLsbD i = true
    let even : Word := 0xFFFFFFFFFFFFFFFE#64
    let got : Tag := ⟨(D 0x08).setWidth 12, (D 0x08).extractLsb' 12 8⟩
    let loaded : Thread := { s.th with
      lc0 := (D 0x18).setWidth 32, lc1 := (D 0x20).setWidth 32, lbeg0 := D 0x28 &&& even, lend0 := D 0x30 &&& even
      lbeg1 := D 0x38 &&& even, lend1 := D 0x40 &&& even }
    (va.toNat % 64 ≠ 0 → Does (.ctxload a b) s (Traps 0x0E 0 va 8#64 s)) ∧
    (va.toNat % 64 = 0 → (∀ j, j < 0x9A00 → Maps s .load (va + BitVec.ofNat 64 j) (key + j) mt) → s.poison = [] →
      s.isFenced s.myLayer = false → s.isAsleep s.myLayer = false → s.areaBusy va = false →
      (D 0xC0 ≠ 1#64 → Does (.ctxload a b) s (Traps 0x05 1 (encode (.ctxload a b)).bits 1#64 s)) ∧
      (D 0xC0 = 1#64 → (mask.testBit 0 = true → valid 0 ∧ s.current s.myLayer got = true) → Does (.ctxload a b) s fun t =>
        (∀ x, t.peek x = s.peek x) ∧ (∀ p, p ≠ s.cur → t.thread p = s.thread p) ∧ t.th.region.getLsbD 62 = true ∧
        (mask.testBit 0 = false → Completes 4 s.th t.th ∧ (∀ r, t.th.rx r = s.th.rx r) ∧ (∀ r, t.th.rf r = s.th.rf r) ∧
          (∀ r, t.th.rk r = s.th.rk r) ∧ t.th.psig = s.th.psig ∧ t.th.tag = s.th.tag ∧ t.th.step = s.th.step) ∧
        (mask.testBit 0 = true → Completes 4 loaded t.th ∧ t.th.tag = got ∧ t.th.fcsr = D 0x10 &&& 0xEF9F#64 ∧
          t.th.status = (D 0x00 &&& 0x87E#64) ||| 1#64 ||| (s.th.status &&& 0x400#64) ∧ t.th.prg = (D 0x48).setWidth 7 ∧
          t.th.step = D 0x50 ∧ (∀ g : BitVec 3, (t.th.cgOf g).toNat = min ((s.peek (key + 0x58 + g.toNat)).toNat % 128) 96) ∧
          t.th.region = (D 0x60 &&& 0xC0FFFFFFFFFFFFFE#64) ||| oneBit 62 ∧ t.th.slice = (D 0x68).setWidth 32 ∧ t.th.sliceE = 0 ∧
          t.th.irq17 = none ∧ t.th.clampCnt = (D 0x70).setWidth 32 ∧ t.th.epc = D 0x78 &&& even ∧
          t.th.ecause = D 0x80 &&& 0x80000000000000FF#64 ∧ t.th.eva = D 0x88 ∧ t.th.einfo = D 0x90 &&& einfoMask (D 0x80) ∧ t.th.evec = D 0x98 &&& ~~~ 0xFFF#64 ∧
          (∀ i, i < 4 → Table.at 0#64 t.th.kscratch i = D (0xA0 + 8 * i)) ∧
          (∀ r : Reg, t.th.rx r = (if r = 0#5 then 0#64 else D (0x100 + 8 * r.toNat)) ∧ t.th.rf r = D (0x200 + 8 * r.toNat)) ∧
          (∀ r : BitVec 3, t.th.rk r = if r = 0#3 then BitVec.allOnes 64 else D (0x300 + 8 * r.toNat)) ∧
          t.th.psig = BitVec.ofNat 512 (s.peekNat (key + 0x340) 64) ∧ t.th.ors = 0 ∧ t.th.denial = none ∧ t.th.resident = true) ∧
        (∀ r : Reg, t.th.rv r =
          if mask.testBit 1 = false then s.th.rv r
          else if (D 0xC8).getLsbD 1 then BitVec.ofNat 512 (s.peekNat (key + 0x400 + 64 * r.toNat) 64) else 0#512) ∧
        (∀ (n : BitVec 3) (r : Nat), r < 16 → t.th.row n r =
          if mask.testBit (2 + n.toNat) = false then s.th.row n r
          else if (D 0xC8).getLsbD (2 + n.toNat) then BitVec.ofNat 512 (s.peekNat (key + 0xC00 + 0x400 * n.toNat + 64 * r) 64) else 0#512) ∧
        (∀ (n : BitVec 2) (r : Nat), r < 16 → t.th.arow n r =
          if mask.testBit (10 + n.toNat) = false then s.th.arow n r
          else if (D 0xC8).getLsbD (10 + n.toNat) then BitVec.ofNat 2048 (s.peekNat (key + 0x2C00 + 0x1000 * n.toNat + 256 * r) 256)
          else 0#2048) ∧
        (mask.testBit 14 = true → (¬ valid 14 ∨ (D 0x8C00).getLsbD 6 = true) → t.th.wp0 = none) ∧
        (mask.testBit 14 = true → (¬ valid 14 ∨ (D 0x8C08).getLsbD 6 = true) → t.th.wp1 = none) ∧
        (mask.testBit 14 = false → mask.testBit 15 = false → t.th.wp0 = s.th.wp0) ∧
        (mask.testBit 14 = false → mask.testBit 16 = false → t.th.wp1 = s.th.wp1)))

/-- R220 to R223, R267, R309, R336, R339: KILL and RECLAIM answer their status, send their record or wait; FQPOP takes the oldest record,
and waits while another thread's pop is under way; REPLAY ends a fault group, and the threads and requests that it held go on, if none of
the threads whose write was held takes an interrupt there and then (R397). -/
def Obligations.ContextsAndFaultQueues : Prop :=
  ∀ (s : State) (d a b : Reg) (key mt : Nat), s.th.status.getLsbD 0 = true →
    let C := s.th.rx a
    let I := s.th.rx b
    let e := s.incOf s.myLayer (C.setWidth 12)
    let leaving := C.toNat < 4096 ∧ I.toNat < 256 ∧ I.toNat ≠ e.cur.toNat ∧ e.pend = true ∧ (e.cur - 1#8).toNat = I.toNat
    let pair : Tag := ⟨C.setWidth 12, I.setWidth 8⟩
    let after := ({ s.th with region := irrevAfter s.th } : Thread)
    let St := fun (i : Instr) (v : Word) => Does i s fun t => OnlyThread s t ∧ Completes 4 s.th t.th ∧ WritesX d v after t.th
    let G := C.toNat % 65536
    let Freed := fun (q : Packet) => q ∈ s.packets ∧ q.stage = .held G ∧ homeOf (layerOf q.src) q.va = s.myLayer
    let Awaited := fun (q : Packet) => Freed q ∧ q.kind.writesOnce = true ∧ q.id ∈ (s.thread q.src).reqs
    (s.th.reqs = [] → 4096 ≤ C.toNat → St (.kill d a) 3#64) ∧
    (s.th.reqs = [] → C.toNat < 4096 → Does (.kill d a) s fun t =>
      Enqueues s.myLayer { Item.blank with op := .kill, val := C, src := s.cur } s t ∧ Waits s t ∧ t.th.reqs = [s.nextId]) ∧
    (∀ r, s.itemAnswer = some r → St (.kill d a) (BitVec.ofNat 64 r.data.toNat)) ∧
    (4096 ≤ C.toNat ∨ 256 ≤ I.toNat → St (.reclaim d a b) 3#64) ∧
    (C.toNat < 4096 → I.toNat < 256 → I.toNat = e.cur.toNat → St (.reclaim d a b) 4#64) ∧
    (C.toNat < 4096 → I.toNat < 256 → I.toNat ≠ e.cur.toNat → ¬ leaving → St (.reclaim d a b) 0#64) ∧
    (leaving → s.leftEverywhere pair = false ∨ s.reclaimSent C.toNat = true → Does (.reclaim d a b) s fun t =>
      Waits s t ∧ t.th.parked = some (.reclaim pair) ∧ t = { s with threads := t.threads }) ∧
    (leaving → s.leftEverywhere pair = true → s.reclaimSent C.toNat = false → Does (.reclaim d a b) s fun t =>
      Waits s t ∧ t.th.parked = some (.reclaim pair) ∧
        Table.at [] (t.layer s.myLayer).queue 0 =
          Table.at [] (s.layer s.myLayer).queue 0 ++ [{ Item.blank with op := .reclaim, id := s.nextId, src := s.cur, val := C }] ∧
        (∀ l, l ∈ t.rdc ↔ l ∈ s.rdc ∧ l.tag ≠ pair) ∧ (∀ l, l ∈ t.l1i ↔ l ∈ s.l1i ∧ l.tag ≠ pair) ∧
        ∀ l, l ∈ t.tlb ↔ l ∈ s.tlb ∧ l.tag ≠ pair) ∧
    (Maps s .store C key mt → C.toNat % 64 = 0 → WriteGoes s key 64 mt → s.th.popped = none →
      (s.queueTaken = true → Does (.fqpop d a) s (Waits s)) ∧
      (s.th.ecause.toNat % 256 ≠ 0x14 → s.queueTaken = false → (s.layer s.myLayer).fq = [] → St (.fqpop d a) 1#64) ∧
      (s.th.ecause.toNat % 256 = 0x14 → s.th.copyRecs = [] → St (.fqpop d a) 1#64) ∧
      (∀ r rs, s.th.ecause.toNat % 256 = 0x14 → s.th.copyRecs = r :: rs → Does (.fqpop d a) s fun t =>
        StoresAt key (bytesOf 64 r.data.toNat) s t ∧ Completes 4 s.th t.th ∧
          WritesX d 0#64 { after with psig := psigAfter s.th C, copyRecs := rs, cg := t.th.cg } t.th ∧
          ∀ g, Table.at 0#7 t.th.cg g = if g = r.cg ∧ Table.at 0#7 s.th.cg g ≠ 0#7 then Table.at 0#7 s.th.cg g - 1#7 else Table.at 0#7 s.th.cg g) ∧
      (∀ r rs, s.th.ecause.toNat % 256 ≠ 0x14 → s.queueTaken = false → (s.layer s.myLayer).fq = r :: rs → (s.layer s.myLayer).fqWaiting = [] →
        Does (.fqpop d a) s fun t =>
          (t.layer s.myLayer).fq = rs ∧ t.peekBytes key 64 = bytesOf 64 r.toNat ∧
            (∀ x, x < key ∨ key + 64 ≤ x → t.peek x = s.peek x) ∧ (∀ p, p ≠ s.cur → t.thread p = s.thread p) ∧
            Completes 4 s.th t.th ∧ WritesX d 0#64 { after with psig := psigAfter s.th C } t.th)) ∧
    (s.performedAt 3#2 = false → Does (.replay a) s (Waits s)) ∧
    (s.performedAt 3#2 = true → Table.find (s.layer s.myLayer).groups G = none → Does (.replay a) s fun t =>
      OnlyThread s t ∧ Completes 4 s.th t.th ∧ t.th.bare = after.bare) ∧
    (s.performedAt 3#2 = true → (Table.find (s.layer s.myLayer).groups G).isSome = true → s.inbound = [] →
      (∀ q, Awaited q → ((s.thread q.src).release s.myLayer G).takesInterrupt = false) → Does (.replay a) s fun t =>
      Completes 4 s.th t.th ∧ t.th.bare = after.bare ∧ (∀ x, t.peek x = s.peek x) ∧
        (t.layer s.myLayer).groups = Table.del (s.layer s.myLayer).groups G ∧
        (∀ p, p ≠ s.cur → t.thread p = { s.thread p with
          parked := if (s.thread p).parked = some (.group s.myLayer G) then none else (s.thread p).parked
          sent := (t.thread p).sent }) ∧
        (∀ p, p ≠ s.cur → ((t.thread p).sent = true ↔ (s.thread p).sent = true ∨ ∃ q, Awaited q ∧ q.src = p)) ∧
        ∀ q, Freed q → (∀ r, r ∈ s.packets → r.id = q.id → r = q) → { q with stage := .toHome } ∈ t.packets)

/-! ### Events of the hardware -/

/-- R18, R211, R266, R268, R300, R301, R303, R305: an interrupt is taken with its EINFO and EPC at the instruction, the causes in their order;
a slice that has run out; a WAITNE that reads again; a deferral that has passed; a write of SLICE.  R280, R281: a misprediction squashes
what is younger and has not started, and takes the plane map back to the branch's checkpoint.  An event that is not due changes nothing
(log 75). -/
def Obligations.EventsOfThreads : Prop :=
  ∀ (s : State) (p seq l : Nat) (v : Word), p < 2048 →
    let T := s.thread p
    let calm := T.resident = true ∧ T.looped = false ∧ T.status.getLsbD 1 = true ∧ T.sent = false ∧ T.parked ≠ some .wfi ∧ T.reqs = [] ∧
      T.popped = none
    let base := { T with prg := match T.parked with | some (.bar _ ph) => BitVec.ofNat 7 (2 + ph % 2) | _ => T.prg }
    let Takes := fun (code : Nat) (eva info : Word) (U : Thread) => Does (.interruptEntry p) s fun t =>
      t = { s with threads := t.threads } ∧ (∀ q, q ≠ p → t.thread q = s.thread q) ∧ Enters code 5 true T.pc eva info U (t.thread p)
    let clamped := T.slice.toNat < 2 * T.switchCost.toNat
    (∀ r rs, calm → T.copyRecs = r :: rs → Takes 0x14 r.fva (BitVec.ofNat 64 (min (rs.length + 1) 127)) base) ∧
    (∀ i, calm → T.copyRecs = [] → T.irq16 = some i → Takes 0x16 0#64
      (BitVec.ofNat 64 (min i.count 255 * 2 ^ 24 + if i.host then 0x1000 else i.queue % 4096)) { base with irq16 := none }) ∧
    (∀ c, calm → T.copyRecs = [] → T.irq16 = none → T.irq17 = some c → Takes 0x17 0#64 (if c then 1#64 else 0#64) { base with irq17 := none }) ∧
    (T.status.getLsbD 1 = false → exec (.interruptEntry p) s = .next s) ∧
    (T.resident = true → T.slice ≠ 0#32 → T.sliceRun = true → max T.slice.toNat (2 * T.switchCost.toNat) ≤ T.sliceE →
      Does (.sliceTimerExpiry p) s (ThreadBecomes p { T with
        irq17 := some (decide clamped), sliceRun := false
        clampCnt := if clamped ∧ T.clampCnt ≠ BitVec.allOnes 32 then T.clampCnt + 1#32 else T.clampCnt } s)) ∧
    (T.sliceE < max T.slice.toNat (2 * T.switchCost.toNat) →
      exec (.sliceTimerExpiry p) s = .next s) ∧
    (T.parked = some .waitne ∨ (∃ space key n old, T.parked = some (.watch space key n old)) → 
      Does (.waitneRecheck p) s (ThreadBecomes p { T with answers := [], reqs := [], parked := none, waiting := false } s)) ∧
    (T.parked = some (.deferral l) → Does (.faultDeferralExpiry p) s (ThreadBecomes p { T with parked := none } s)) ∧
    (T.resident = true → seq = T.teSeq →
      Does (.branchMispredict p seq) s (ThreadBecomes p { T with
        ahead := 0, unissued := 0, buffered := 0, te := T.te.filter fun e => decide (e.seq < seq) || e.started
        plane0 := match T.checkpoints.find? fun c => c.seq == seq with | some c => c.plane0 | none => T.plane0
        plane1 := match T.checkpoints.find? fun c => c.seq == seq with | some c => c.plane1 | none => T.plane1
        checkpoints := T.checkpoints.filter fun c => decide (c.seq < seq) } s)) ∧
    (∀ e, e ∈ T.te → e.seq = seq → e.done = true →
      Does (.teRetire p seq) s (ThreadBecomes p { T with te := T.te.filter fun e => e.seq != seq } s)) ∧
    Does (.sliceWrite p v) s (ThreadBecomes p { T with slice := v.setWidth 32, sliceE := 0, sliceRun := true, irq17 := none } s) ∧
    (let g : Tag := ⟨v.setWidth 12, v.extractLsb' 12 8⟩
     (s.current (p / 256) g = true → Does (.ctxWrite p v) s (ThreadBecomes p (T.retag g) s)) ∧
     (s.current (p / 256) g = false → T.resident = true → Does (.ctxWrite p v) s fun t =>
       (t.thread p).resident = false ∧ t = { s with threads := t.threads, clusters := t.clusters, layers := t.layers } ∧
         ∀ q, q ≠ p → q ≠ pairOf p ∨ T.paired = false → t.thread q = s.thread q) ∧
     (T.retag g).tag = g ∧ (∀ k, k < 14 → g ≠ T.tag → Table.find T.pairs k = none → Table.find (T.retag g).pairs k = some T.tag))

/-- R27, R275, R276, R282 to R285, R287, R313, R348, R350, R351, R369: the fetch choice of a core, and what its threads fetch and decode
in a cc; the decision of a tile array, and its ends; the writes of a cluster's and a layer's registers; the end of a cut by ABORT; the
exchange of fingerprints.  An event that is not due changes nothing (log 75); that a BARDESC write begins the phases again is log 77;
how many instructions are fetched, decoded and issued is free (log 83). -/
def Obligations.EventsOfCoresAndClusters : Prop :=
  ∀ (s : State) (cl core l n : Nat) (v : Word), cl < 128 → core < 1024 → l < 8 →
    let C := s.cluster cl
    let a := 2 * core
    let A := s.thread (2 * core)
    let B := s.thread (2 * core + 1)
    let first := s.candidate a = true ∧ (s.candidate (a + 1) = false ∨ 7 ≤ A.fetchAge ∨
      (B.fetchAge < 7 ∧ (A.unissued < B.unissued ∨ A.unissued = B.unissued ∧ 1 ≤ A.fetchAge)))
    let second := s.candidate (a + 1) = true ∧ ¬ first
    let Ticks := fun (T sib U : Thread) (fetched : Prop) => ∃ n m u,
      (fetched → 1 ≤ n ∧ n ≤ 16 ∧ T.buffered + n ≤ Config.fetchBuffer) ∧ (¬ fetched → n = 0) ∧
        u ≤ T.unissued + m ∧ (m ≠ 0 → m ≤ 6 ∧ m ≤ T.buffered ∧ T.ahead + m ≤ max 96 (384 - max 96 sib.ahead) ∧ T.resident = true ∧ T.parked = none) ∧
        U = { T with
          fetchAge := if n = 0 then T.fetchAge + 1 else 0, decodeAge := if m = 0 then T.decodeAge + 1 else 0
          buffered := T.buffered + n - m, ahead := T.ahead + m, unissued := u
          sliceE := if T.resident ∧ T.sliceRun then T.sliceE + 1 else T.sliceE }
    let held := ∃ c, c < 16 ∧ 0 < (s.barCl l n c).cur + (s.barCl l n c).next
    let desc := v &&& 0x807FFFFF#64
    let due := fun (p : Nat) => (s.thread p).paired = true ∧ (s.thread p).exchangeDue = true
    let before := fun (u : Thread) => match u.entered with
      | some e => { u with
          status := e.status, epc := e.epc, ecause := e.ecause, eva := e.eva, einfo := e.einfo
          irq16 := if u.irq16.isSome then u.irq16 else e.irq16, irq17 := if u.irq17.isSome then u.irq17 else e.irq17 }
      | none => u
    Does (.fetchCycle core) s (fun t =>
      t = { s with threads := t.threads, cores := t.cores, free := s.free + 5 } ∧
        t.core core = { s.core core with cycle := (s.core core).cycle + 1 } ∧
        (∀ k, k ≠ core → t.core k = s.core k) ∧ Ticks A B (t.thread a) first ∧ Ticks B A (t.thread (a + 1)) second ∧
        ((t.thread a).decodeAge ≠ 0 ∨ (t.thread (a + 1)).decodeAge ≠ 0) ∧
        (A.resident = true → A.looped = false → A.parked = none → 0 < A.buffered → A.ahead < 16 → A.unissued = 0 → B.unissued = 0 → B.buffered = 0 →
          (t.thread a).decodeAge = 0) ∧
        ∀ q, q ≠ a → q ≠ a + 1 → t.thread q = s.thread q) ∧
    (C.running = none → C.loading = none → (∀ i, i < 16 → (s.thread (16 * cl + i)).te = []) → (∀ k, C.cur = some k → k / 8 = cl) →
      Does (.arrayArbiterDecision cl) s fun t =>
        (∀ q, t.thread q = s.thread q) ∧
          t.cluster cl = { C with
            loaded := none
            cur := match C.cur with | some k => if s.weight k = 0 ∨ C.loaded ≠ none then none else some k | none => none }) ∧
    (∀ i h rest, C.running = none → C.loading = none → C.cur = none → C.twld = [] →
      (∀ j e, j < 16 → e ∈ (s.thread (16 * cl + j)).te → s.current (cl / 16) e.tag = true ∧ e.op ≠ 2) →
      i < 8 → (∀ j, j < i → s.weight (8 * cl + (C.last + 1 + j) % 8) = 0 ∨ s.coreQueue (8 * cl + (C.last + 1 + j) % 8) = []) →
      s.weight (8 * cl + (C.last + 1 + i) % 8) ≠ 0 → s.coreQueue (8 * cl + (C.last + 1 + i) % 8) = h :: rest →
      Does (.arrayArbiterDecision cl) s fun t =>
        (h.2.op = 0 ∧ C.active ≠ some h.2.plane → t.cluster cl = { C with
          cur := some (8 * cl + (C.last + 1 + i) % 8), last := (C.last + 1 + i) % 8, used := 0
          active := some h.2.plane, staging := C.active, loading := some (h.1, h.2.seq), loaded := none }) ∧
        (¬ (h.2.op = 0 ∧ C.active ≠ some h.2.plane) → t.cluster cl = { C with
          cur := some (8 * cl + (C.last + 1 + i) % 8), last := (C.last + 1 + i) % 8, used := h.2.occ
          running := some (h.1, h.2.seq), loaded := none })) ∧
    (C.running ≠ none → exec (.arrayArbiterDecision cl) s = .next s) ∧
    (∀ k h rest, C.running = none → C.loading = none → C.cur = some (8 * cl + k) → k < 8 → s.weight (8 * cl + k) ≠ 0 → C.twld = [] →
      (∀ j e, j < 16 → e ∈ (s.thread (16 * cl + j)).te → s.current (cl / 16) e.tag = true ∧ e.op ≠ 2) →
      s.coreQueue (8 * cl + k) = h :: rest → C.loaded = some (h.1, h.2.seq) → C.active = some h.2.plane → h.2.op = 0 →
      C.used + h.2.occ ≤ 4 * s.weight (8 * cl + k) → Does (.arrayArbiterDecision cl) s fun t =>
        t.cluster cl = { C with used := C.used + h.2.occ, running := some (h.1, h.2.seq), loaded := none }) ∧
    (C.loading ≠ none → Does (.planeLoadComplete cl) s (ClusterBecomes cl { C with loading := none, loaded := C.loading } s)) ∧
    (∀ p seq e, C.running = some (p, seq) → (s.thread p).te.find? (fun e => e.seq == seq) = some e → Does (.arrayOpComplete cl) s fun t =>
      t.cluster cl = (if e.op = 1 ∧ C.staging = some e.plane ∧ C.active = some e.other
        then { C with running := none, active := C.staging, staging := C.active } else { C with running := none }) ∧
      (s.current (p / 256) e.tag = true → { e with done := true } ∈ (t.thread p).te) ∧
      (∀ f, f ∈ (s.thread p).te → f.seq ≠ seq → f ∈ (t.thread p).te) ∧ ∀ q, q ≠ p → t.thread q = s.thread q) ∧
    (∀ p w, p < 2048 → (s.cluster (p / 16)).twld.find? (fun w => w.1 == p) = some w → Does (.twldPlaneComplete p) s
      (ClusterBecomes (p / 16) { s.cluster (p / 16) with
        twld := (s.cluster (p / 16)).twld.erase w
        staging := if (s.cluster (p / 16)).active = some w.2.2.1 then some w.2.1 else (s.cluster (p / 16)).staging } s)) ∧
    (∀ p q rest, p < 2048 → s.packets = q :: rest → q.src = p → q.unit = 2 → q.kind = .load → q.stage = .done → s.responseInOrder q = true →
      q.joined = [] → (s.thread p).reqs = [q.id] → s.currentNow q.tag = true → Does (.tileRowArrival p) s fun t =>
        (t.thread p).reqs = [] ∧
          (∃ x, (t.thread p).answers = ((s.thread p).answers.filter fun a => a.held.isNone) ++ [x] ∧ x.id = q.id ∧ x.cause = 0 ∧
            x.poison = (if dieOf q.va = 8 then q.poison else q.poison &&& ~~~ s.ownCures p (lineVa q.va)) ∧ x.held = none ∧ x.data =
              if dieOf q.va = 8 then q.reply else (s.ownOver p (lineVa q.va) (q.reply.setWidth 512)).setWidth 1024) ∧
          t.packet q.id = none ∧ ∀ k, t.peek k = s.peek k) ∧
    Does (.engweightWrite cl v) s (ClusterBecomes cl { C with engweight := v.setWidth 32 } s) ∧
    (n < 16 → held → exec (.bardescWrite l n v) s = .next s) ∧
    (n < 16 → ¬ held → Does (.bardescWrite l n v) s (LayerBecomes l { s.layer l with
      bardesc := Table.put (s.layer l).bardesc n (if v.getLsbD 31 ∧ barValid l desc = false then v &&& 0x7FFFFF#64 else desc)
      barCl := (s.layer l).barCl.filter fun e => e.1 / 16 != n
      bars := Table.put (s.layer l).bars n BarLayer.reset } s)) ∧
    (n < 64 → s.slotAccepts l n v = false → exec (.ropeslotWrite l n v) s = .next s) ∧
    (n < 64 → s.slotAccepts l n v = true → Does (.ropeslotWrite l n v) s fun t =>
      t = { s with layers := t.layers, bdQueue := t.bdQueue, nextId := s.nextId + 1 } ∧
        (∀ k, t.slotEntry 8 k = if k = n then v &&& 0x3F#64 else s.slotEntry 8 k) ∧ (∀ k, k ≠ 8 → t.layer k = s.layer k) ∧
        t.bdQueue = s.bdQueue ++ [{ Item.blank with
          op := .slotNotice n (v &&& 0x3F#64), id := s.nextId, src := 256 * l, expect := s.slotEntry 8 n }]) ∧
    (¬ (s.cairn.state = 1 ∨ s.cairn.state = 2 ∨ s.cairn.state = 3) → exec .snapctlAbort s = .next s) ∧
    (s.cairn.state = 1 ∨ s.cairn.state = 2 ∨ s.cairn.state = 3 → Does .snapctlAbort s fun t =>
      t.cairn.state = 6 ∧ t.cairn.epoch = !s.cairn.epoch ∧ (∀ x, ¬ InStaging s x → t.peek x = s.peek x) ∧
        (∀ k, k < 8 → (t.layer k).staged = [] ∧ (t.layer k).drained = []) ∧ ∀ q, t.thread q = { s.thread q with flipped := false }) ∧
    (∀ p, due p → (p = a ∨ p = a + 1 ∧ ¬ due a) →
      ((s.thread p).crc = (s.thread p).shadowCrc → Does (.fingerprintExchange core) s
        (ThreadBecomes p { s.thread p with crc := 0, shadowCrc := 0, exchangeDue := false, entered := none } s)) ∧
      ((s.thread p).crc ≠ (s.thread p).shadowCrc → Does (.fingerprintExchange core) s fun t =>
        (t.core core).misCnt.toNat = min ((s.core core).misCnt.toNat + 1) 0xFFFF ∧
          (t.core (core ^^^ 1)).misCnt.toNat = min ((s.core (core ^^^ 1)).misCnt.toNat + 1) 0xFFFF ∧
          (∀ q, q ≠ p → t.thread q = s.thread q) ∧ (∀ x, t.peek x = s.peek x) ∧
          ((s.thread p).restartable = true → (t.thread p).calm = { before (s.thread p) with
            pc := (s.thread p).region &&& 0x00FFFFFFFFFFFFFE#64, prg := 0, region := (s.thread p).region ||| oneBit 63 }.calm) ∧
          ((s.thread p).restartable = false → Enters 0x15 4 false ((s.thread p).region &&& 0x00FFFFFFFFFFFFFE#64) 0#64
            (BitVec.ofNat 64 (min (s.thread p).regionCount (2 ^ 32 - 1) + if (s.thread p).region.getLsbD 63 then 2 ^ 32 else 0))
            (before (s.thread p)) (t.thread p)))) ∧
    (¬ due a → ¬ due (a + 1) → exec (.fingerprintExchange core) s = .next s)

/-- R128, R135, R252, R262, R266, R270, R273, R292, R326, R327, R333, R334, R353, R385, R389, R398, R400: what becomes of a request `p` away from
its core: it arrives at its home, is sent again, is performed, acknowledged or denied, brings its line back, or is given up.  What another package
answers is free (log 66). -/
def Obligations.EventsOfRequests : Prop :=
  ∀ (s : State) (id : Nat) (p : Packet), s.packet id = some p →
    let T := s.thread p.src
    let die := dieOf p.va
    let own := p.src / 256
    let home := if die < 8 then die else own
    let current := s.currentNow p.tag = true
    let gone := fun (t : State) => t.packet id = none
    let same := fun (t : State) => ∀ x, t.peek x = s.peek x
    let others := fun (t : State) => ∀ q, q ≠ p.src → t.thread q = s.thread q
    let alone := p.joined = []
    let sent := p.stage = .done ∧ p.wire = false ∧ s.responseInOrder p = true
    let arrives := s.arrivalDue p = true ∧ p.ownRadd = false
    let r := if p.path = .bd then clusterOf p.src else 16 * home + hsOf p.pa
    let cured := fun (q : Nat) (b : BitVec 4) => if p.kind = .load ∧ die ≠ 8 then b &&& ~~~ s.ownCures q (lineVa p.va) else b
    let line := fun (q : Nat) (x : Answer) => x.id = id ∧ x.cause = 0 ∧ x.poison = cured q (if p.kind = .rel then 0#4 else p.poison) ∧ x.held = none ∧ x.data =
      if p.kind = .load ∧ die ≠ 8 then (s.ownOver q (lineVa p.va) (p.reply.setWidth 512)).setWidth 1024 else p.reply
    let denied := { p with stage := .denied 0x0B, wire := false, pos := clusterOf p.src, entry := clusterOf p.src }
    let heard := T.answers.filter fun a => a.held.isNone
    let direct := die < 8 ∧ die = partner own ∧ (s.dropPacket id).viaBd p = false
    let taken := fun (pa : Nat) => p.mt ≠ 3 ∨ s.stallsAt ((home * 2 ^ 48 + pa) / 16) p.colour = false
    let dropped := fun (t : State) (l c : Nat) => gone t ∧ same t ∧ (∀ q, t.thread q = s.thread q) ∧
      Table.at 0 (t.layer l).drops c = Table.at 0 (s.layer l).drops c + 1
    (s.arrivalDue p = false → (∀ pa, p.stage ≠ .atHome pa) → exec (.remoteRequestArrival id) s = .next s) ∧
    (∀ pa, p.stage = .atHome pa → die < 8 → p.kind.posted = false →
      (s.waitDue p = false → exec (.remoteRequestArrival id) s = .next s) ∧
      (s.waitDue p = true → s.isFenced home = false →
        (s.current home p.tag = false → Does (.remoteRequestArrival id) s fun t => dropped t home 0) ∧
        (s.current home p.tag = true → p.kind = .load → p.look = false → Does (.remoteRequestArrival id) s fun t =>
          let key := home * 2 ^ 48 + pa
          let r' := if p.path = .bd then clusterOf p.src else 16 * home + hsOf (paOfKey key)
          same t ∧ (∀ q, t.thread q = s.thread q) ∧ t.packet id = some { p with
            stage := .done, reply := BitVec.ofNat 1024 (s.peekNat (key / 64 * 64) 64), poison := s.linePoison key, pa := paOfKey key
            wire := p.path == .rope, pos := r', entry := r' }))) ∧
    (s.arrivalDue p = true → p.ownRadd = true → Does (.remoteRequestArrival id) s fun t =>
      t.packet id = some { p with stage := .atHome p.pa } ∧ same t ∧ ∀ q, t.thread q = s.thread q) ∧
    (arrives → die < 8 → die ≠ own → s.isFenced die = false → s.current die p.tag = false →
      Does (.remoteRequestArrival id) s fun t => dropped t die 0) ∧
    (arrives → die < 8 → die ≠ own → s.isFenced die = true → p.kind.posted = true →
      p.orphan = false → Does (.remoteRequestArrival id) s fun t =>
        t.packet id = some denied ∧ same t ∧ ∀ q, t.thread q = s.thread q) ∧
    (∀ e, arrives → die < 8 → die ≠ own → s.current die p.tag = true → s.isFenced die = false → p.kind.isHint = false →
      p.va.toNat % p.align = 0 → s.tlbHits (mtlb die (tsOf p.va)) die p.tag die (offOf p.va) = [e] → permCause p.kind.access p.sup e.pte = 0 →
      pteD e.pte = true → pteType e.pte < 3 → Does (.remoteRequestArrival id) s fun t =>
        (let pa := pteFrame e.pte / 2 ^ e.bits * 2 ^ e.bits + offOf p.va % 2 ^ e.bits
         t.packet id = some { p with stage := .atHome pa, boxed := false, pa := pa, mt := pteType e.pte, priv := pteP e.pte }) ∧ same t ∧ ∀ q, t.thread q = s.thread q) ∧
    (arrives → (die = 8 ∨ die = 9) → ¬ current → Does (.remoteRequestArrival id) s fun t => dropped t own 0) ∧
    (arrives → current → die = 8 → p.kind = .store → p.pa + p.n ≤ 0x8000 → Does (.remoteRequestArrival id) s fun t =>
      t.packet id = (if p.counted = 0 then none else some { p with stage := .done, wire := p.path == .rope, pos := r, entry := r }) ∧ same t ∧
        (∀ q, t.thread q = s.thread q) ∧
        ∀ a, Memory.read t.bd a = if p.pa ≤ a ∧ a < p.pa + p.n then BitVec.ofNat 8 (lineGet p.data 0 p.n / 256 ^ (a - p.pa)) else Memory.read s.bd a) ∧
    (p.stage = .retry → direct → Does (.retryReissue id) s fun t =>
      t = { s with packets := s.packets.filter (fun q => q.id != id) ++
        [{ p with stage := .toHome, wire := false, path := .direct, pos := clusterOf p.src, entry := clusterOf p.src }] }) ∧
    (∀ pa, p.stage = .atHome pa → p.kind = .store → s.firstOnLine p = true → s.current home p.tag = true → taken pa →
      Does (.remoteStoreAtHome id) s fun t => others t ∧
        t.peekBytes (home * 2 ^ 48 + pa) p.n = bytesOf p.n (lineGet p.data 0 p.n) ∧
        (∀ a, a < home * 2 ^ 48 + pa ∨ home * 2 ^ 48 + pa + p.n ≤ a → t.peek a = s.peek a) ∧ 
        t.packet id = if p.counted = 0 then none else some { p with stage := .done, wire := p.path == .rope, pos := r, entry := r }) ∧
    (∀ pa, p.stage = .atHome pa → p.kind = .store → s.firstOnLine p = true → s.current home p.tag = true → ¬ taken pa →
      Does (.remoteStoreAtHome id) s fun t => same t ∧ (∀ q, t.thread q = s.thread q) ∧ t.packet id = some p ∧
        ((home * 2 ^ 48 + pa) / 2 ^ 48, (home * 2 ^ 48 + pa) % 2 ^ 48 / 4096) ∈ t.cairn.wanted) ∧
    (∀ pa, p.stage = .atHome pa → p.kind = .store → s.firstOnLine p = true → s.current home p.tag = false →
      Does (.remoteStoreAtHome id) s fun t => dropped t home 0) ∧
    (∀ pa fp, p.stage = .atHome pa → p.kind = .radd fp → s.firstOnLine p = true → s.current home p.tag = true → taken pa →
      Does (.raddAtHome id) s fun t => others t ∧
        t.peekBytes (home * 2 ^ 48 + pa) p.n =
          bytesOf p.n (raddSum fp p.n (s.peekNat (home * 2 ^ 48 + pa) p.n) (lineGet p.data 0 p.n)) ∧
        (∀ a, a < home * 2 ^ 48 + pa ∨ home * 2 ^ 48 + pa + p.n ≤ a → t.peek a = s.peek a) ∧ 
        t.packet id = if p.counted = 0 then none else some { p with stage := .done, wire := p.path == .rope, pos := r, entry := r }) ∧
    (p.kind.posted = true → sent → alone → current → Does (.remoteStoreAck id) s fun t =>
      gone t ∧ same t ∧ others t ∧
        t.thread p.src = if p.counted = 0 then T else { T with ors := T.ors - 1 }) ∧
    (p.kind.posted = true → sent → ¬ current → Does (.remoteStoreAck id) s fun t => dropped t own 1) ∧
    (∀ c, p.stage = .denied c → p.kind.posted = true → p.wire = false → s.responseInOrder p = true → alone → current →
      Does (.remoteStoreDenial id) s fun t => gone t ∧ same t ∧ others t ∧ t.thread p.src = { T with
        ors := T.ors - min 1 p.counted
        denial := match T.denial with
          | none => some ⟨c, p.kind.access, p.va, p.unit, 0⟩
          | some d => some { d with more := d.more + 1 } }) ∧
    (s.leaveDue p = true →
      (p.isRadd = true ∧ p.counted = 0 → Does (.combineWindowExpiry id) s fun t =>
        t.packet id = some { p with stage := .atHome p.pa } ∧ same t ∧ ∀ q, t.thread q = s.thread q) ∧
      (p.isRadd = false ∨ p.counted ≠ 0 → direct →
        Does (.combineWindowExpiry id) s fun t =>
          t = { s with packets := s.packets.filter (fun q => q.id != id) ++ [{ p with stage := .toHome, wire := false, path := .direct }] })) ∧
    (s.leaveDue p = false → exec (.combineWindowExpiry id) s = .next s) ∧
    (p.kind.posted = false → sent → current → T.reqs.contains id = true → alone →
      Does (.lineFillResponse id (p.reply.setWidth 512)) s fun t => gone t ∧ same t ∧ others t ∧
        (t.thread p.src).reqs = T.reqs.filter (· != id) ∧
          ∃ x, (t.thread p.src).answers = heard ++ [x] ∧ line p.src x) ∧
    (p.kind.posted = false → sent → ¬ current → alone →
      Does (.lineFillResponse id (p.reply.setWidth 512)) s fun t => dropped t own 1) ∧
    (p.kind.posted = false → p.kind ≠ .rel → sent → current → ¬ alone → Does (.mergedFillReturn id (p.reply.setWidth 512)) s fun t => gone t ∧ same t ∧
      ∀ q, q = p.src ∨ q ∈ p.joined ∧ p.suits (s.thread q) = true → (s.thread q).reqs.contains id = true →
        (t.thread q).reqs.contains id = false ∧ ∃ x, x ∈ (t.thread q).answers ∧ line q x) ∧
    (p.orphan = true → Does (.orphanTimeout id) s fun t => gone t ∧ same t ∧ (∀ q, t.thread q = s.thread q) ∧ t.layers = s.layers) ∧
    (die = 9 → p.stage = .toHome → p.kind.posted = true → p.orphan = false →
      Does (.die9Timeout id) s fun t => t.packet id = some denied ∧ same t) ∧
    ((die = 9 ∧ p.stage = .toHome ∨ die = 8 ∧ p.stage = .atHome p.pa) → p.kind.posted = false → alone → p.orphan = false →
      p.kind.isHint = false → T.reqs.contains id = true →
      let E := if die = 9 then Instr.die9Timeout id else Instr.outboundReadTimeout id
      Does E s fun t => gone t ∧ same t ∧ others t ∧ (t.thread p.src).reqs = T.reqs.filter (· != id) ∧
        ∃ x, (t.thread p.src).answers = heard ++ [x] ∧ x.id = id ∧
          match p.kind with
          | .rel | .put | .probe _ => x.cause = 0x0B
          | _ => x.cause = 0 ∧ x.poison = cured p.src 15#4) ∧
    (p.stage = .bdHeld → (s.layer die).power = .asleep → Does (.bdHeldRequest id) s fun t =>
      (t.layer die).power = .waking 1 ∧ same t ∧ (∀ q, t.thread q = s.thread q) ∧ (∀ l, l ≠ die → t.layer l = s.layer l) ∧
        ∀ o, o < 65536 → Memory.read t.rope (65536 * die + o) = Memory.read s.rope (65536 * 8 + o))

/-- R192, R194, R195, R198, R199, R204, R206, R207, R337: a piece that moves one line, completion, and the stop at a fault of a copy; a message
that arrives for a posted buffer or finds none, that is given up, and whose sender is answered.  An event that is not due changes nothing
(log 75). -/
def Obligations.EventsOfCopiesAndMessages : Prop :=
  ∀ (s : State) (id q sender st detail len key mt ks mts : Nat) (data : List Byte) (c : Copy) (b : Posted) (rest : List Posted) (m : Message)
    (n : Inbound),
    let T := s.thread c.src
    let awake := s.isFenced s.myLayer = false ∧ s.isAsleep s.myLayer = false
    let mine := c.src = s.cur ∧ c.tag = s.th.tag ∧ c.sup = s.th.status.getLsbD 0
    let L := c.len.toNat
    let k := min data.length b.len
    let ends := fun (cg : Table (BitVec 7)) (t : State) => t.copy id = none ∧ (∀ x, t.peek x = s.peek x) ∧
      (∀ p, p ≠ c.src → t.thread p = s.thread p) ∧ t.thread c.src = { T with psig := T.psig ||| c.performedSig, cg := cg } ∧
      ∀ l, l ∈ t.rdc ↔ l ∈ s.rdc ∧ ¬ (l.cl = clusterOf c.src ∧ l.tag = c.tag ∧ c.wroteLine l.va = true)
    (s.copy id = some c → mine → awake → c.form = 0 → c.hasArr = false → c.next = [] → c.ahead = [] → c.moved = [] → c.flying = [] → c.reads = [] → 0 < L →
      c.from_.toNat % 64 + L ≤ 64 → c.dst.toNat % 64 + L ≤ 64 → Maps s .load c.from_ ks mts → Maps s .store c.dst key mt →
      s.sourceBusy c c.from_.toNat L = false → s.poison = [] → Does (.copyPieceArrivalUpdate id 0) s fun t =>
        t.peekBytes key L = s.peekBytes ks L ∧ (∀ x, x < key ∨ key + L ≤ x → t.peek x = s.peek x) ∧
          (∀ p, t.thread p = s.thread p) ∧ t.copy id = some { c with next := [(0, 1)], sig := c.sig ||| spanSig c.dst L }) ∧
    (s.copy id = some c → c.finished = true → Does (.copyCompletion id) s
      (ends (Table.put T.cg c.cg (if Table.at 0#7 T.cg c.cg = 0#7 then 0#7 else Table.at 0#7 T.cg c.cg - 1#7)))) ∧
    (s.copy id = some c → c.finished = false → exec (.copyCompletion id) s = .next s) ∧
    (∀ s' cause kind fva, s.copy id = some c → s.copyFault c = some (s', cause, kind, fva) → Does (.copyFaultStop id) s fun t =>
      t.copy id = none ∧ (t.thread c.src).cg = (s'.thread c.src).cg ∧
        ∃ r, (t.thread c.src).copyRecs = (s'.thread c.src).copyRecs ++ [r] ∧ r.cg = c.cg ∧ r.fva = fva) ∧
    (q < 4096 → data.length ≤ 2 ^ 24 → sender < 8192 → s.postedTo q = [] → Does (.messageArrival q sender data) s fun t =>
      t.cairn = { s.cairn with injected := t.cairn.injected } ∧ ∃ g, t = { s with
        nextId := s.nextId + 1, free := s.free + 1, cairn := t.cairn, inbound := s.inbound ++ [⟨s.nextId, q, sender, data, none, none, some g⟩] }) ∧
    (q < 4096 → data.length ≤ 2 ^ 24 → sender < 8192 → s.postedTo q = b :: rest → b.src = s.cur → b.tag = s.th.tag →
      (∀ e, e ∈ s.threads → e.2.resident = true → e.2.who = b.who → e.1 = s.cur ∧ e.2 = s.th) → b.sup = s.th.status.getLsbD 0 → awake → 0 < k → b.va.toNat % 64 + k ≤ 64 → b.status.toNat % 16 = 0 → b.status.toNat % 128 ≠ 0 →
      Maps s .store b.va key mt → Maps s .store b.status ks mts → ks + 16 ≤ key ∨ key + k ≤ ks → Does (.messageArrival q sender data) s fun t =>
        t.peekBytes key k = data.take k ∧
          t.peekNat ks 16 = data.length + (if b.len < data.length then 3 else 1) * 2 ^ 64 + sender * 2 ^ 96 ∧
          (∀ x, (x < key ∨ key + k ≤ x) → (x < ks ∨ ks + 16 ≤ x) → t.peek x = s.peek x) ∧ t.postedTo q = rest ∧
          (∀ p, p ≠ s.cur → t.thread p = s.thread p) ∧
          (s.th.resident = true → s.th.who = b.who → s.th.irq16 = none → t.th = { s.th with irq16 := some ⟨1, false, q, 0⟩ }) ∧
          (s.th.resident = false ∨ s.th.who ≠ b.who → t.th = s.th)) ∧
    (s.inbound.find? (fun x => x.id == id) = some n → Does (.messagePlacementTimeout id) s fun t =>
      t = { s with inbound := t.inbound, messages := t.messages, cairn := t.cairn } ∧ t.inbound = s.inbound.filter (fun x => x.id != id) ∧
        t.messages = s.messages.map fun x => if x.id = id
          then { x with answer := some (if n.buf.isNone then (0x10, 0, 0) else (0x11, 0x0A, 0)) } else x) ∧
    (s.messages.find? (fun x => x.id == id) = some m → m.answer = some (st, detail, len) → epHost m.endpoint = false →
      s.currentNow m.tag = true → m.src = s.cur → m.tag = s.th.tag → m.sup = s.th.status.getLsbD 0 → awake →
      Maps s .store m.comp key mt → m.comp.toNat % 16 = 0 → Does (.msendCompletion id st detail len) s fun t =>
        t.peekNat key 16 = st % 2 ^ 32 + detail % 2 ^ 32 * 2 ^ 32 + len % 2 ^ 64 * 2 ^ 64 ∧
          (∀ x, x < key ∨ key + 16 ≤ x → t.peek x = s.peek x) ∧ (∀ p, t.thread p = s.thread p) ∧
          t.messages = s.messages.filter fun x => x.id != id) ∧
    (s.messages.find? (fun x => x.id == id) = some m → m.answer = some (st, detail, len) → s.currentNow m.tag = false →
      Does (.msendCompletion id st detail len) s fun t =>
        (∀ x, t.peek x = s.peek x) ∧ (∀ p, t.thread p = s.thread p) ∧ t.messages = s.messages.filter fun x => x.id != id)

/-- R274, R288, R290, R307 to R317, R324, R326, R327, R353: a slot of the Rope, a veto, the application of an ordered write at every station, a
beat, the slot table's change; barrier tokens and releases, which end the waits of the cluster's threads; routers; layers that wake, are
fenced and restart.  An event that is not due changes nothing (log 75). -/
def Obligations.EventsOfRopeAndLayers : Prop :=
  ∀ (s : State) (x : Transmission) (i : Item) (l n cl : Nat) (v : Word) (p : Packet),
    let e := s.slotInForce (s.slot % 64)
    let tx := e.toNat % 16
    let cls := e.toNat / 16 % 4
    let quiet := s.landed true = none ∧ s.landed false = none ∧ s.forceDue = false ∧ s.spaceVeto = none
    let same := fun (t : State) => ∀ a, t.peek a = s.peek a
    let threads := fun (t : State) => ∀ q, t.thread q = s.thread q
    let station := fun (k : Nat) => k = 8 ∨ k < 8 ∧ (s.layer k).power = .awake
    let B := s.barCl l n cl
    let d := s.bardesc l n
    let place := l < 8 ∧ n < 16 ∧ cl < 16
    let g := 16 * l + cl
    (quiet → tx < 8 → (s.layer tx).power = .awake → Table.at [] (s.layer tx).retrans cls = [] → Table.at [] (s.layer tx).queue cls = [i] →
      s.lanesOf i ≤ s.lanes → Does .ropeSlotTransmit s fun t =>
        t = { s with slot := s.slot + 1, air := s.air ++ [⟨s.slot, tx, cls, [i], false⟩], layers := t.layers } ∧
          Table.at [] (t.layer tx).queue cls = [] ∧ ∀ k, k ≠ tx → t.layer k = s.layer k) ∧
    (quiet → tx = 15 → Does .ropeSlotTransmit s fun t => t = { s with slot := s.slot + 1 }) ∧
    (s.landed true ≠ none → exec .ropeSlotTransmit s = .next s) ∧
    (s.air = [x] → x.slot + 1 = s.slot → x.tx < 8 → x.tx ≠ l → (l = 8 ∨ l < 8 ∧ s.hears l = true) →
      Table.at 0 (s.layer x.tx).vetoes x.cls % 16 ≠ 15 →
      s.recent 10 x.tx (crcIndex x.cls) % max 1 ((s.threshold 10).toNat % 2 ^ 32) ≠ 0 → Does (.ropeVeto l) s fun t =>
        t = { s with air := [], layers := t.layers, basecamp := t.basecamp } ∧ Table.at [] (t.layer x.tx).retrans x.cls = x.items ∧
          Table.at 0 (t.layer x.tx).vetoes x.cls = Table.at 0 (s.layer x.tx).vetoes x.cls + 1 ∧
          (t.layer x.tx).queue = Table.put (s.layer x.tx).queue x.cls (Table.at [] (s.layer x.tx).queue x.cls) ∧
          t.basecamp.records = s.basecamp.records ∧ t.inWindow 10 x.tx (crcIndex x.cls) = s.recent 10 x.tx (crcIndex x.cls) ∧
          ∀ k, k < 8 → k ≠ x.tx → s.hears k = true → s.noSpace k x = true → (x.tx, x.cls) ∈ (t.layer k).reserved) ∧
    (s.air = [x] → x.cls = 0 → x.slot + 2 ≤ s.slot → x.items = [i] → i.op = .rst → s.currentNow i.tag = true → i.off + i.n ≤ 65536 →
      (∀ k, k < 8 → (s.layer k).power = .awake ∨ (s.layer k).power = .asleep) → Does .ropeOrderedApply s fun t =>
        t.air = [] ∧ same t ∧ (∀ q, q ≠ i.src → t.thread q = s.thread q) ∧
          ((s.thread i.src).resident = true → t.thread i.src = { s.thread i.src with ors := (s.thread i.src).ors - 1 }) ∧
          (∀ k, station k → t.ropeRead k i.off i.n = i.val.toNat % 2 ^ (8 * i.n)) ∧
          ∀ a, (∀ k, station k → a < 65536 * k + i.off ∨ 65536 * k + i.off + i.n ≤ a) → Memory.read t.rope a = Memory.read s.rope a) ∧
    (s.air = [x] → x.cls = 1 → x.slot + 2 ≤ s.slot → x.items = [i] → i.op = .request p.id → s.packet p.id = some p →
      s.currentNow p.tag = true → Does .ropeBeatReceive s fun t =>
        t.air = [] ∧ same t ∧ threads t ∧
          t.packet p.id = some { p with wire := false, boxed := true, pos := 16 * dieOf p.va + tsOf p.va, entry := 16 * dieOf p.va + tsOf p.va }) ∧
    (s.slot % 64 = 0 → s.changes = [(cl, n, v)] → cl < s.slot / 64 → Does .slotTableTakeForce s fun t =>
      t = { s with inForce := t.inForce, changes := [] } ∧ ∀ k, t.slotInForce k = if k = n then v else s.slotInForce k) ∧
    (place → barIn d cl = true → barLastCol d cl = false → s.barRow l n (cl + 1) = true → (s.barCl l n (cl + 1)).sentRow = false →
      B.east = false → B.phase = (s.barCl l n (cl + 1)).phase → Does (.barrierSweepToken l n cl) s fun t =>
        t.barCl l n cl = { B with east := true } ∧ t.barCl l n (cl + 1) = { s.barCl l n (cl + 1) with sentRow := true } ∧ threads t ∧ same t) ∧
    (place → s.barRow l n (cl + 1) = false → s.barColumn l n (cl + 4) = false →
      exec (.barrierSweepToken l n cl) s = .next s) ∧
    (place → s.releaseDue l n cl = true → Does (.barrierRelease l n cl) s fun t =>
      t.barCl l n cl = { cur := min B.next (barNthr d), next := B.next - min B.next (barNthr d), phase := B.phase + 1, east := false
                         south := false, sentRow := false, sentCol := false } ∧ same t ∧
        ∀ q, let T := s.thread q
          let waits := fun (k : Park) => ∃ ph, ph ≤ B.phase ∧ T.parked = some k ∧ (k = .bar n ph ∨ k = .barwait n ph)
          (∀ ph, clusterOf q = g → ph ≤ B.phase → T.parked = some (.bar n ph) →
            Completes 4 T (t.thread q) ∧ (t.thread q).bare = { T with prg := 0 }.bare) ∧
          (∀ ph, clusterOf q = g → ph ≤ B.phase → T.parked = some (.barwait n ph) → Completes 4 T (t.thread q) ∧ (t.thread q).bare = T.bare) ∧
          (clusterOf q ≠ g ∨ (∀ k, ¬ waits k) → t.thread q = T)) ∧
    (place → (s.cluster g).gated = false → s.wakeSignal g = false →
      Does (.routerPowerGate l cl) s (ClusterBecomes g { s.cluster g with gated := true } s)) ∧
    (place → s.wakeSignal g = true → exec (.routerPowerGate l cl) s = .next s) ∧
    (place → (s.cluster g).gated = true → s.wakeSignal g = true →
      Does (.routerWake l cl) s (ClusterBecomes g { s.cluster g with gated := false } s)) ∧
    (place → s.wakeSignal g = false → exec (.routerWake l cl) s = .next s) ∧
    (l < 8 → 1 ≤ n → n < 5 → (s.layer l).power = .waking n → Does (.layerWake l) s fun t =>
      (t.layer l).power = .waking (n + 1) ∧ same t ∧ (n = 2 → (t.layer l).inc = s.mirrorInc) ∧
        (n = 3 → ∀ q, q ∈ s.packets → q.stage = .bdHeld → dieOf q.va = l → s.currentNow q.tag = true →
          (∀ r, r ∈ s.packets → r.id = q.id → r = q) →
          { q with stage := .toHome, wire := false, pos := 16 * l + tsOf q.va, entry := 16 * l + tsOf q.va } ∈ t.packets) ∧
        (n = 4 → ∃ j, Table.at [] (t.layer l).queue 0 = Table.at [] (s.layer l).queue 0 ++ [j] ∧ j.op = .wake l)) ∧
    (l < 8 → (s.layer l).power ≠ .fenced → Does (.layerFence l) s fun t =>
      (t.layer l).power = .fenced ∧ (∃ j, j ∈ t.bdQueue ∧ j.op = .fence l) ∧ (∀ q, layerOf q = l → (t.thread q).resident = false) ∧
        (∀ f, f ∈ t.tlb ↔ f ∈ s.tlb ∧ f.layer ≠ l) ∧
        ∀ f, f ∈ s.basecamp.layerSets → f.2.getLsbD l = true → f.1 ≠ 0 → ∃ j, j ∈ t.bdQueue ∧ j.op = .kill ∧ j.val = BitVec.ofNat 64 f.1) ∧
    (l < 8 → s.air = [x] → x.cls = 0 → x.slot + 2 ≤ s.slot → x.items = [i] → i.op = .fence l → s.currentNow i.tag = true →
      Does .ropeOrderedApply s fun t => same t ∧ threads t ∧ (t.layer l).queue = [] ∧
        ∀ k, k < 64 → t.slotEntry 8 k = if slotTx (s.slotEntry 8 k) = l then 15#64 else s.slotEntry 8 k) ∧
    (∀ c, s.air = [x] → x.cls = 0 → x.slot + 2 ≤ s.slot → x.items = [i] → i.op = .kill → s.currentNow i.tag = true → i.val.toNat = c →
      0 < c → c < 4096 → (s.mirrorEntry c).pend = false → Does .ropeOrderedApply s fun t =>
        let inc := (s.mirrorEntry c).cur
        (∀ a, ¬ InStaging s a → t.peek a = s.peek a) ∧ t.mirrorEntry c = ⟨inc + 1#8, true⟩ ∧
          (s.rpcItem = some (i.id, none) → t.rpcItem = some (i.id, some (inc.toNat * 256 + (inc + 1#8).toNat * 65536))) ∧
          (∀ q, (s.thread q).tag = ⟨BitVec.ofNat 12 c, inc⟩ → (s.layer (q / 256)).power = .awake → (t.thread q).resident = false) ∧
          ∀ q, q ≠ i.src → (s.thread q).shadow = false → (s.thread q).tag ≠ ⟨BitVec.ofNat 12 c, inc⟩ →
            (∀ e, e ∈ s.threads → e.1 = q → ∀ r, r ∈ e.2.pairs → r.2 ≠ ⟨BitVec.ofNat 12 c, inc⟩) →
            (t.thread q).calm = { s.thread q with flipped := (t.thread q).flipped }.calm) ∧
    (l < 8 → (s.layer l).power = .fenced → s.fencePending l = true → exec (.layerRestart l) s = .next s) ∧
    (l < 8 → (s.layer l).power = .fenced → s.fencePending l = false → Does (.layerRestart l) s fun t =>
      (t.layer l).power = .waking 6 ∧ (t.layer l).inc = s.mirrorInc ∧ (∀ a, layerOfKey a ≠ l → t.peek a = s.peek a) ∧ threads t ∧
        ∃ j, j ∈ t.bdQueue ∧ j.op = .wake l) ∧
    (l < 8 → (s.layer l).power = .fenced → exec (.layerFence l) s = .next s)

/-- R344, R352, R355, R361, R362, R364, R365, R367 to R369, R392 to R394: errors are counted, retire a line or poison it; histograms; power and
temperature move an island's point; a cut's round closes it, a granule is sent and persists, and the last one makes the cut durable.  An
event that is not due changes nothing (log 75); an error of STRUCT 14 that only a Belay pair meets is log 94. -/
def Obligations.EventsOfCareAndCuts : Prop :=
  ∀ (s : State) (st l i w c g k : Nat) (dirty : Bool) (f : Drain), l < 8 →
    let same := fun (t : State) => ∀ a, t.peek a = s.peek a
    let threads := fun (t : State) => ∀ q, t.thread q = s.thread q
    let reached := (s.threshold st).toNat % 2 ^ 32 ≤ s.recent st l i
    let pt := Table.at 0 s.basecamp.points i
    let MovesAt := fun (a p : Nat) (t : State) => Table.at 0 t.basecamp.points a = p ∧ t.basecamp.moving.contains a = true ∧
      (∀ j, j ≠ a → Table.at 0 t.basecamp.points j = Table.at 0 s.basecamp.points j) ∧ same t ∧ threads t
    let Moves := MovesAt i
    let Stays := fun (t : State) => t.basecamp.points = s.basecamp.points ∧ t.basecamp.moving = s.basecamp.moving ∧ same t ∧ threads t
    let low := i < 128 ∧ pt < 7
    let lowers := fun (a : Nat) => a < 128 ∧ Table.at 0 s.basecamp.points a < 7
    let u := (s.unitOf st l i).1
    let image := ∃ l, l < 8 ∧ s.cairn.lmask.getLsbD l = true ∧ (s.layer l).drained = []
    let at_ := (l * 2 ^ 48 + 16 * i) / 16
    let line := fun (x : Nat) => (l * 2 ^ 48 + 64 * i) / 16 ≤ x ∧ x < (l * 2 ^ 48 + 64 * i) / 16 + 4
    (st ≤ 13 → Does (.correctedError st l i) s fun t => same t ∧ threads t ∧
      t.basecamp.errors = s.basecamp.errors ++ [(errorKey st l i, s.slot)] ∧
      (t.layer l).retired = (s.layer l).retired ++ if standing st = true ∧ reached ∧ s.hasSpare st l u i = true
        then [(st, if st < 9 then wayKey u (setOfLine st l i) else i)] else []) ∧
    (st ≤ 13 → Does (.uncorrectableError st l i dirty) s fun t =>
      (st = 0 ∨ st = 4 → same t ∧ threads t ∧ (st = 0 → ∀ x, x ∈ t.l1i ↔ x ∈ s.l1i ∧ ¬ (x.core = 128 * l + u ∧ x.va / 64 = i)) ∧
        (st = 4 → t.rdc = match s.rdc.find? fun x => x.cl == 16 * l + u && x.va / 64 == i with | some x => s.rdc.erase x | none => s.rdc)) ∧
      (st = 1 → same t ∧ threads t ∧ ∀ x, line x → (Table.find s.l1d x).isSome = true → x ∈ t.poison) ∧
      (st = 2 → same t ∧ threads t ∧ ∀ x, line x → (Table.find s.hs x).isSome = true →
        if (Table.find s.l1d x).isSome then x ∈ t.hsPoison else x ∈ t.poison) ∧
      (st = 3 ∨ st = 5 ∧ dirty = true → (t.layer l).power = .fenced) ∧
      (st = 5 ∧ dirty = false → same t ∧ threads t ∧ ∀ x, x ∈ t.tlb ↔ x ∈ s.tlb ∧ ¬ (x.layer = l ∧ x.base / 4096 = i)) ∧
      (st = 7 → same t ∧ i % 16 ∈ (t.thread (256 * l + i / 16 % 256)).poisoned) ∧
      (st = 6 ∧ dirty = true → same t ∧ poisonArray ∈ (t.thread (256 * l + i / 16 % 256)).poisoned) ∧
      (st = 9 → same t ∧ threads t ∧ (Table.find s.l1d at_ = none → Table.find s.hs at_ = none → at_ ∈ t.poison) ∧
        ((s.threshold 73).toNat % 2 ^ 32 ≤ s.recent 73 l i → s.hasSpare 9 l 0 i = true → (9, i) ∈ (t.layer l).retired)) ∧
      (st = 8 ∨ 10 ≤ st ∨ st = 6 ∧ dirty = false → same t ∧ threads t ∧ t.poison = s.poison)) ∧
    (st = 14 →
      let p := 256 * l + i % 256
      ((s.thread p).paired = true → Does (.uncorrectableError st l i dirty) s
        (ThreadBecomes p { s.thread p with shadowCrc := (s.thread p).shadowCrc ^^^ BitVec.ofNat 64 (i / 256) } s)) ∧
      ((s.thread p).paired = false → exec (.uncorrectableError st l i dirty) s = .next s)) ∧
    (13 < st → exec (.correctedError st l i) s = .next s) ∧ (14 < st → exec (.uncorrectableError st l i dirty) s = .next s) ∧
    Does .lifetimeHistogramWrite s (fun t => t.basecamp.flash = t.basecamp.hist ∧ t.basecamp.flashedAt = s.slot ∧ t = { s with basecamp := t.basecamp } ∧
      ((∀ k, k < 8 → (s.layer k).deferrals = 0 ∧ ∀ c, Table.at 0 (s.layer k).drops c = 0) →
        t.basecamp = { s.basecamp with flash := s.basecamp.hist, flashedAt := s.slot }) ∧
      ∀ k, k < 8 → (s.layer k).deferrals ≠ 0 → s.basecamp.records.length ≤ 248 → ∃ r, r ∈ t.basecamp.records ∧ r.struct = 17 ∧ r.place % 16 = k) ∧
    (i < 144 → s.basecamp.plimit < w → low → Does (.powerSample w i) s fun t => Moves (pt + 1) t ∧ t.basecamp.below = 0) ∧
    (i < 144 → s.basecamp.plimit < w → ¬ low → (∃ a, lowers a) → Does (.powerSample w i) s fun t =>
      t.basecamp.below = 0 ∧ ∃ a, lowers a ∧ MovesAt a (Table.at 0 s.basecamp.points a + 1) t) ∧
    (i < 144 → s.basecamp.plimit < w → (∀ a, ¬ lowers a) → Does (.powerSample w i) s fun t => Stays t ∧ t.basecamp.below = 0) ∧
    (i < 144 → 100 * w < 95 * s.basecamp.plimit → s.basecamp.below < 9 → Does (.powerSample w i) s fun t =>
      Stays t ∧ t.basecamp.below = s.basecamp.below + 1) ∧
    (i < 144 → 100 * w < 95 * s.basecamp.plimit → 9 ≤ s.basecamp.below → 0 < pt → (∀ e, e ∈ s.basecamp.points → e.2 ≤ pt) →
      Does (.powerSample w i) s (Moves (pt - 1))) ∧
    (let lowest := fun a => 0 < Table.at 0 s.basecamp.points a ∧ ∀ e, e ∈ s.basecamp.points → e.2 ≤ Table.at 0 s.basecamp.points a
     i < 144 → 100 * w < 95 * s.basecamp.plimit → 9 ≤ s.basecamp.below →
       ((∃ a, lowest a) → Does (.powerSample w i) s fun t => ∃ a, lowest a ∧ MovesAt a (Table.at 0 s.basecamp.points a - 1) t) ∧
       ((∀ a, ¬ lowest a) → Does (.powerSample w i) s Stays)) ∧
    (i < 144 → 95 * s.basecamp.plimit ≤ 100 * w → w ≤ s.basecamp.plimit → Does (.powerSample w i) s fun t => Stays t ∧ t.basecamp.below = 0) ∧
    (i < 144 → c < 100 → Does (.temperatureSample i c) s fun t => Stays t ∧ Table.at 0 t.basecamp.hot i = 0) ∧
    (low → 100 ≤ c → c < 115 → Does (.temperatureSample i c) s fun t => Moves (pt + 1) t ∧ Table.at 0 t.basecamp.hot i = 0) ∧
    (136 ≤ i → i < 144 → 115 ≤ c → Does (.temperatureSample i c) s fun t => t.devState = 3 ∧ t.startStep = 0 ∧ same t ∧ threads t) ∧
    (i / 16 = l → pt = 7 → 115 ≤ c → Table.at 0 s.basecamp.hot i = 9 → Does (.temperatureSample i c) s fun t => (t.layer l).power = .fenced) ∧
    (i < 144 → s.basecamp.moving.contains i = true → Does (.pointChangeComplete i) s fun t =>
      t = { s with basecamp := { s.basecamp with moving := s.basecamp.moving.filter (· != i) } }) ∧
    (s.basecamp.moving.contains i = false → i < 144 → exec (.pointChangeComplete i) s = .next s) ∧
    (let C := s.cairn
     let still := C.quiet = true
     (C.state = 2 → still → C.pod = false → image → Does .cutCloseRound s fun t => t.cairn.state = 3 ∧ same t ∧ threads t) ∧
     (C.state = 2 → ¬ still ∨ C.pod = true → Does .cutCloseRound s fun t =>
       t = { s with cairn := { C with rounds := C.rounds + 1, lastRound := some C.totals, met := C.quiet } }) ∧
     (C.state ≠ 2 → exec .cutCloseRound s = .next s ∧ exec .podClose s = .next s) ∧
     (C.state = 2 → C.pod = true → C.met = true → s.isRoot = false → image → Does .podClose s fun t =>
       t.cairn.state = 3 ∧ t.cairn.podClosed = true ∧ t.cairn.closedTo = s.children ∧ same t ∧ threads t) ∧
     (C.pod = false ∨ C.met = false ∨ s.isRoot = true → exec .podClose s = .next s) ∧
     (∀ x, k < 2 ^ 33 → ¬ C.active = true → Table.find s.hs ((l * 2 ^ 48 + 16 * k) / 16) = some x →
       x.colour = C.epoch ∨ Table.find s.l1d ((l * 2 ^ 48 + 16 * k) / 16) = none → Does (.controllerWrite l k) s fun t =>
       same t ∧ threads t ∧ Table.find t.hs ((l * 2 ^ 48 + 16 * k) / 16) = none ∧ t.hbmSector ((l * 2 ^ 48 + 16 * k) / 16) = x.data) ∧
     (2 ^ 33 ≤ k → exec (.controllerWrite l k) s = .fault .noSuchPlace) ∧
     (C.state = 3 → s.nextGranule = some (l, g) → Does .drainSend s fun t => same t ∧ threads t ∧ t.cairn.seq = C.seq + 1 ∧
       ∃ d, t.cairn.flying = C.flying ++ [d] ∧ d.endpoint = s.basecamp.drain ∧ d.layer = l ∧ d.granule = g ∧ d.seq = C.seq ∧
         d.data = match Table.find (s.layer l).staged g with
           | some copy => copy.data
           | none => BitVec.ofNat 32768 (valOf (Memory.readBytes s.hbm (l * 2 ^ 48 + 4096 * g) 4096))) ∧
     (C.state = 3 → C.flying = [f] → f.layer = l → (∃ j, j < 8 ∧ j ≠ l ∧ C.lmask.getLsbD j = true ∧ (s.layer j).drained = []) →
       Does (.drainCompletion f.seq 2) s fun t => (∀ a, ¬ InStaging s a → t.peek a = s.peek a) ∧ threads t ∧
         (match Table.find (s.layer l).staged f.granule with
          | some y => t.hbm = Memory.writeBytes s.hbm (l * 2 ^ 48 + (C.stagingBase + 2 ^ 26 + 4096 * y.slot)) (bytesOf 4096 y.data.toNat)
          | none => t.hbm = s.hbm) ∧ t.cairn.state = 3 ∧ t.cairn.flying = [] ∧
         f.granule ∈ (t.layer l).drained ∧ Table.find (t.layer l).staged f.granule = none) ∧
     (C.state = 3 → C.flying = [f] → st ≠ 2 → Does (.drainCompletion f.seq st) s fun t =>
       t.cairn.state = 5 ∧ t.cairn.epoch = !C.epoch ∧ t.cairn.flying = [] ∧ (∀ a, ¬ InStaging s a → t.peek a = s.peek a) ∧
         ∀ j, j < 8 → (t.layer j).staged = [] ∧ (t.layer j).drained = []))

/-- R301, R355, R371 to R375, R380 to R383, R390, R391: the host's doorbell, starts and accesses: REQTAIL makes 0x16 pending at the RPC thread; a
start begins at step 1 and a second one is refused; inbound writes go where their window entry says, or count in BADWR; a
read completes with the data, or as Unsupported Request as an AtomicOp does.  An event that is not due changes nothing (log 75). -/
def Obligations.EventsOfTheHost : Prop :=
  ∀ (s : State) (v : Word) (off size l : Nat) (keep : Bool) (data : List Byte),
    let same := fun (t : State) => ∀ a, t.peek a = s.peek a
    let threads := fun (t : State) => ∀ q, t.thread q = s.thread q
    let tail := s.mail 0x8000 4
    let R := s.thread 2
    let E : BitVec 128 := BitVec.ofNat 128 (s.mail (0x100000 + 16 * (off / 2 ^ 21)) 16)
    let at_ := l * 2 ^ 48 + ((E.extractLsb' 21 27).toNat * 2 ^ 21 + off % 2 ^ 21)
    let fits := 0 < data.length ∧ off + data.length ≤ 2 ^ 36 ∧ off % 4096 + data.length ≤ 4096
    let open_ := E.getLsbD 0 = true ∧ E.getLsbD 2 = true
    let inHbm := (E.extractLsb' 21 27).toNat * 2 ^ 21 + off % 2 ^ 21 + data.length ≤ 0x2000000000
    let reads := 0 < size ∧ off + size ≤ 2 ^ 36 ∧ off % 4096 + size ≤ 4096
    let readable := E.getLsbD 0 = true ∧ E.getLsbD 1 = true ∧
      (E.extractLsb' 21 27).toNat * 2 ^ 21 + off % 2 ^ 21 + size ≤ 0x2000000000
    let flag := E.getLsbD 3 = true ∧ (data.length = 4 ∨ data.length = 8) ∧ off % data.length = 0 ∧ off % 128 + data.length ≤ 8
    let Begun := fun (cold kept : Bool) (t : State) => t.devState = 1 ∧ t.startStep = 1 ∧ t.cold = cold ∧ t.keep = kept ∧
      t.refused = s.refused ∧ t.kept = (s.kept && !cold) ∧ (∀ q, t.thread q = Thread.reset) ∧ t.hbm = s.hbm ∧ t.l1d = [] ∧ t.hs = [] ∧ t.tlb = [] ∧ t.rdc = [] ∧ t.packets = [] ∧ t.copies = [] ∧
      t.bd = s.bd ∧ t.isig = s.isig ∧ t.outbound = s.outbound ∧ t.hostReads = s.hostReads ∧ t.msix = s.msix ∧ t.rope = [] ∧ ∀ k, k < 8 → (t.layer k).inc = [] ∧ (t.layer k).power = .awake
    let refusedRead : Out := .next { s with hostReads := s.hostReads ++ [none] }
    let devRead := fun (t : State) => t = { s with refused := false, hostReads := s.hostReads ++ [some (s.bdReads 0x8020 8, false)] }
    (v.toNat % 2 ^ 32 = tail → Does (.hostReqtailWrite v) s fun t => threads t ∧ t.mail 0x8000 4 = tail ∧ same t) ∧
    (v.toNat % 2 ^ 32 ≠ tail → Does (.hostReqtailWrite v) s fun t => t.mail 0x8000 4 = v.toNat % 2 ^ 32 ∧ same t ∧
      (∀ q, q ≠ 2 → t.thread q = s.thread q) ∧ ∃ i, t.thread 2 = { R with irq16 := some i } ∧ i.host = (match R.irq16 with | some j => j.host | none => true) ∧
        i.count = (match R.irq16 with | some j => j.count + 1 | none => 1) ∧ i.rpcs = (match R.irq16 with | some j => j.rpcs + 1 | none => 1)) ∧
    (s.devState = 1 → exec .startCold s = .next { s with refused := true } ∧ exec (.startWarm keep) s = .next { s with refused := true }) ∧
    (s.devState ≠ 1 → Does .startCold s (Begun true false) ∧
      Does (.startWarm keep) s (if keep = true ∧ s.basecamp.trained = false then Begun true false else Begun false keep)) ∧
    Does .packageReset s (fun t => t.threads = [] ∧ t.hbm = [] ∧ t.l1d = [] ∧ t.hs = [] ∧ t.rope = [] ∧ t.bd = [] ∧ t.packets = [] ∧
      t.layers = [] ∧ t.clusters = [] ∧ t.cores = [] ∧ t.devState = 1 ∧ t.startStep = 1 ∧ t.cold = true ∧ t.slot = 0 ∧ t.cairn = Cairn.reset ∧
      t.basecamp.flash = s.basecamp.flash ∧ t.basecamp.hist = s.basecamp.flash ∧ t.basecamp.plimit = 4200) ∧
    (fits → ¬ open_ → Does (.hostInboundWrite off data) s fun t => same t ∧ threads t ∧
      t.mail 0x8038 8 = min (s.mail 0x8038 8 + 1) (2 ^ 64 - 1)) ∧
    (fits → open_ → inHbm → l = (E.extractLsb' 9 3).toNat → s.isAsleep l = false → s.isFenced l = false → ¬ flag →
      Does (.hostInboundWrite off data) s fun t => t.peekBytes at_ data.length = data ∧ threads t ∧ t.bd = s.bd ∧
        (∀ a, a < at_ ∨ at_ + data.length ≤ a → t.peek a = s.peek a) ∧
        ((E.extractLsb' 64 56).toNat = 0 → t.isig = s.isig)) ∧
    (fits → open_ → inHbm → l = (E.extractLsb' 9 3).toNat → s.isAsleep l = false → s.isFenced l = false → flag →
      Does (.hostInboundWrite off data) s fun t => t.isig = 0#512 ∧ threads t ∧
        t.peekNat (at_ / 128 * 128) 128 =
          (releaseObj (BitVec.ofNat 1024 (s.peekNat (at_ / 128 * 128) 128)) s.isig data.length (valOf data)).toNat ∧
        ∀ a, a < at_ / 128 * 128 ∨ at_ / 128 * 128 + 128 ≤ a → t.peek a = s.peek a) ∧
    (fits → open_ → inHbm → s.isFenced (E.extractLsb' 9 3).toNat = true → exec (.hostInboundWrite off data) s = .next s) ∧
    (open_ → ¬ inHbm → exec (.hostInboundWrite off data) s = .fault .noSuchPlace) ∧
    (reads → ¬ readable → exec (.hostInboundRead off size) s = refusedRead) ∧
    (reads → readable → l = (E.extractLsb' 9 3).toNat → s.isFenced l = false → (s.layer l).power ≠ .asleep → exec (.hostInboundRead off size) s =
      .next { s with hostReads := s.hostReads ++ [some (s.peekBytes at_ size, s.isPoisoned at_ size)] }) ∧
    (reads → readable → l = (E.extractLsb' 9 3).toNat → (s.layer l).power = .asleep → Does (.hostInboundRead off size) s fun t =>
      (t.layer l).power = .waking 1 ∧ same t ∧ threads t ∧
        t.hostReads = s.hostReads ++ [some (s.peekBytes at_ size, s.isPoisoned at_ size)]) ∧
    (¬ reads → exec (.hostInboundRead off size) s = .next s) ∧
    (size ≠ 4 ∧ size ≠ 8 ∨ off % size ≠ 0 ∨ 0x10000 < off + size → ∀ w, exec (.hostBar0Access off size w v) s = refusedRead) ∧
    ((size = 4 ∨ size = 8) ∧ off % size = 0 ∧ off + size ≤ 0x10000 → Does (.hostBar0Access off size false v) s fun t =>
      t = { s with refused := t.refused, hostReads := s.hostReads ++ [some (s.bdReads off size, false)] } ∧
        (off + size ≤ 0x8020 ∨ 0x8028 ≤ off → t.refused = s.refused)) ∧
    (off % 8 = 0 → off + 8 ≤ 0x8000 → Does (.hostBar0Access off 8 true v) s fun t =>
      t.mail off 8 = v.toNat ∧ threads t ∧ same t ∧ ∀ o, o < off ∨ off + 8 ≤ o → t.bdRead o = s.bdRead o) ∧
    Does (.hostBar0Access 0x8020 8 false v) s devRead ∧ Does .hostDevstateRead s devRead ∧ exec .hostInboundAtomicop s = refusedRead

/-- R22, R255, R313, R324, R326, R353, R355, R375 to R378, R391: the device kernel answers a request of the host: STATUS and results in the
response, the counters, and MSI-X vector 0; Basecamp performs a command, and a ring command gets its reply.  An event that is not due
changes nothing (log 75). -/
def Obligations.EventsOfRequestsAndCommands : Prop :=
  ∀ (s : State) (op p t i u bin l frame : Nat) (c : BitVec 12) (sp tp v : Word) (mask : BitVec 8) (f : List Byte),
    let same := fun (z : State) => ∀ a, z.peek a = s.peek a
    let threads := fun (z : State) => ∀ q, z.thread q = s.thread q
    let posted := s.devState = 2 ∧ s.rpcItem = none ∧ s.mail 0x8000 4 ≠ s.mail 0x8008 4
    let entry := 256 * (s.mail 0x8008 4 % 64)
    let A := fun (k : Nat) => s.mail (entry + 8 + 8 * k) 8
    let asks := fun (op : Nat) => posted ∧ s.mail entry 4 = op
    let at_ := 0x4000 + 256 * (s.mail 0x8010 4 % 64)
    let Answers := fun (status : Nat) (z : State) => z.mail (at_ + 4) 4 = status ∧ z.mail at_ 4 = s.mail (entry + 4) 4 ∧
      z.mail 0x8008 4 = (s.mail 0x8008 4 + 1) % 2 ^ 32 ∧ z.mail 0x8010 4 = (s.mail 0x8010 4 + 1) % 2 ^ 32 ∧ z.msix = s.msix ++ [0]
    let result := fun (z : State) (k : Nat) => z.mail (at_ + 8 + 8 * k) 8
    let inSet := fun (c l : Nat) => l < 8 ∧ (Table.at 0#8 s.basecamp.layerSets c).getLsbD l = true
    let free := fun (p : Nat) => (s.thread p).resident = false ∧ (s.thread p).shadow = false ∧ s.isFenced (p / 256) = false
    let idle := s.mail 0xC000 4 = s.mail 0xC008 4
    let still := s.copies.any (fun k => k.form == 2) = false
    let inc := (s.mirrorEntry (A 0)).cur
    let Mails := fun (st : Nat) (q : Word) (b : Basecamp) (z : State) => ∃ n,
      z = { s with free := s.free + 1, basecamp := { b with mctp := b.mctp ++ [entryBytes n st [q]] } }
    let words := t < 2 ^ 64 ∧ i < 2 ^ 64 ∧ u < 2 ^ 64 ∧ bin < 2 ^ 64 ∧ l < 2 ^ 64
    (asks 1 → c ≠ 0#12 → Table.find s.basecamp.layerSets c.toNat = none → (A 0 = 0 ∨ 256 ≤ A 0 ∨ 2 ≤ A 1) →
      Does (.rpcCreateContext c) s fun z => Answers 0x51 z ∧ same z) ∧
    (asks 1 → c ≠ 0#12 → Table.find s.basecamp.layerSets c.toNat = none → 0 < A 0 → A 0 < 256 → A 1 < 2 →
      Does (.rpcCreateContext c) s fun z => Answers 0 z ∧ threads z ∧ result z 0 = c.toNat ∧ result z 1 = (s.mirrorEntry c.toNat).cur.toNat ∧
        (Table.at 0#8 z.basecamp.layerSets c.toNat).toNat = A 0 ∧
        ∀ l, l < 8 → (A 0).testBit l = true → z.peekNat (l * 2 ^ 48 + 32 * c.toNat) 24 = 0 ∧
          z.peekNat (l * 2 ^ 48 + 32 * c.toNat + 24) 8 = 1 + 2 * A 1) ∧
    (¬ posted → exec (.rpcCreateContext c) s = .next s) ∧
    (asks 2 → frame % 4096 = 0 → (4096 ≤ A 0 ∨ (∀ l, ¬ inSet (A 0) l) ∨ 2 ^ 36 < A 1 + A 2) →
      Does (.rpcLoadCodeObject frame) s fun z => Answers 0x51 z ∧ same z ∧ threads z) ∧
    (asks 2 → frame % 4096 = 0 → A 0 < 4096 → inSet (A 0) l → A 1 + A 2 ≤ 2 ^ 36 → s.windowBytes (A 1) (A 2) = some f →
      (f.length < 64 → s.loadStatus (A 0) f = 0x40) ∧ Does (.rpcLoadCodeObject frame) s fun z => threads z ∧
        (s.loadStatus (A 0) f ≠ 0 → Answers (s.loadStatus (A 0) f) z ∧ same z) ∧
        (s.loadStatus (A 0) f = 0 → (∀ g, g ∈ segments f → dieOf g.va ≠ 14) → Answers 0 z) ∧
        (s.loadStatus (A 0) f = 0 → (∃ g, g ∈ segments f ∧ dieOf g.va = 14 ∧ 0 < g.size) →
          z.bd = s.bd ∧ ∃ n, z.rpcItem = some (n, none) ∧ ∃ j, j ∈ Table.at [] (z.layer 0).queue 0 ∧ j.id = n ∧ j.op = .rst)) ∧
    (asks 3 → (4096 ≤ A 0 ∨ ¬ inSet (A 0) (A 2)) → Does (.rpcCreateThread p sp tp) s fun z => Answers 0x51 z ∧ threads z ∧ same z) ∧
    (asks 3 → A 0 < 4096 → inSet (A 0) (A 2) → (∀ k, k < 256 → ¬ free (256 * A 2 + k)) →
      Does (.rpcCreateThread p sp tp) s fun z => Answers 0x52 z ∧ threads z ∧ same z) ∧
    (asks 3 → A 0 < 4096 → inSet (A 0) (A 2) → p / 256 = A 2 → free p → (s.layer (A 2)).power = .awake → sp.toNat % 64 = 0 → Does (.rpcCreateThread p sp tp) s fun z =>
      Answers 0 z ∧ same z ∧ (∀ q, q ≠ p → z.thread q = s.thread q) ∧ (z.thread p).resident = true ∧
        (z.thread p).pc = BitVec.ofNat 64 (A 1 / 2 * 2) ∧ (z.thread p).tag = ⟨BitVec.ofNat 12 (A 0), inc⟩ ∧
        (z.thread p).status = (if (s.peekNat (A 2 * 2 ^ 48 + 32 * A 0 + 24) 8).testBit 1 then 0x80A#64 else 0xA#64) ∧
        (∀ r : Reg, (z.thread p).rx r = if r = 2#5 then sp else if r = 3#5 then tp
          else if 10 ≤ r.toNat ∧ r.toNat < 18 then BitVec.ofNat 64 (A (r.toNat - 7)) else 0#64) ∧
        result z 0 = (s.basecamp.pkg.toNat * 2 ^ 16 + p) % 2 ^ 64) ∧
    (asks 4 → 4096 ≤ A 0 → Does .rpcEndContext s fun z => Answers 0x51 z ∧ same z ∧ threads z) ∧
    (asks 4 → A 0 < 4096 → Does .rpcEndContext s fun z => z.rpcItem = some (s.nextId, none) ∧ z.bd = s.bd ∧ same z ∧ threads z ∧
      ∃ j, Table.at [] (z.layer 0).queue 0 = Table.at [] (s.layer 0).queue 0 ++ [j] ∧ j.op = .kill ∧ j.id = s.nextId ∧ j.val.toNat = A 0) ∧
    (∀ n r, s.rpcItem = some (n, some r) → s.mail entry 4 = 4 → ∃ z, s.rpcGo = some z ∧ z.rpcItem = none ∧ same z ∧ threads z ∧
      (r % 256 = 0 → Answers 0 z ∧ result z 0 = r / 256 % 256 ∧ result z 1 = r / 65536 % 256) ∧ (r % 256 = 1 → Answers 0x52 z) ∧
      (1 < r % 256 → Answers 0x51 z)) ∧
    (asks 5 → (16 ≤ A 0 ∨ 2048 < A 1 + A 2 ∨ A 3 % 16 ≠ 0) → Does .rpcMapWindow s fun z => Answers 0x51 z ∧ same z ∧ threads z) ∧
    (asks 5 → A 0 < 16 → A 1 ≤ 2048 → A 2 = 0 → A 3 % 16 = 0 → Does .rpcMapWindow s fun z => Answers 0 z ∧ same z ∧ threads z) ∧
    (∀ z0, asks 5 → A 0 < 16 → A 1 + A 2 ≤ 2048 → A 3 % 16 = 0 → s.mapEntries (0x100000 + 16 * (2048 * A 0 + A 1)) (BitVec.ofNat 64 (A 3)) (A 2) = some z0 →
      Does .rpcMapWindow s fun z => z = z0.respondRpc 0 []) ∧
    (∀ ks mt, asks 5 → A 0 < 16 → A 1 < 2048 → A 2 = 1 → A 3 % 16 = 0 → s.cur = 2 → s.th.tag = Tag.zero → s.th.sv = true →
      (s.layer 0).power = .awake → Maps s .load (BitVec.ofNat 64 (A 3)) ks mt → Does .rpcMapWindow s fun z => Answers 0 z ∧ same z ∧ threads z ∧
        ∀ o, o < 16 → let at_ := 0x100000 + 16 * (2048 * A 0 + A 1) + o
          Memory.read z.bd at_ = (Memory.read s.bd at_ &&& ~~~ bdMask at_) ||| (s.peek (ks + o) &&& bdMask at_)) ∧
    (asks 6 → s.cairn.active = false → A 1 / 2 ^ 38 % 2 = 0 → (s.thread 2).step.toNat < A 0 → Does .rpcArmSnapshot s fun z =>
      Answers 0 z ∧ result z 0 = 0 ∧ same z ∧ (∀ q, z.thread q = { s.thread q with flipped := false }) ∧ z.cairn.s.toNat = A 0 ∧
        z.cairn.ctx.toNat = A 1 / 2 ^ 52 % 2 ^ 12 ∧ z.cairn.lmask.toNat = A 1 / 2 ^ 44 % 2 ^ 8 ∧ z.cairn.stage.toNat = A 1 / 2 ^ 40 % 2 ^ 4 ∧
        z.cairn.pod = (A 1).testBit 39 ∧ z.cairn.nmember = min (A 1 / 2 ^ 22 % 2 ^ 12) 2048 ∧ z.cairn.flips = 0 ∧
        z.cairn.state = if z.cairn.nmember = 0 then 2 else 1) ∧
    (asks 6 → s.cairn.active = false → A 1 / 2 ^ 38 % 2 = 0 → A 0 ≤ (s.thread 2).step.toNat →
      Does .rpcArmSnapshot s fun z => Answers 0 z ∧ result z 0 = 2 ∧ same z ∧ threads z) ∧
    (asks 6 → (s.cairn.state = 1 ∨ s.cairn.state = 2 ∨ s.cairn.state = 3) → A 1 / 2 ^ 38 % 2 = 0 →
      Does .rpcArmSnapshot s fun z => Answers 0 z ∧ result z 0 = 1 ∧ same z ∧ threads z) ∧
    (asks op → (op = 0 ∨ 8 ≤ op) → Does .rpcManagement s fun z => Answers 0x50 z ∧ same z ∧ threads z) ∧
    (asks 7 → idle → s.mail 0xC010 4 = s.mail 0xC018 4 → A 0 % 2 ^ 32 ≠ 5 → A 0 % 2 ^ 32 ≠ 6 ∨ still → Does .rpcManagement s (Answers 0)) ∧
    (idle → words → Does (.readTableEntry t i) s (Mails (s.tableEntry t i).1 (s.tableEntry t i).2 s.basecamp)) ∧
    (idle → words → Does (.readDropCounts l i) s (if l < 8 ∧ i < 5 then Mails 0 (BitVec.ofNat 64 (Table.at 0 (s.layer l).drops i)) s.basecamp
      else Mails 2 0#64 s.basecamp)) ∧
    (idle → words → bin < 8 → Does (.readLifetimeCounter 3 i bin) s
      (Mails 0 (BitVec.ofNat 64 (Table.at 0 s.basecamp.hist (histKey 3 0 bin))) s.basecamp)) ∧
    (idle → words → 3 < u → Does (.readLifetimeCounter u i bin) s (Mails 2 0#64 s.basecamp)) ∧
    (s.ringHas 1 [1#64, 0#64] = true → s.basecamp.plimit < 2 ^ 64 → Does (.readTableEntry 1 0) s fun z => same z ∧ threads z ∧
      z.mail (0xD100 + 256 * (s.mail 0xC010 4 % 16) + 4) 4 = 0 ∧
        z.mail (0xD100 + 256 * (s.mail 0xC010 4 % 16) + 8) 8 = s.basecamp.plimit ∧
        z.mail 0xC008 4 = (s.mail 0xC008 4 + 1) % 2 ^ 32 ∧ z.mail 0xC010 4 = (s.mail 0xC010 4 + 1) % 2 ^ 32) ∧
    (idle → 2000 ≤ v.toNat → v.toNat ≤ 4200 → Does (.writeTableEntry 1 0 v) s
      (Mails 0 0#64 { s.basecamp with plimit := v.toNat })) ∧
    (idle → (v.toNat < 2000 ∨ 4200 < v.toNat) → Does (.writeTableEntry 1 0 v) s (Mails 2 0#64 s.basecamp)) ∧
    (idle → s.devState = 1 → Does (.basecampStart v) s fun z => ∃ n, z = { s with
      refused := true, free := s.free + 1, basecamp := { s.basecamp with mctp := s.basecamp.mctp ++ [entryBytes n 3 [0#64]] } }) ∧
    (idle → s.devState ≠ 1 → Does (.basecampStart v) s fun z => z.devState = 1 ∧ z.startStep = 1 ∧ (∀ q, z.thread q = Thread.reset) ∧
      z.hbm = s.hbm ∧ (v.getLsbD 0 = false → z.cold = true)) ∧
    (s.copies.any (fun k => k.form == 2) = true → exec (.sleepLayer l) s = .next s) ∧
    (idle → still → l < 8 → (s.layer l).power = .awake → s.quiescent l = true → Does (.sleepLayer l) s fun z => same z ∧ threads z ∧
      ∃ j, Table.at [] (z.layer l).queue 0 = Table.at [] (s.layer l).queue 0 ++ [j] ∧ j.op = .sleep l) ∧
    (idle → still → l < 8 → s.quiescent l = false → Does (.sleepLayer l) s (Mails 3 0#64 s.basecamp)) ∧
    (idle → l < 8 → (s.layer l).power = .asleep → Does (.wakeLayer l) s fun z => same z ∧ threads z ∧ (z.layer l).power = .waking 1) ∧
    (idle → l < 8 → (s.layer l).power ≠ .asleep → Does (.wakeLayer l) s (Mails 3 0#64 s.basecamp)) ∧
    (idle → i < 64 → v.toNat < 64 → (v.toNat % 16 = 8 ∨ v.toNat % 16 = 15) → s.slotAccepts 8 i v = true → Does (.writeBdSlot i v) s fun z =>
      same z ∧ threads z ∧ ∀ k, z.slotEntry 8 k = if k = i then v else s.slotEntry 8 k) ∧
    (idle → i < 64 → 64 ≤ v.toNat → Does (.writeBdSlot i v) s (Mails 2 0#64 s.basecamp)) ∧
    (idle → i < 4096 → Does (.registerLayerSet i mask) s
      (Mails 0 0#64 { s.basecamp with layerSets := Table.put s.basecamp.layerSets i mask }))

/-! ### Encoding and decoding -/

/-- R34 to R61: every well-formed instruction that a program encodes is read back from its bytes, with all its operands, and the bytes after
it are left. -/
def Obligations.EncodeThenDecode : Prop :=
  ∀ i : Instr, i.wf = true → encode i ≠ .event → ∀ rest, decode ((encode i).bytes ++ rest) = .ok (i, rest)

/-- R45: a word or halfword that the decoder accepts is the encoding of the instruction it gives: no bit of it is ignored, and no reserved
field is other than 0. -/
def Obligations.DecodeThenEncode : Prop :=
  (∀ (w : BitVec 32) (i : Instr), w.getLsbD 0 = true → decodeWord w = some i → i.wf = true ∧ encode i = .word w) ∧
    ∀ (h : BitVec 16) (i : Instr), h.getLsbD 0 = false → decodeHalf h = some i → encode i = .half h

/-- R35 to R61: words of the spec's own worked encodings, one or more of each family, and encodings that are no instruction. -/
def Obligations.WorkedEncodings : Prop :=
  decodeWord 0x000E6281#32 = some (.add 5#5 6#5 7#5) ∧ decodeWord 0x0BFC7383#32 = some (.srai 7#5 7#5 63#6) ∧
    decodeWord 0x2018B509#32 = some (.div 10#5 11#5 12#5) ∧ decodeWord 0x018C5411#32 = some (.bltu 5#5 6#5 8#12) ∧
    decodeWord 0x02862099#32 = some (.fadd 1#2 2#3 1#5 2#5 3#5) ∧ decodeWord 0xFE928E23#32 = some (.stI32 8#5 9#5 0xFFC#12) ∧
    decodeWord 0x0618B529#32 = some (.amoadd 1#1 10#5 11#5 12#5) ∧ decodeWord 0x044C5233#32 = some (.vfadd 2#2 1#3 4#5 5#5 6#5) ∧
    decodeWord 0x0016A141#32 = some (.tld 2#3 10#5 11#5) ∧ decodeWord 0x22405147#32 = some (.tmma 1#1 9#4 2#2 5#3) ∧
    decodeWord 0x1358B551#32 = some (.cpy 2#3 10#5 11#5 12#5 13#5) ∧ decodeWord 0x410002DB#32 = some (.csrr 5#5 0x410#12) ∧
    decodeHalf 0x0D4A#16 = some (.hLds 10#5 3#6) ∧ decodeHalf 0x4920#16 = some (.hVfaddF32 4#5 9#5) ∧
    decodeWord 0x0000004D#32 = none ∧ decodeHalf 0x0000#16 = none ∧ decodeWord 0x004E6281#32 = none

/-! ### Steps, reset, and what every step keeps -/

/-- R34, R94, R295: a step fetches the bytes at pc, from the HS, and runs exactly the instruction that they decode to; bytes that are no
instruction raise 0x05; after an instruction the hardware goes on by one cc and the next thread has its turn; an event of the agenda, a
start step and a pending interrupt come first.  The order of these and the turn of the next thread are the model's choice (log 1). -/
def Obligations.StepRunsTheDecodedInstruction : Prop :=
  ∀ (s s' : State) (w : Fetched) (i e : Instr) (r : List Instr) (rest : List Byte) (key mt : Nat),
    let ready := s.agenda = [] ∧ s.devState = 2 ∧ s.stalls = false ∧ s.th.runnable = true ∧ s.th.takesInterrupt = false ∧ s.th.exchangeDue = false
    let B := fun (k : Nat) => sectorByte (s.hsSector (k / 16)) (k % 16)
    (ready → s.th.waiting = false → s.cur < 2048 → s.th.pc.toNat % 2 = 0 → key % 64 = s.th.pc.toNat % 64 → Maps s .fetch s.th.pc key mt →
      Maps s .fetch (s.th.pc + 2#64) (key + 2) mt → s.l1i = [] → s.poison = [] →
      decode [B key, B (key + 1), B (key + 2), B (key + 3)] = .ok (i, rest) →
      ∃ f t, t = { s with l1i := t.l1i, threads := t.threads } ∧ (∀ p, p ≠ s.cur → t.thread p = s.thread p) ∧
        t.th = { s.th with bits := some f } ∧ f.instr = some i ∧ step s = settle (exec i t)) ∧
    (ready → s.th.waiting = false → (s.setTh { s.th with bits := none }).fetch = .ok w s' →
      (w.instr = some i → step s = settle (exec i (s'.setTh { s'.th with bits := some w }))) ∧
      (w.instr = none → step s = .next (raise 0x05 w.bits 0#64 (s'.setTh { s'.th with bits := some w })).afterInstr)) ∧
    (ready → s.th.waiting = true → s.th.bits = some w → w.instr = some i → step s = settle (exec i s)) ∧
    (ready → s.th.waiting = true → s.th.bits = some w → w.instr = none → step s = .next (raise 0x05 w.bits 0#64 s).afterInstr) ∧
    (∀ t, settle (.next t) = .next t.syncBoth.progress.rotate) ∧ (∀ f, settle (.fault f) = .fault f) ∧ (∀ f, settle (.refused f) = .refused f) ∧
    (s.agenda = e :: r → step s = exec e { s with agenda := r }) ∧
    (s.agenda = [] → s.devState = 1 → step s = .next s.startSequence) ∧
    (s.agenda = [] → s.devState = 2 → s.stalls = false → s.th.runnable = true → s.th.takesInterrupt = true →
      step s = .next (s.interruptThread s.cur))

/-- R18, R19, R282, R312, R329, R374: the values that the spec gives for package reset.  The model's own choice (log 9): a byte of memory
that nothing has written reads 0 before the start sequence has cleared it. -/
def Obligations.ResetState : Prop :=
  let s := State.reset
  (∀ p, (s.thread p).resident = false ∧ (s.thread p).pc = 0#64 ∧ (s.thread p).status = 9#64 ∧ (s.thread p).prg = 0#7 ∧ (s.thread p).psig = 0#512 ∧
      (s.thread p).ors = 0 ∧ (s.thread p).lc0 = 0#32 ∧ (s.thread p).lc1 = 0#32 ∧ (s.thread p).wp0 = none ∧ (s.thread p).wp1 = none ∧
      (s.thread p).tag = ⟨0#12, 0#8⟩ ∧ (s.thread p).fcsr = 0#64 ∧ (s.thread p).region = 0#64 ∧
      (∀ r, (s.thread p).rx r = 0#64 ∧ (s.thread p).rf r = 0#64 ∧ (s.thread p).rv r = 0#512) ∧
      (∀ r, (s.thread p).rk r = if r = 0#3 then BitVec.allOnes 64 else 0#64) ∧ (∀ g, (s.thread p).cgOf g = 0#7) ∧
      (∀ n r, (s.thread p).row n r = 0#512) ∧ ∀ n r, (s.thread p).arow n r = 0#2048) ∧
    (∀ c, (s.cluster c).engweight = 0x11111111#32) ∧ (∀ l n, s.bardesc l n = 0#64) ∧ (∀ l c, s.incOf l c = ⟨0#8, false⟩) ∧
    (∀ l n, n < 64 → (slotTx (s.slotEntry l n) = if n < 56 then n % 8 else if n < 58 then 8 else 15) ∧
      slotClass (s.slotEntry l n) = if n < 56 then n / 16 else 0) ∧
    (∀ a, s.peek a = 0#8 ∧ Memory.read s.rope a = 0#8 ∧ Memory.read s.bd a = 0#8) ∧ s.devState = 1 ∧ s.startStep = 1 ∧ s.cairn.state = 0

/-- Every memory of the reset state is in canonical form (the model's form of a memory, log 9). -/
def Obligations.ResetMemoriesAreCanonical : Prop := Canonical State.reset

/-- In every state whose memories are in canonical form (log 9), an instruction, an event of the agenda and a step of the hardware keep
them so. -/
def Obligations.StepKeepsMemoriesCanonical : Prop := ∀ s t : State, Canonical s → step s = .next t → Canonical t

end
end

