-- ==== Sys2Proof/Laws/Table.lean ====
section
/-!
SUPPORT. Laws of tables and of memory: reading after writing, and the canonical form, which every memory operation keeps.
-/

namespace Sys2Proof.Machine

/-! ### Reading after writing -/

theorem Table.at_put_same {α : Type} (d : α) (t : Table α) (j : Nat) (w : α) : Table.at d (Table.put t j w) j = w := by
  induction t with
  | nil => simp [Table.put, Table.at]
  | cons e r ih =>
    obtain ⟨k, v⟩ := e
    simp only [Table.put]
    split
    · simp [Table.at]
    · split
      · simp [Table.at]
      · simp [Table.at, *]

theorem Table.at_put_other {α : Type} (d : α) (t : Table α) (j i : Nat) (w : α) (h : i ≠ j) :
    Table.at d (Table.put t j w) i = Table.at d t i := by
  induction t with
  | nil => simp [Table.put, Table.at, h]
  | cons e r ih =>
    obtain ⟨k, v⟩ := e
    simp only [Table.put]
    split
    · simp [Table.at, h]
    · split
      · subst_vars; simp [Table.at, h]
      · simp only [Table.at, ih]

theorem Table.at_put {α : Type} (d : α) (t : Table α) (j i : Nat) (w : α) :
    Table.at d (Table.put t j w) i = if i = j then w else Table.at d t i := by
  split
  · subst_vars; exact Table.at_put_same d t _ w
  · exact Table.at_put_other d t j i w ‹_›

theorem Table.put_put {α : Type} (t : Table α) (j : Nat) (v w : α) : Table.put (Table.put t j v) j w = Table.put t j w := by
  induction t with
  | nil => simp [Table.put]
  | cons e r ih =>
    obtain ⟨k, u⟩ := e
    by_cases h1 : j < k
    · simp [Table.put, h1]
    · by_cases h2 : j = k
      · simp [Table.put, h2]
      · simp [Table.put, h1, h2, ih]

theorem Table.find_put_same {α : Type} (t : Table α) (j : Nat) (w : α) : Table.find (Table.put t j w) j = some w := by
  induction t with
  | nil => simp [Table.put, Table.find]
  | cons e r ih =>
    obtain ⟨k, v⟩ := e
    simp only [Table.put]
    split
    · simp [Table.find]
    · split
      · simp [Table.find]
      · simp [Table.find, *]

theorem Table.find_put_other {α : Type} (t : Table α) (j i : Nat) (w : α) (h : i ≠ j) :
    Table.find (Table.put t j w) i = Table.find t i := by
  induction t with
  | nil => simp [Table.put, Table.find, h]
  | cons e r ih =>
    obtain ⟨k, v⟩ := e
    simp only [Table.put]
    split
    · simp [Table.find, h]
    · split
      · subst_vars; simp [Table.find, h]
      · simp only [Table.find, ih]

theorem Table.at_find {α : Type} (d : α) (t : Table α) (j : Nat) : Table.at d t j = (Table.find t j).getD d := by
  induction t with
  | nil => rfl
  | cons e r ih =>
    obtain ⟨k, v⟩ := e
    simp only [Table.at, Table.find]
    split <;> simp [ih]

theorem Table.find_del_same {α : Type} (t : Table α) (j : Nat) : Table.find (Table.del t j) j = none := by
  induction t with
  | nil => rfl
  | cons e r ih =>
    obtain ⟨k, v⟩ := e
    simp only [Table.del] at ih ⊢
    by_cases h : k = j
    · simp [h, ih]
    · simp [h, Table.find, ih, Ne.symm h]

theorem Table.find_del_other {α : Type} (t : Table α) (j i : Nat) (h : i ≠ j) : Table.find (Table.del t j) i = Table.find t i := by
  induction t with
  | nil => rfl
  | cons e r ih =>
    obtain ⟨k, v⟩ := e
    simp only [Table.del] at ih ⊢
    by_cases hk : k = j
    · subst hk; simp [Table.find, ih, h]
    · simp [hk, Table.find, ih]

/-! ### The canonical form -/

/-- Every key of a table is above `j`. -/
def Table.above {α : Type} (j : Nat) (t : Table α) : Prop := ∀ e ∈ t, j < e.1

theorem Table.sorted_cons {α : Type} (e : Nat × α) (r : Table α) :
    Table.sorted (e :: r) = true ↔ Table.above e.1 r ∧ Table.sorted r = true := by
  induction r generalizing e with
  | nil => simp [Table.sorted, Table.above]
  | cons f r ih =>
    simp only [Table.sorted, Bool.and_eq_true, decide_eq_true_eq]
    constructor
    · rintro ⟨h1, h2⟩
      refine ⟨?_, h2⟩
      intro g hg
      rcases List.mem_cons.1 hg with rfl | hg
      · exact h1
      · exact Nat.lt_trans h1 (((ih f).1 h2).1 g hg)
    · rintro ⟨h1, h2⟩
      exact ⟨h1 f (List.mem_cons_self ..), h2⟩

theorem Table.mem_put {α : Type} (t : Table α) (j : Nat) (w : α) (e : Nat × α) (h : e ∈ Table.put t j w) :
    e = (j, w) ∨ e ∈ t := by
  induction t with
  | nil => simpa [Table.put] using h
  | cons f r ih =>
    obtain ⟨k, v⟩ := f
    simp only [Table.put] at h
    split at h
    · rcases List.mem_cons.1 h with h | h
      · exact .inl h
      · exact .inr h
    · split at h
      · rcases List.mem_cons.1 h with h | h
        · exact .inl h
        · exact .inr (List.mem_cons_of_mem _ h)
      · rcases List.mem_cons.1 h with h | h
        · exact .inr (h ▸ List.mem_cons_self ..)
        · exact (ih h).imp id (List.mem_cons_of_mem _)

theorem Table.sorted_put {α : Type} (t : Table α) (j : Nat) (w : α) (h : Table.sorted t = true) :
    Table.sorted (Table.put t j w) = true := by
  induction t with
  | nil => rfl
  | cons f r ih =>
    obtain ⟨k, v⟩ := f
    have hs := (Table.sorted_cons _ _).1 h
    simp only [Table.put]
    split
    · next hj =>
      refine (Table.sorted_cons _ _).2 ⟨?_, h⟩
      intro e he
      rcases List.mem_cons.1 he with rfl | he
      · exact hj
      · exact Nat.lt_trans hj (hs.1 e he)
    · split
      · next hj => subst hj; exact (Table.sorted_cons _ _).2 ⟨hs.1, hs.2⟩
      · next h1 h2 =>
        refine (Table.sorted_cons _ _).2 ⟨?_, ih hs.2⟩
        intro e he
        rcases Table.mem_put r j w e he with rfl | he
        · show k < j
          omega
        · exact hs.1 e he

theorem Table.sorted_filter {α : Type} (p : Nat × α → Bool) (t : Table α) (h : Table.sorted t = true) :
    Table.sorted (t.filter p) = true := by
  induction t with
  | nil => rfl
  | cons f r ih =>
    have hs := (Table.sorted_cons _ _).1 h
    by_cases hp : p f = true
    · rw [List.filter_cons_of_pos hp]
      exact (Table.sorted_cons _ _).2 ⟨fun e he => hs.1 e ((List.mem_filter.1 he).1), ih hs.2⟩
    · rw [List.filter_cons_of_neg hp]
      exact ih hs.2

theorem Memory.wf_iff (m : Memory) : Memory.wf m = true ↔ Table.sorted m = true ∧ ∀ e ∈ m, e.2 ≠ 0#8 := by
  simp [Memory.wf]

theorem Memory.wf_nil : Memory.wf [] = true := rfl

/-- A write keeps the canonical form. -/
theorem Memory.wf_write (m : Memory) (a : Nat) (b : Byte) (h : Memory.wf m = true) : Memory.wf (Memory.write m a b) = true := by
  rw [Memory.wf_iff] at h ⊢
  unfold Memory.write
  split
  · exact ⟨Table.sorted_filter _ _ h.1, fun e he => h.2 e ((List.mem_filter.1 he).1)⟩
  · next hb =>
    refine ⟨Table.sorted_put _ _ _ h.1, fun e he => ?_⟩
    rcases Table.mem_put m a b e he with rfl | he
    · exact hb
    · exact h.2 e he

theorem Memory.wf_writeBytes (m : Memory) (a : Nat) (bs : List Byte) (h : Memory.wf m = true) :
    Memory.wf (Memory.writeBytes m a bs) = true := by
  induction bs generalizing m a with
  | nil => exact h
  | cons b r ih => exact ih _ _ (Memory.wf_write m a b h)

theorem Memory.read_write_same (m : Memory) (a : Nat) (b : Byte) : Memory.read (Memory.write m a b) a = b := by
  unfold Memory.read Memory.write
  split
  · next hb => rw [Table.at_find, Table.find_del_same]; exact hb.symm
  · exact Table.at_put_same _ _ _ _

theorem Memory.read_write_other (m : Memory) (a j : Nat) (b : Byte) (h : j ≠ a) :
    Memory.read (Memory.write m a b) j = Memory.read m j := by
  unfold Memory.read Memory.write
  split
  · rw [Table.at_find, Table.find_del_other _ _ _ h, ← Table.at_find]
  · exact Table.at_put_other _ _ _ _ _ h

theorem Memory.read_writeBytes_other (m : Memory) (a j : Nat) (bs : List Byte) (h : j < a ∨ a + bs.length ≤ j) :
    Memory.read (Memory.writeBytes m a bs) j = Memory.read m j := by
  induction bs generalizing m a with
  | nil => rfl
  | cons b r ih =>
    simp only [List.length_cons] at h
    show Memory.read (Memory.writeBytes (Memory.write m a b) (a + 1) r) j = _
    rw [ih _ _ (by omega), Memory.read_write_other _ _ _ _ (by omega)]

theorem Memory.readBytes_length (m : Memory) (a n : Nat) : (Memory.readBytes m a n).length = n := by
  induction n generalizing a with
  | zero => rfl
  | succ n ih => simp [Memory.readBytes, ih]

theorem Memory.readBytes_writeBytes_same (m : Memory) (a : Nat) (bs : List Byte) :
    Memory.readBytes (Memory.writeBytes m a bs) a bs.length = bs := by
  induction bs generalizing m a with
  | nil => rfl
  | cons b r ih =>
    show Memory.read (Memory.writeBytes (Memory.write m a b) (a + 1) r) a ::
      Memory.readBytes (Memory.writeBytes (Memory.write m a b) (a + 1) r) (a + 1) r.length = _
    rw [ih, Memory.read_writeBytes_other _ _ _ _ (by omega), Memory.read_write_same]

/-! ### Bytes of a value (R3) -/

theorem bytesOf_length (n v : Nat) : (bytesOf n v).length = n := by
  induction n generalizing v with
  | zero => rfl
  | succ n ih => simp [bytesOf, ih]

theorem valOf_bytesOf (n v : Nat) : valOf (bytesOf n v) = v % 2 ^ (8 * n) := by
  induction n generalizing v with
  | zero => simp [bytesOf, valOf, Nat.mod_one]
  | succ n ih =>
    simp only [bytesOf, valOf, ih, BitVec.toNat_ofNat]
    have h : 2 ^ (8 * (n + 1)) = 256 * 2 ^ (8 * n) := by rw [Nat.mul_add, Nat.pow_add, Nat.mul_comm]
    rw [h, Nat.mod_mul]

theorem valOf_lt (bs : List Byte) : valOf bs < 2 ^ (8 * bs.length) := by
  induction bs with
  | nil => simp [valOf]
  | cons b r ih =>
    simp only [valOf, List.length_cons]
    have h : 2 ^ (8 * (r.length + 1)) = 256 * 2 ^ (8 * r.length) := by rw [Nat.mul_add, Nat.pow_add, Nat.mul_comm]
    have := b.isLt
    omega

end Sys2Proof.Machine
end

