-- ==== Sys2Proof/Laws/Memory.lean ====
section
/-!
SUPPORT. Laws of a layer's memory through its caches: what a store makes a byte read as, and that write-backs, copies for a
snapshot and poison change no byte.
-/

namespace Sys2Proof.Machine

/-! ### Sectors -/

theorem Memory.readBytes_writeBytes_other (m : Memory) (a b n : Nat) (bs : List Byte) (h : b + n ≤ a ∨ a + bs.length ≤ b) :
    Memory.readBytes (Memory.writeBytes m a bs) b n = Memory.readBytes m b n := by
  induction n generalizing b with
  | zero => rfl
  | succ n ih =>
    show Memory.read _ b :: Memory.readBytes _ (b + 1) n = _
    rw [ih (b + 1) (by omega), Memory.read_writeBytes_other _ _ _ _ (by omega)]
    rfl

theorem State.hbmSector_writeHbm (s : State) (k j : Nat) (d : BitVec 128) :
    (s.writeHbm k d).hbmSector j = if j = k then d else s.hbmSector j := by
  unfold State.hbmSector State.writeHbm
  by_cases hj : j = k
  · subst hj
    have h := Memory.readBytes_writeBytes_same s.hbm (16 * j) (bytesOf 16 d.toNat)
    rw [bytesOf_length] at h
    rw [if_pos rfl]
    show BitVec.ofNat 128 (valOf (Memory.readBytes (Memory.writeBytes s.hbm (16 * j) (bytesOf 16 d.toNat)) (16 * j) 16)) = d
    rw [h, valOf_bytesOf]
    have := d.isLt
    apply BitVec.eq_of_toNat_eq
    simp only [BitVec.toNat_ofNat]
    omega
  · rw [if_neg hj]
    show BitVec.ofNat 128 (valOf (Memory.readBytes (Memory.writeBytes s.hbm (16 * k) (bytesOf 16 d.toNat)) (16 * j) 16)) = _
    rw [Memory.readBytes_writeBytes_other _ _ _ _ _ (by rw [bytesOf_length]; omega)]

/-- The caches and the controllers' memory as a sector sees them. -/
theorem State.sector_congr (s t : State) (k : Nat) (h1 : Table.find t.l1d k = Table.find s.l1d k)
    (h2 : Table.find t.hs k = Table.find s.hs k) (h3 : t.hbmSector k = s.hbmSector k) : t.sector k = s.sector k := by
  simp only [State.sector, State.hsSector, h1, h2, h3]

/-- What a controller's write does to memory: the sector is written, or the write stalls and nothing is (R364, R365). -/
theorem State.ctrlWrite_frame (s : State) (k : Nat) (d : BitVec 128) (c : Bool) :
    (s.ctrlWrite k d c).1.l1d = s.l1d ∧ (s.ctrlWrite k d c).1.hs = s.hs ∧
      (s.ctrlWrite k d c).1.hbm = if (s.ctrlWrite k d c).2 = true then (s.writeHbm k d).hbm else s.hbm := by
  unfold State.ctrlWrite
  dsimp only
  (repeat' split) <;> (try contradiction) <;> exact ⟨rfl, rfl, rfl⟩

theorem State.hbmSector_congr (s t : State) (k : Nat) (h : t.hbm = s.hbm) : t.hbmSector k = s.hbmSector k := by
  simp only [State.hbmSector, h]

theorem State.sector_wbL1d (s : State) (k j : Nat) : (s.wbL1d k).sector j = s.sector j := by
  unfold State.wbL1d
  split
  · next d hd =>
    by_cases h : j = k
    · subst h
      simp [State.sector, State.hsSector, Table.find_del_same, Table.find_put_same, hd]
    · simp [State.sector, State.hsSector, Table.find_del_other _ _ _ h, Table.find_put_other _ _ _ _ h, State.hbmSector]
  · rfl

theorem State.sector_wbHs (s : State) (k j : Nat) : (s.wbHs k).sector j = s.sector j := by
  unfold State.wbHs
  split
  · next d hd =>
    have hf := State.ctrlWrite_frame s k d.data d.colour
    split
    · next s1 heq =>
      rw [heq] at hf
      obtain ⟨h1, h2, h3⟩ := hf
      simp only [ite_true] at h1 h2 h3
      by_cases h : j = k
      · subst h
        have e : State.hbmSector { s1 with hs := Table.del s1.hs j } j = d.data :=
          (State.hbmSector_congr (s.writeHbm j d.data) _ j h3).trans (by rw [State.hbmSector_writeHbm, if_pos rfl])
        simp only [State.sector, State.hsSector, h1, h2, Table.find_del_same, hd]
        split
        · rfl
        · simpa only [State.hbmSector] using e
      · have e : State.hbmSector { s1 with hs := Table.del s1.hs k } j = s.hbmSector j :=
          (State.hbmSector_congr (s.writeHbm k d.data) _ j h3).trans (by rw [State.hbmSector_writeHbm, if_neg h])
        exact State.sector_congr _ _ _ (congrArg (Table.find · j) h1)
          ((Table.find_del_other _ _ _ h).trans (congrArg (Table.find · j) h2)) e
    · next s1 heq =>
      rw [heq] at hf
      obtain ⟨h1, h2, h3⟩ := hf
      exact State.sector_congr _ _ _ (congrArg (Table.find · j) h1) (congrArg (Table.find · j) h2)
        (State.hbmSector_congr _ _ _ (by simpa using h3))
  · rfl

theorem State.sector_wbAll (s : State) (k j : Nat) : (s.wbAll k).sector j = s.sector j := by
  unfold State.wbAll
  rw [State.sector_wbHs, State.sector_wbL1d]

/-- Counting a write-back changes no memory. -/
theorem State.sector_countBack (s : State) (l j : Nat) (c : Bool) : (s.countBack l c).sector j = s.sector j := by
  unfold State.countBack State.inject State.consume
  (repeat' split) <;> rfl

theorem State.sector_foldl (f : State → Nat → State) (hf : ∀ (s : State) k j, (f s k).sector j = s.sector j) (ks : List Nat)
    (s : State) (j : Nat) : (ks.foldl f s).sector j = s.sector j := by
  induction ks generalizing s with
  | nil => rfl
  | cons k r ih => exact (ih _).trans (hf s k j)

theorem State.sector_wbColour (s : State) (l j : Nat) (c : Bool) : (s.wbColour l c).sector j = s.sector j := by
  unfold State.wbColour
  dsimp only
  split
  · rfl
  · exact (State.sector_countBack ..).trans (State.sector_foldl _ State.sector_wbAll _ _ _)

/-- A line that goes to its controller reads as before (R404). -/
theorem State.sector_wbLine (s : State) (l j : Nat) : (s.wbLine l).sector j = s.sector j :=
  (State.sector_wbColour ..).trans (State.sector_wbColour ..)

theorem State.sector_beforeStore (s : State) (k j : Nat) (c : Bool) : (s.beforeStore k c).sector j = s.sector j := by
  unfold State.beforeStore
  split
  · exact (State.sector_countBack ..).trans (State.sector_wbAll s k j)
  · rfl

/-! ### One byte -/

theorem sectorByte_set (d : BitVec 128) (i j : Nat) (b : Byte) (hi : i < 16) (hj : j < 16) :
    sectorByte (sectorSet d i b) j = if j = i then b else sectorByte d j := by
  unfold sectorByte sectorSet
  by_cases hne : j = i
  · rw [if_pos hne]
    subst hne
    apply BitVec.eq_of_getLsbD_eq
    intro n hn
    simp only [BitVec.getLsbD_extractLsb', BitVec.getLsbD_or, BitVec.getLsbD_and, BitVec.getLsbD_not, BitVec.getLsbD_shiftLeft,
      BitVec.getLsbD_setWidth, hn]
    have h1 : 8 * j + n < 128 := by omega
    have h2 : ¬ (8 * j + n < 8 * j) := by omega
    have h3 : 8 * j + n - 8 * j = n := by omega
    have h4 : (0xFF#128).getLsbD n = true := by
      have : n = 0 ∨ n = 1 ∨ n = 2 ∨ n = 3 ∨ n = 4 ∨ n = 5 ∨ n = 6 ∨ n = 7 := by omega
      rcases this with h | h | h | h | h | h | h | h <;> subst h <;> decide
    simp [h1, h2, h3, h4]
    omega
  · rw [if_neg hne]
    apply BitVec.eq_of_getLsbD_eq
    intro n hn
    simp only [BitVec.getLsbD_extractLsb', BitVec.getLsbD_or, BitVec.getLsbD_and, BitVec.getLsbD_not, BitVec.getLsbD_shiftLeft,
      BitVec.getLsbD_setWidth, hn]
    have h1 : 8 * j + n < 128 := by omega
    by_cases h2 : 8 * j + n < 8 * i
    · simp [h1, h2]
    · have h3 : 8 ≤ 8 * j + n - 8 * i := by omega
      have h4 : (0xFF#128).getLsbD (8 * j + n - 8 * i) = false := by
        show Nat.testBit 255 _ = false
        exact Nat.testBit_lt_two_pow (Nat.lt_of_lt_of_le (by decide : 255 < 2 ^ 8) (Nat.pow_le_pow_right (by decide) h3))
      simp [h1, h2, h4, BitVec.getLsbD_of_ge b _ h3]

/-- The image write of R366 changes no other sector. -/
theorem State.sector_imageWrite (s : State) (k i j : Nat) (b : Byte) (h : j ≠ k) : (s.imageWrite k i b).sector j = s.sector j := by
  unfold State.imageWrite
  dsimp only
  split
  · split
    · rfl
    · refine State.sector_congr _ _ _ rfl rfl ?_
      rw [State.hbmSector_writeHbm, if_neg h]
  · rfl

/-- The sectors after one byte has been written, at whatever level. -/
theorem State.sector_pokeByte (s : State) (lv : Level) (c : Bool) (key j : Nat) (b : Byte) :
    (s.pokeByte lv c key b).sector j =
      if j = key / 16 then sectorSet (s.sector j) (key % 16) b else s.sector j := by
  unfold State.pokeByte
  dsimp only
  generalize hs1 : s.beforeStore (key / 16) c = s1
  have e1 : ∀ j, s1.sector j = s.sector j := fun j => hs1 ▸ State.sector_beforeStore s _ j c
  generalize s1.meetsLate (key / 16) c = late
  generalize hd : sectorSet (s1.sector (key / 16)) (key % 16) b = d
  have e2 : ∀ j, j ≠ key / 16 → (if late = true then s1.imageWrite (key / 16) (key % 16) b else s1).sector j = s.sector j := by
    intro j hj
    split
    · rw [State.sector_imageWrite _ _ _ _ _ hj, e1]
    · exact e1 j
  generalize (if late = true then s1.imageWrite (key / 16) (key % 16) b else s1) = s2 at e2
  have ed : d = sectorSet (s.sector (key / 16)) (key % 16) b := by rw [← hd, e1]
  have hs : ∀ (s3 : State) (x : Dirty), x.data = d → s3.hbm = s2.hbm → s3.l1d = Table.del s2.l1d (key / 16) →
      s3.hs = Table.put s2.hs (key / 16) x → s3.sector j =
        if j = key / 16 then sectorSet (s.sector j) (key % 16) b else s.sector j := by
    intro s3 x hx h1 h2 h3
    split
    · next hj =>
      subst hj
      simp only [State.sector, State.hsSector, h2, h3, Table.find_del_same, Table.find_put_same, hx, ed]
    · next hj =>
      rw [← e2 j hj]
      exact State.sector_congr _ _ _ (by rw [h2, Table.find_del_other _ _ _ hj]) (by rw [h3, Table.find_put_other _ _ _ _ hj])
        (State.hbmSector_congr _ _ _ h1)
  cases lv with
  | l1d q =>
    dsimp only
    by_cases hj : j = key / 16
    · rw [if_pos hj]
      show (match Table.find (Table.put s2.l1d (key / 16) ⟨d, q, _⟩) j with | some d => d.data | none => _) = _
      rw [hj, Table.find_put_same, ed]
    · rw [if_neg hj, ← e2 j hj]
      exact State.sector_congr _ _ _ (Table.find_put_other _ _ _ _ hj) rfl rfl
  | hs => exact hs _ ⟨d, 0, _⟩ rfl rfl rfl rfl
  | mem =>
    dsimp only
    rw [State.sector_wbHs]
    exact hs _ ⟨d, 0, _⟩ rfl rfl rfl rfl

/-- A byte that has been written reads as written, and every other byte as before (R128, R251, R366). -/
theorem State.peek_pokeByte (s : State) (lv : Level) (c : Bool) (key a : Nat) (b : Byte) :
    (s.pokeByte lv c key b).peek a = if a = key then b else s.peek a := by
  unfold State.peek
  rw [State.sector_pokeByte]
  have hk : key % 16 < 16 := Nat.mod_lt _ (by decide)
  have ha : a % 16 < 16 := Nat.mod_lt _ (by decide)
  by_cases h : a / 16 = key / 16
  · rw [if_pos h, sectorByte_set _ _ _ _ hk ha]
    by_cases h2 : a % 16 = key % 16
    · rw [if_pos h2, if_pos (by omega)]
    · rw [if_neg h2, if_neg (by omega)]
  · rw [if_neg h, if_neg (by omega)]

theorem State.peek_pokeBytes_other (s : State) (lv : Level) (c : Bool) (key a : Nat) (bs : List Byte)
    (h : a < key ∨ key + bs.length ≤ a) : (s.pokeBytes lv c key bs).peek a = s.peek a := by
  induction bs generalizing s key with
  | nil => rfl
  | cons b r ih =>
    simp only [List.length_cons] at h
    show ((s.pokeByte lv c key b).pokeBytes lv c (key + 1) r).peek a = _
    rw [ih _ _ (by omega), State.peek_pokeByte, if_neg (by omega)]

theorem State.peekBytes_pokeBytes (s : State) (lv : Level) (c : Bool) (key : Nat) (bs : List Byte) :
    (s.pokeBytes lv c key bs).peekBytes key bs.length = bs := by
  induction bs generalizing s key with
  | nil => rfl
  | cons b r ih =>
    show ((s.pokeByte lv c key b).pokeBytes lv c (key + 1) r).peek key ::
      ((s.pokeByte lv c key b).pokeBytes lv c (key + 1) r).peekBytes (key + 1) r.length = _
    rw [ih, State.peek_pokeBytes_other _ _ _ _ _ _ (by omega), State.peek_pokeByte, if_pos rfl]

theorem State.peek_curePoison (s : State) (key n a : Nat) : (s.curePoison key n).peek a = s.peek a := by
  unfold State.curePoison
  split <;> rfl

theorem State.peek_keepPoison (s : State) (lv : Level) (key n a : Nat) : (s.keepPoison lv key n).peek a = s.peek a := by
  unfold State.keepPoison
  split <;> rfl

theorem State.sector_victim {α : Type} [DecidableEq α] (s : State) (ways : Nat) (line : α) (j : Nat) (set : α → Nat) (ls : List α) :
    (s.victim ways line set ls).2.sector j = s.sector j := by
  unfold State.victim
  split
  · rfl
  · dsimp only
    split <;> rfl

theorem State.sector_spillHs (s : State) (line j : Nat) : (s.spillHs line).sector j = s.sector j := by
  unfold State.spillHs
  dsimp only
  split
  · next v s1 hv => exact (State.sector_wbLine ..).trans ((congrArg (·.2.sector j) hv).symm.trans (s.sector_victim ..))
  · next s1 hv => exact (congrArg (·.2.sector j) hv).symm.trans (s.sector_victim ..)

theorem State.sector_leaveL1d (s : State) (core j : Nat) (l : L1dLine) : (s.leaveL1d core l).sector j = s.sector j := by
  cases l with
  | own line => exact State.sector_foldl _ State.sector_wbL1d _ _ _
  | remote va g => rfl

theorem State.sector_spillL1d (s : State) (core j : Nat) (line : L1dLine) : (s.spillL1d core line).sector j = s.sector j := by
  unfold State.spillL1d
  split
  · next v s1 hv => exact (State.sector_leaveL1d ..).trans ((congrArg (·.2.sector j) hv).symm.trans (s.sector_victim ..))
  · next s1 hv => exact (congrArg (·.2.sector j) hv).symm.trans (s.sector_victim ..)

/-- An eviction changes no byte that a read sees. -/
theorem State.sector_spill (s : State) (lv : Level) (c : Bool) (key j : Nat) : (s.spill lv c key).sector j = s.sector j := by
  cases lv with
  | l1d core => exact (State.sector_spillHs ..).trans (State.sector_spillL1d ..)
  | hs => exact State.sector_spillHs ..
  | mem => exact State.sector_countBack ..

/-- Nor does a line that moves from one L1D to another, or to its HS (R251, R400). -/
theorem State.sector_claim (s : State) (lv : Level) (key j : Nat) : (s.claim lv key).sector j = s.sector j := by
  cases lv with
  | l1d core =>
    refine State.sector_foldl _ (fun s k j => ?_) _ _ _
    unfold State.yieldSector
    split
    · split
      · rfl
      · exact State.sector_wbL1d ..
    · rfl
  | hs => exact State.sector_foldl _ State.sector_wbL1d _ _ _
  | mem => exact State.sector_foldl _ State.sector_wbL1d _ _ _

theorem State.peek_claim (s : State) (lv : Level) (key a : Nat) : (s.claim lv key).peek a = s.peek a := by
  simp only [State.peek, State.sector_claim]

theorem State.peek_spill (s : State) (lv : Level) (c : Bool) (key a : Nat) : (s.spill lv c key).peek a = s.peek a := by
  simp only [State.peek, State.sector_spill]

theorem State.peekBytes_spill (s : State) (lv : Level) (c : Bool) (key a n : Nat) : (s.spill lv c key).peekBytes a n = s.peekBytes a n := by
  induction n generalizing a with
  | zero => rfl
  | succ n ih => simp only [State.peekBytes, ih, State.peek_spill]

/-- A store leaves every byte outside it. -/
theorem State.peek_store_other (s : State) (lv : Level) (c : Bool) (key a : Nat) (bs : List Byte)
    (h : a < key ∨ key + bs.length ≤ a) : (s.store lv c key bs).peek a = s.peek a := by
  unfold State.store
  rw [State.peek_spill, State.peek_pokeBytes_other _ _ _ _ _ _ h, State.peek_curePoison, State.peek_keepPoison, State.peek_claim]

/-- What has been stored is read back. -/
theorem State.peekBytes_store (s : State) (lv : Level) (c : Bool) (key : Nat) (bs : List Byte) :
    (s.store lv c key bs).peekBytes key bs.length = bs :=
  (State.peekBytes_spill ..).trans (State.peekBytes_pokeBytes _ lv c key bs)

theorem State.peekNat_store (s : State) (lv : Level) (c : Bool) (key n v : Nat) :
    (s.store lv c key (bytesOf n v)).peekNat key n = v % 2 ^ (8 * n) := by
  have h := State.peekBytes_store s lv c key (bytesOf n v)
  rw [bytesOf_length] at h
  unfold State.peekNat
  rw [h, valOf_bytesOf]

theorem State.peek_makePoison (s : State) (key n a : Nat) : (s.makePoison key n).peek a = s.peek a := rfl

end Sys2Proof.Machine
end

