-- ==== Sys2Proof/Laws/State.lean ====
section
/-!
SUPPORT. One lemma for each field and each update of `State` and `Thread`, so that no proof unfolds a record update.
-/

namespace Sys2Proof.Machine

set_option Elab.async false

/-! ### Updates of `State`, field by field -/

@[simp] theorem State.setThread_cur (s : State) (p : Nat) (v : Thread) : (s.setThread p v).cur = s.cur := rfl
@[simp] theorem State.setThread_agenda (s : State) (p : Nat) (v : Thread) : (s.setThread p v).agenda = s.agenda := rfl
@[simp] theorem State.setThread_free (s : State) (p : Nat) (v : Thread) : (s.setThread p v).free = s.free := rfl
@[simp] theorem State.setThread_nextId (s : State) (p : Nat) (v : Thread) : (s.setThread p v).nextId = s.nextId := rfl
@[simp] theorem State.setThread_threads (s : State) (p : Nat) (v : Thread) : (s.setThread p v).threads = Table.put s.threads p v := rfl
@[simp] theorem State.setThread_cores (s : State) (p : Nat) (v : Thread) : (s.setThread p v).cores = s.cores := rfl
@[simp] theorem State.setThread_clusters (s : State) (p : Nat) (v : Thread) : (s.setThread p v).clusters = s.clusters := rfl
@[simp] theorem State.setThread_layers (s : State) (p : Nat) (v : Thread) : (s.setThread p v).layers = s.layers := rfl
@[simp] theorem State.setThread_hbm (s : State) (p : Nat) (v : Thread) : (s.setThread p v).hbm = s.hbm := rfl
@[simp] theorem State.setThread_l1d (s : State) (p : Nat) (v : Thread) : (s.setThread p v).l1d = s.l1d := rfl
@[simp] theorem State.setThread_hs (s : State) (p : Nat) (v : Thread) : (s.setThread p v).hs = s.hs := rfl
@[simp] theorem State.setThread_poison (s : State) (p : Nat) (v : Thread) : (s.setThread p v).poison = s.poison := rfl
@[simp] theorem State.setThread_hbmPoison (s : State) (p : Nat) (v : Thread) : (s.setThread p v).hbmPoison = s.hbmPoison := rfl
@[simp] theorem State.setThread_hsPoison (s : State) (p : Nat) (v : Thread) : (s.setThread p v).hsPoison = s.hsPoison := rfl
@[simp] theorem State.setThread_l1i (s : State) (p : Nat) (v : Thread) : (s.setThread p v).l1i = s.l1i := rfl
@[simp] theorem State.setThread_rdc (s : State) (p : Nat) (v : Thread) : (s.setThread p v).rdc = s.rdc := rfl
@[simp] theorem State.setThread_tlb (s : State) (p : Nat) (v : Thread) : (s.setThread p v).tlb = s.tlb := rfl
@[simp] theorem State.setThread_walkers (s : State) (p : Nat) (v : Thread) : (s.setThread p v).walkers = s.walkers := rfl
@[simp] theorem State.setThread_ctxCache (s : State) (p : Nat) (v : Thread) : (s.setThread p v).ctxCache = s.ctxCache := rfl
@[simp] theorem State.setThread_rope (s : State) (p : Nat) (v : Thread) : (s.setThread p v).rope = s.rope := rfl
@[simp] theorem State.setThread_mirrorInc (s : State) (p : Nat) (v : Thread) : (s.setThread p v).mirrorInc = s.mirrorInc := rfl
@[simp] theorem State.setThread_slot (s : State) (p : Nat) (v : Thread) : (s.setThread p v).slot = s.slot := rfl
@[simp] theorem State.setThread_air (s : State) (p : Nat) (v : Thread) : (s.setThread p v).air = s.air := rfl
@[simp] theorem State.setThread_inForce (s : State) (p : Nat) (v : Thread) : (s.setThread p v).inForce = s.inForce := rfl
@[simp] theorem State.setThread_changes (s : State) (p : Nat) (v : Thread) : (s.setThread p v).changes = s.changes := rfl
@[simp] theorem State.setThread_bdQueue (s : State) (p : Nat) (v : Thread) : (s.setThread p v).bdQueue = s.bdQueue := rfl
@[simp] theorem State.setThread_bdRetrans (s : State) (p : Nat) (v : Thread) : (s.setThread p v).bdRetrans = s.bdRetrans := rfl
@[simp] theorem State.setThread_lanes (s : State) (p : Nat) (v : Thread) : (s.setThread p v).lanes = s.lanes := rfl
@[simp] theorem State.setThread_packets (s : State) (p : Nat) (v : Thread) : (s.setThread p v).packets = s.packets := rfl
@[simp] theorem State.setThread_copies (s : State) (p : Nat) (v : Thread) : (s.setThread p v).copies = s.copies := rfl
@[simp] theorem State.setThread_messages (s : State) (p : Nat) (v : Thread) : (s.setThread p v).messages = s.messages := rfl
@[simp] theorem State.setThread_posted (s : State) (p : Nat) (v : Thread) : (s.setThread p v).posted = s.posted := rfl
@[simp] theorem State.setThread_saved (s : State) (p : Nat) (v : Thread) : (s.setThread p v).saved = s.saved := rfl
@[simp] theorem State.setThread_inbound (s : State) (p : Nat) (v : Thread) : (s.setThread p v).inbound = s.inbound := rfl
@[simp] theorem State.setThread_timedOut (s : State) (p : Nat) (v : Thread) : (s.setThread p v).timedOut = s.timedOut := rfl
@[simp] theorem State.setThread_rpcItem (s : State) (p : Nat) (v : Thread) : (s.setThread p v).rpcItem = s.rpcItem := rfl
@[simp] theorem State.setThread_frames (s : State) (p : Nat) (v : Thread) : (s.setThread p v).frames = s.frames := rfl
@[simp] theorem State.setThread_bd (s : State) (p : Nat) (v : Thread) : (s.setThread p v).bd = s.bd := rfl
@[simp] theorem State.setThread_bdLines (s : State) (p : Nat) (v : Thread) : (s.setThread p v).bdLines = s.bdLines := rfl
@[simp] theorem State.setThread_isig (s : State) (p : Nat) (v : Thread) : (s.setThread p v).isig = s.isig := rfl
@[simp] theorem State.setThread_outbound (s : State) (p : Nat) (v : Thread) : (s.setThread p v).outbound = s.outbound := rfl
@[simp] theorem State.setThread_outReads (s : State) (p : Nat) (v : Thread) : (s.setThread p v).outReads = s.outReads := rfl
@[simp] theorem State.setThread_hostReads (s : State) (p : Nat) (v : Thread) : (s.setThread p v).hostReads = s.hostReads := rfl
@[simp] theorem State.setThread_msix (s : State) (p : Nat) (v : Thread) : (s.setThread p v).msix = s.msix := rfl
@[simp] theorem State.setThread_devState (s : State) (p : Nat) (v : Thread) : (s.setThread p v).devState = s.devState := rfl
@[simp] theorem State.setThread_startStep (s : State) (p : Nat) (v : Thread) : (s.setThread p v).startStep = s.startStep := rfl
@[simp] theorem State.setThread_refused (s : State) (p : Nat) (v : Thread) : (s.setThread p v).refused = s.refused := rfl
@[simp] theorem State.setThread_kept (s : State) (p : Nat) (v : Thread) : (s.setThread p v).kept = s.kept := rfl
@[simp] theorem State.setThread_cold (s : State) (p : Nat) (v : Thread) : (s.setThread p v).cold = s.cold := rfl
@[simp] theorem State.setThread_warm (s : State) (p : Nat) (v : Thread) : (s.setThread p v).warm = s.warm := rfl
@[simp] theorem State.setThread_keep (s : State) (p : Nat) (v : Thread) : (s.setThread p v).keep = s.keep := rfl
@[simp] theorem State.setThread_cairn (s : State) (p : Nat) (v : Thread) : (s.setThread p v).cairn = s.cairn := rfl
@[simp] theorem State.setThread_basecamp (s : State) (p : Nat) (v : Thread) : (s.setThread p v).basecamp = s.basecamp := rfl
@[simp] theorem State.setTh_cur (s : State) (v : Thread) : (s.setTh v).cur = s.cur := rfl
@[simp] theorem State.setTh_agenda (s : State) (v : Thread) : (s.setTh v).agenda = s.agenda := rfl
@[simp] theorem State.setTh_free (s : State) (v : Thread) : (s.setTh v).free = s.free := rfl
@[simp] theorem State.setTh_nextId (s : State) (v : Thread) : (s.setTh v).nextId = s.nextId := rfl
@[simp] theorem State.setTh_threads (s : State) (v : Thread) : (s.setTh v).threads = Table.put s.threads s.cur v := rfl
@[simp] theorem State.setTh_cores (s : State) (v : Thread) : (s.setTh v).cores = s.cores := rfl
@[simp] theorem State.setTh_clusters (s : State) (v : Thread) : (s.setTh v).clusters = s.clusters := rfl
@[simp] theorem State.setTh_layers (s : State) (v : Thread) : (s.setTh v).layers = s.layers := rfl
@[simp] theorem State.setTh_hbm (s : State) (v : Thread) : (s.setTh v).hbm = s.hbm := rfl
@[simp] theorem State.setTh_l1d (s : State) (v : Thread) : (s.setTh v).l1d = s.l1d := rfl
@[simp] theorem State.setTh_hs (s : State) (v : Thread) : (s.setTh v).hs = s.hs := rfl
@[simp] theorem State.setTh_poison (s : State) (v : Thread) : (s.setTh v).poison = s.poison := rfl
@[simp] theorem State.setTh_hbmPoison (s : State) (v : Thread) : (s.setTh v).hbmPoison = s.hbmPoison := rfl
@[simp] theorem State.setTh_hsPoison (s : State) (v : Thread) : (s.setTh v).hsPoison = s.hsPoison := rfl
@[simp] theorem State.setTh_l1i (s : State) (v : Thread) : (s.setTh v).l1i = s.l1i := rfl
@[simp] theorem State.setTh_rdc (s : State) (v : Thread) : (s.setTh v).rdc = s.rdc := rfl
@[simp] theorem State.setTh_tlb (s : State) (v : Thread) : (s.setTh v).tlb = s.tlb := rfl
@[simp] theorem State.setTh_walkers (s : State) (v : Thread) : (s.setTh v).walkers = s.walkers := rfl
@[simp] theorem State.setTh_ctxCache (s : State) (v : Thread) : (s.setTh v).ctxCache = s.ctxCache := rfl
@[simp] theorem State.setTh_rope (s : State) (v : Thread) : (s.setTh v).rope = s.rope := rfl
@[simp] theorem State.setTh_mirrorInc (s : State) (v : Thread) : (s.setTh v).mirrorInc = s.mirrorInc := rfl
@[simp] theorem State.setTh_slot (s : State) (v : Thread) : (s.setTh v).slot = s.slot := rfl
@[simp] theorem State.setTh_air (s : State) (v : Thread) : (s.setTh v).air = s.air := rfl
@[simp] theorem State.setTh_inForce (s : State) (v : Thread) : (s.setTh v).inForce = s.inForce := rfl
@[simp] theorem State.setTh_changes (s : State) (v : Thread) : (s.setTh v).changes = s.changes := rfl
@[simp] theorem State.setTh_bdQueue (s : State) (v : Thread) : (s.setTh v).bdQueue = s.bdQueue := rfl
@[simp] theorem State.setTh_bdRetrans (s : State) (v : Thread) : (s.setTh v).bdRetrans = s.bdRetrans := rfl
@[simp] theorem State.setTh_lanes (s : State) (v : Thread) : (s.setTh v).lanes = s.lanes := rfl
@[simp] theorem State.setTh_packets (s : State) (v : Thread) : (s.setTh v).packets = s.packets := rfl
@[simp] theorem State.setTh_copies (s : State) (v : Thread) : (s.setTh v).copies = s.copies := rfl
@[simp] theorem State.setTh_messages (s : State) (v : Thread) : (s.setTh v).messages = s.messages := rfl
@[simp] theorem State.setTh_posted (s : State) (v : Thread) : (s.setTh v).posted = s.posted := rfl
@[simp] theorem State.setTh_saved (s : State) (v : Thread) : (s.setTh v).saved = s.saved := rfl
@[simp] theorem State.setTh_inbound (s : State) (v : Thread) : (s.setTh v).inbound = s.inbound := rfl
@[simp] theorem State.setTh_timedOut (s : State) (v : Thread) : (s.setTh v).timedOut = s.timedOut := rfl
@[simp] theorem State.setTh_rpcItem (s : State) (v : Thread) : (s.setTh v).rpcItem = s.rpcItem := rfl
@[simp] theorem State.setTh_frames (s : State) (v : Thread) : (s.setTh v).frames = s.frames := rfl
@[simp] theorem State.setTh_bd (s : State) (v : Thread) : (s.setTh v).bd = s.bd := rfl
@[simp] theorem State.setTh_bdLines (s : State) (v : Thread) : (s.setTh v).bdLines = s.bdLines := rfl
@[simp] theorem State.setTh_isig (s : State) (v : Thread) : (s.setTh v).isig = s.isig := rfl
@[simp] theorem State.setTh_outbound (s : State) (v : Thread) : (s.setTh v).outbound = s.outbound := rfl
@[simp] theorem State.setTh_outReads (s : State) (v : Thread) : (s.setTh v).outReads = s.outReads := rfl
@[simp] theorem State.setTh_hostReads (s : State) (v : Thread) : (s.setTh v).hostReads = s.hostReads := rfl
@[simp] theorem State.setTh_msix (s : State) (v : Thread) : (s.setTh v).msix = s.msix := rfl
@[simp] theorem State.setTh_devState (s : State) (v : Thread) : (s.setTh v).devState = s.devState := rfl
@[simp] theorem State.setTh_startStep (s : State) (v : Thread) : (s.setTh v).startStep = s.startStep := rfl
@[simp] theorem State.setTh_refused (s : State) (v : Thread) : (s.setTh v).refused = s.refused := rfl
@[simp] theorem State.setTh_kept (s : State) (v : Thread) : (s.setTh v).kept = s.kept := rfl
@[simp] theorem State.setTh_cold (s : State) (v : Thread) : (s.setTh v).cold = s.cold := rfl
@[simp] theorem State.setTh_warm (s : State) (v : Thread) : (s.setTh v).warm = s.warm := rfl
@[simp] theorem State.setTh_keep (s : State) (v : Thread) : (s.setTh v).keep = s.keep := rfl
@[simp] theorem State.setTh_cairn (s : State) (v : Thread) : (s.setTh v).cairn = s.cairn := rfl
@[simp] theorem State.setTh_basecamp (s : State) (v : Thread) : (s.setTh v).basecamp = s.basecamp := rfl
@[simp] theorem State.setCore_cur (s : State) (p : Nat) (v : Core) : (s.setCore p v).cur = s.cur := rfl
@[simp] theorem State.setCore_agenda (s : State) (p : Nat) (v : Core) : (s.setCore p v).agenda = s.agenda := rfl
@[simp] theorem State.setCore_free (s : State) (p : Nat) (v : Core) : (s.setCore p v).free = s.free := rfl
@[simp] theorem State.setCore_nextId (s : State) (p : Nat) (v : Core) : (s.setCore p v).nextId = s.nextId := rfl
@[simp] theorem State.setCore_threads (s : State) (p : Nat) (v : Core) : (s.setCore p v).threads = s.threads := rfl
@[simp] theorem State.setCore_cores (s : State) (p : Nat) (v : Core) : (s.setCore p v).cores = Table.put s.cores p v := rfl
@[simp] theorem State.setCore_clusters (s : State) (p : Nat) (v : Core) : (s.setCore p v).clusters = s.clusters := rfl
@[simp] theorem State.setCore_layers (s : State) (p : Nat) (v : Core) : (s.setCore p v).layers = s.layers := rfl
@[simp] theorem State.setCore_hbm (s : State) (p : Nat) (v : Core) : (s.setCore p v).hbm = s.hbm := rfl
@[simp] theorem State.setCore_l1d (s : State) (p : Nat) (v : Core) : (s.setCore p v).l1d = s.l1d := rfl
@[simp] theorem State.setCore_hs (s : State) (p : Nat) (v : Core) : (s.setCore p v).hs = s.hs := rfl
@[simp] theorem State.setCore_poison (s : State) (p : Nat) (v : Core) : (s.setCore p v).poison = s.poison := rfl
@[simp] theorem State.setCore_hbmPoison (s : State) (p : Nat) (v : Core) : (s.setCore p v).hbmPoison = s.hbmPoison := rfl
@[simp] theorem State.setCore_hsPoison (s : State) (p : Nat) (v : Core) : (s.setCore p v).hsPoison = s.hsPoison := rfl
@[simp] theorem State.setCore_l1i (s : State) (p : Nat) (v : Core) : (s.setCore p v).l1i = s.l1i := rfl
@[simp] theorem State.setCore_rdc (s : State) (p : Nat) (v : Core) : (s.setCore p v).rdc = s.rdc := rfl
@[simp] theorem State.setCore_tlb (s : State) (p : Nat) (v : Core) : (s.setCore p v).tlb = s.tlb := rfl
@[simp] theorem State.setCore_walkers (s : State) (p : Nat) (v : Core) : (s.setCore p v).walkers = s.walkers := rfl
@[simp] theorem State.setCore_ctxCache (s : State) (p : Nat) (v : Core) : (s.setCore p v).ctxCache = s.ctxCache := rfl
@[simp] theorem State.setCore_rope (s : State) (p : Nat) (v : Core) : (s.setCore p v).rope = s.rope := rfl
@[simp] theorem State.setCore_mirrorInc (s : State) (p : Nat) (v : Core) : (s.setCore p v).mirrorInc = s.mirrorInc := rfl
@[simp] theorem State.setCore_slot (s : State) (p : Nat) (v : Core) : (s.setCore p v).slot = s.slot := rfl
@[simp] theorem State.setCore_air (s : State) (p : Nat) (v : Core) : (s.setCore p v).air = s.air := rfl
@[simp] theorem State.setCore_inForce (s : State) (p : Nat) (v : Core) : (s.setCore p v).inForce = s.inForce := rfl
@[simp] theorem State.setCore_changes (s : State) (p : Nat) (v : Core) : (s.setCore p v).changes = s.changes := rfl
@[simp] theorem State.setCore_bdQueue (s : State) (p : Nat) (v : Core) : (s.setCore p v).bdQueue = s.bdQueue := rfl
@[simp] theorem State.setCore_bdRetrans (s : State) (p : Nat) (v : Core) : (s.setCore p v).bdRetrans = s.bdRetrans := rfl
@[simp] theorem State.setCore_lanes (s : State) (p : Nat) (v : Core) : (s.setCore p v).lanes = s.lanes := rfl
@[simp] theorem State.setCore_packets (s : State) (p : Nat) (v : Core) : (s.setCore p v).packets = s.packets := rfl
@[simp] theorem State.setCore_copies (s : State) (p : Nat) (v : Core) : (s.setCore p v).copies = s.copies := rfl
@[simp] theorem State.setCore_messages (s : State) (p : Nat) (v : Core) : (s.setCore p v).messages = s.messages := rfl
@[simp] theorem State.setCore_posted (s : State) (p : Nat) (v : Core) : (s.setCore p v).posted = s.posted := rfl
@[simp] theorem State.setCore_saved (s : State) (p : Nat) (v : Core) : (s.setCore p v).saved = s.saved := rfl
@[simp] theorem State.setCore_inbound (s : State) (p : Nat) (v : Core) : (s.setCore p v).inbound = s.inbound := rfl
@[simp] theorem State.setCore_timedOut (s : State) (p : Nat) (v : Core) : (s.setCore p v).timedOut = s.timedOut := rfl
@[simp] theorem State.setCore_rpcItem (s : State) (p : Nat) (v : Core) : (s.setCore p v).rpcItem = s.rpcItem := rfl
@[simp] theorem State.setCore_frames (s : State) (p : Nat) (v : Core) : (s.setCore p v).frames = s.frames := rfl
@[simp] theorem State.setCore_bd (s : State) (p : Nat) (v : Core) : (s.setCore p v).bd = s.bd := rfl
@[simp] theorem State.setCore_bdLines (s : State) (p : Nat) (v : Core) : (s.setCore p v).bdLines = s.bdLines := rfl
@[simp] theorem State.setCore_isig (s : State) (p : Nat) (v : Core) : (s.setCore p v).isig = s.isig := rfl
@[simp] theorem State.setCore_outbound (s : State) (p : Nat) (v : Core) : (s.setCore p v).outbound = s.outbound := rfl
@[simp] theorem State.setCore_outReads (s : State) (p : Nat) (v : Core) : (s.setCore p v).outReads = s.outReads := rfl
@[simp] theorem State.setCore_hostReads (s : State) (p : Nat) (v : Core) : (s.setCore p v).hostReads = s.hostReads := rfl
@[simp] theorem State.setCore_msix (s : State) (p : Nat) (v : Core) : (s.setCore p v).msix = s.msix := rfl
@[simp] theorem State.setCore_devState (s : State) (p : Nat) (v : Core) : (s.setCore p v).devState = s.devState := rfl
@[simp] theorem State.setCore_startStep (s : State) (p : Nat) (v : Core) : (s.setCore p v).startStep = s.startStep := rfl
@[simp] theorem State.setCore_refused (s : State) (p : Nat) (v : Core) : (s.setCore p v).refused = s.refused := rfl
@[simp] theorem State.setCore_kept (s : State) (p : Nat) (v : Core) : (s.setCore p v).kept = s.kept := rfl
@[simp] theorem State.setCore_cold (s : State) (p : Nat) (v : Core) : (s.setCore p v).cold = s.cold := rfl
@[simp] theorem State.setCore_warm (s : State) (p : Nat) (v : Core) : (s.setCore p v).warm = s.warm := rfl
@[simp] theorem State.setCore_keep (s : State) (p : Nat) (v : Core) : (s.setCore p v).keep = s.keep := rfl
@[simp] theorem State.setCore_cairn (s : State) (p : Nat) (v : Core) : (s.setCore p v).cairn = s.cairn := rfl
@[simp] theorem State.setCore_basecamp (s : State) (p : Nat) (v : Core) : (s.setCore p v).basecamp = s.basecamp := rfl
@[simp] theorem State.setCluster_cur (s : State) (p : Nat) (v : Cluster) : (s.setCluster p v).cur = s.cur := rfl
@[simp] theorem State.setCluster_agenda (s : State) (p : Nat) (v : Cluster) : (s.setCluster p v).agenda = s.agenda := rfl
@[simp] theorem State.setCluster_free (s : State) (p : Nat) (v : Cluster) : (s.setCluster p v).free = s.free := rfl
@[simp] theorem State.setCluster_nextId (s : State) (p : Nat) (v : Cluster) : (s.setCluster p v).nextId = s.nextId := rfl
@[simp] theorem State.setCluster_threads (s : State) (p : Nat) (v : Cluster) : (s.setCluster p v).threads = s.threads := rfl
@[simp] theorem State.setCluster_cores (s : State) (p : Nat) (v : Cluster) : (s.setCluster p v).cores = s.cores := rfl
@[simp] theorem State.setCluster_clusters (s : State) (p : Nat) (v : Cluster) : (s.setCluster p v).clusters = Table.put s.clusters p v := rfl
@[simp] theorem State.setCluster_layers (s : State) (p : Nat) (v : Cluster) : (s.setCluster p v).layers = s.layers := rfl
@[simp] theorem State.setCluster_hbm (s : State) (p : Nat) (v : Cluster) : (s.setCluster p v).hbm = s.hbm := rfl
@[simp] theorem State.setCluster_l1d (s : State) (p : Nat) (v : Cluster) : (s.setCluster p v).l1d = s.l1d := rfl
@[simp] theorem State.setCluster_hs (s : State) (p : Nat) (v : Cluster) : (s.setCluster p v).hs = s.hs := rfl
@[simp] theorem State.setCluster_poison (s : State) (p : Nat) (v : Cluster) : (s.setCluster p v).poison = s.poison := rfl
@[simp] theorem State.setCluster_hbmPoison (s : State) (p : Nat) (v : Cluster) : (s.setCluster p v).hbmPoison = s.hbmPoison := rfl
@[simp] theorem State.setCluster_hsPoison (s : State) (p : Nat) (v : Cluster) : (s.setCluster p v).hsPoison = s.hsPoison := rfl
@[simp] theorem State.setCluster_l1i (s : State) (p : Nat) (v : Cluster) : (s.setCluster p v).l1i = s.l1i := rfl
@[simp] theorem State.setCluster_rdc (s : State) (p : Nat) (v : Cluster) : (s.setCluster p v).rdc = s.rdc := rfl
@[simp] theorem State.setCluster_tlb (s : State) (p : Nat) (v : Cluster) : (s.setCluster p v).tlb = s.tlb := rfl
@[simp] theorem State.setCluster_walkers (s : State) (p : Nat) (v : Cluster) : (s.setCluster p v).walkers = s.walkers := rfl
@[simp] theorem State.setCluster_ctxCache (s : State) (p : Nat) (v : Cluster) : (s.setCluster p v).ctxCache = s.ctxCache := rfl
@[simp] theorem State.setCluster_rope (s : State) (p : Nat) (v : Cluster) : (s.setCluster p v).rope = s.rope := rfl
@[simp] theorem State.setCluster_mirrorInc (s : State) (p : Nat) (v : Cluster) : (s.setCluster p v).mirrorInc = s.mirrorInc := rfl
@[simp] theorem State.setCluster_slot (s : State) (p : Nat) (v : Cluster) : (s.setCluster p v).slot = s.slot := rfl
@[simp] theorem State.setCluster_air (s : State) (p : Nat) (v : Cluster) : (s.setCluster p v).air = s.air := rfl
@[simp] theorem State.setCluster_inForce (s : State) (p : Nat) (v : Cluster) : (s.setCluster p v).inForce = s.inForce := rfl
@[simp] theorem State.setCluster_changes (s : State) (p : Nat) (v : Cluster) : (s.setCluster p v).changes = s.changes := rfl
@[simp] theorem State.setCluster_bdQueue (s : State) (p : Nat) (v : Cluster) : (s.setCluster p v).bdQueue = s.bdQueue := rfl
@[simp] theorem State.setCluster_bdRetrans (s : State) (p : Nat) (v : Cluster) : (s.setCluster p v).bdRetrans = s.bdRetrans := rfl
@[simp] theorem State.setCluster_lanes (s : State) (p : Nat) (v : Cluster) : (s.setCluster p v).lanes = s.lanes := rfl
@[simp] theorem State.setCluster_packets (s : State) (p : Nat) (v : Cluster) : (s.setCluster p v).packets = s.packets := rfl
@[simp] theorem State.setCluster_copies (s : State) (p : Nat) (v : Cluster) : (s.setCluster p v).copies = s.copies := rfl
@[simp] theorem State.setCluster_messages (s : State) (p : Nat) (v : Cluster) : (s.setCluster p v).messages = s.messages := rfl
@[simp] theorem State.setCluster_posted (s : State) (p : Nat) (v : Cluster) : (s.setCluster p v).posted = s.posted := rfl
@[simp] theorem State.setCluster_saved (s : State) (p : Nat) (v : Cluster) : (s.setCluster p v).saved = s.saved := rfl
@[simp] theorem State.setCluster_inbound (s : State) (p : Nat) (v : Cluster) : (s.setCluster p v).inbound = s.inbound := rfl
@[simp] theorem State.setCluster_timedOut (s : State) (p : Nat) (v : Cluster) : (s.setCluster p v).timedOut = s.timedOut := rfl
@[simp] theorem State.setCluster_rpcItem (s : State) (p : Nat) (v : Cluster) : (s.setCluster p v).rpcItem = s.rpcItem := rfl
@[simp] theorem State.setCluster_frames (s : State) (p : Nat) (v : Cluster) : (s.setCluster p v).frames = s.frames := rfl
@[simp] theorem State.setCluster_bd (s : State) (p : Nat) (v : Cluster) : (s.setCluster p v).bd = s.bd := rfl
@[simp] theorem State.setCluster_bdLines (s : State) (p : Nat) (v : Cluster) : (s.setCluster p v).bdLines = s.bdLines := rfl
@[simp] theorem State.setCluster_isig (s : State) (p : Nat) (v : Cluster) : (s.setCluster p v).isig = s.isig := rfl
@[simp] theorem State.setCluster_outbound (s : State) (p : Nat) (v : Cluster) : (s.setCluster p v).outbound = s.outbound := rfl
@[simp] theorem State.setCluster_outReads (s : State) (p : Nat) (v : Cluster) : (s.setCluster p v).outReads = s.outReads := rfl
@[simp] theorem State.setCluster_hostReads (s : State) (p : Nat) (v : Cluster) : (s.setCluster p v).hostReads = s.hostReads := rfl
@[simp] theorem State.setCluster_msix (s : State) (p : Nat) (v : Cluster) : (s.setCluster p v).msix = s.msix := rfl
@[simp] theorem State.setCluster_devState (s : State) (p : Nat) (v : Cluster) : (s.setCluster p v).devState = s.devState := rfl
@[simp] theorem State.setCluster_startStep (s : State) (p : Nat) (v : Cluster) : (s.setCluster p v).startStep = s.startStep := rfl
@[simp] theorem State.setCluster_refused (s : State) (p : Nat) (v : Cluster) : (s.setCluster p v).refused = s.refused := rfl
@[simp] theorem State.setCluster_kept (s : State) (p : Nat) (v : Cluster) : (s.setCluster p v).kept = s.kept := rfl
@[simp] theorem State.setCluster_cold (s : State) (p : Nat) (v : Cluster) : (s.setCluster p v).cold = s.cold := rfl
@[simp] theorem State.setCluster_warm (s : State) (p : Nat) (v : Cluster) : (s.setCluster p v).warm = s.warm := rfl
@[simp] theorem State.setCluster_keep (s : State) (p : Nat) (v : Cluster) : (s.setCluster p v).keep = s.keep := rfl
@[simp] theorem State.setCluster_cairn (s : State) (p : Nat) (v : Cluster) : (s.setCluster p v).cairn = s.cairn := rfl
@[simp] theorem State.setCluster_basecamp (s : State) (p : Nat) (v : Cluster) : (s.setCluster p v).basecamp = s.basecamp := rfl
@[simp] theorem State.setLayer_cur (s : State) (p : Nat) (v : Layer) : (s.setLayer p v).cur = s.cur := rfl
@[simp] theorem State.setLayer_agenda (s : State) (p : Nat) (v : Layer) : (s.setLayer p v).agenda = s.agenda := rfl
@[simp] theorem State.setLayer_free (s : State) (p : Nat) (v : Layer) : (s.setLayer p v).free = s.free := rfl
@[simp] theorem State.setLayer_nextId (s : State) (p : Nat) (v : Layer) : (s.setLayer p v).nextId = s.nextId := rfl
@[simp] theorem State.setLayer_threads (s : State) (p : Nat) (v : Layer) : (s.setLayer p v).threads = s.threads := rfl
@[simp] theorem State.setLayer_cores (s : State) (p : Nat) (v : Layer) : (s.setLayer p v).cores = s.cores := rfl
@[simp] theorem State.setLayer_clusters (s : State) (p : Nat) (v : Layer) : (s.setLayer p v).clusters = s.clusters := rfl
@[simp] theorem State.setLayer_layers (s : State) (p : Nat) (v : Layer) : (s.setLayer p v).layers = Table.put s.layers p v := rfl
@[simp] theorem State.setLayer_hbm (s : State) (p : Nat) (v : Layer) : (s.setLayer p v).hbm = s.hbm := rfl
@[simp] theorem State.setLayer_l1d (s : State) (p : Nat) (v : Layer) : (s.setLayer p v).l1d = s.l1d := rfl
@[simp] theorem State.setLayer_hs (s : State) (p : Nat) (v : Layer) : (s.setLayer p v).hs = s.hs := rfl
@[simp] theorem State.setLayer_poison (s : State) (p : Nat) (v : Layer) : (s.setLayer p v).poison = s.poison := rfl
@[simp] theorem State.setLayer_hbmPoison (s : State) (p : Nat) (v : Layer) : (s.setLayer p v).hbmPoison = s.hbmPoison := rfl
@[simp] theorem State.setLayer_hsPoison (s : State) (p : Nat) (v : Layer) : (s.setLayer p v).hsPoison = s.hsPoison := rfl
@[simp] theorem State.setLayer_l1i (s : State) (p : Nat) (v : Layer) : (s.setLayer p v).l1i = s.l1i := rfl
@[simp] theorem State.setLayer_rdc (s : State) (p : Nat) (v : Layer) : (s.setLayer p v).rdc = s.rdc := rfl
@[simp] theorem State.setLayer_tlb (s : State) (p : Nat) (v : Layer) : (s.setLayer p v).tlb = s.tlb := rfl
@[simp] theorem State.setLayer_walkers (s : State) (p : Nat) (v : Layer) : (s.setLayer p v).walkers = s.walkers := rfl
@[simp] theorem State.setLayer_ctxCache (s : State) (p : Nat) (v : Layer) : (s.setLayer p v).ctxCache = s.ctxCache := rfl
@[simp] theorem State.setLayer_rope (s : State) (p : Nat) (v : Layer) : (s.setLayer p v).rope = s.rope := rfl
@[simp] theorem State.setLayer_mirrorInc (s : State) (p : Nat) (v : Layer) : (s.setLayer p v).mirrorInc = s.mirrorInc := rfl
@[simp] theorem State.setLayer_slot (s : State) (p : Nat) (v : Layer) : (s.setLayer p v).slot = s.slot := rfl
@[simp] theorem State.setLayer_air (s : State) (p : Nat) (v : Layer) : (s.setLayer p v).air = s.air := rfl
@[simp] theorem State.setLayer_inForce (s : State) (p : Nat) (v : Layer) : (s.setLayer p v).inForce = s.inForce := rfl
@[simp] theorem State.setLayer_changes (s : State) (p : Nat) (v : Layer) : (s.setLayer p v).changes = s.changes := rfl
@[simp] theorem State.setLayer_bdQueue (s : State) (p : Nat) (v : Layer) : (s.setLayer p v).bdQueue = s.bdQueue := rfl
@[simp] theorem State.setLayer_bdRetrans (s : State) (p : Nat) (v : Layer) : (s.setLayer p v).bdRetrans = s.bdRetrans := rfl
@[simp] theorem State.setLayer_lanes (s : State) (p : Nat) (v : Layer) : (s.setLayer p v).lanes = s.lanes := rfl
@[simp] theorem State.setLayer_packets (s : State) (p : Nat) (v : Layer) : (s.setLayer p v).packets = s.packets := rfl
@[simp] theorem State.setLayer_copies (s : State) (p : Nat) (v : Layer) : (s.setLayer p v).copies = s.copies := rfl
@[simp] theorem State.setLayer_messages (s : State) (p : Nat) (v : Layer) : (s.setLayer p v).messages = s.messages := rfl
@[simp] theorem State.setLayer_posted (s : State) (p : Nat) (v : Layer) : (s.setLayer p v).posted = s.posted := rfl
@[simp] theorem State.setLayer_saved (s : State) (p : Nat) (v : Layer) : (s.setLayer p v).saved = s.saved := rfl
@[simp] theorem State.setLayer_inbound (s : State) (p : Nat) (v : Layer) : (s.setLayer p v).inbound = s.inbound := rfl
@[simp] theorem State.setLayer_timedOut (s : State) (p : Nat) (v : Layer) : (s.setLayer p v).timedOut = s.timedOut := rfl
@[simp] theorem State.setLayer_rpcItem (s : State) (p : Nat) (v : Layer) : (s.setLayer p v).rpcItem = s.rpcItem := rfl
@[simp] theorem State.setLayer_frames (s : State) (p : Nat) (v : Layer) : (s.setLayer p v).frames = s.frames := rfl
@[simp] theorem State.setLayer_bd (s : State) (p : Nat) (v : Layer) : (s.setLayer p v).bd = s.bd := rfl
@[simp] theorem State.setLayer_bdLines (s : State) (p : Nat) (v : Layer) : (s.setLayer p v).bdLines = s.bdLines := rfl
@[simp] theorem State.setLayer_isig (s : State) (p : Nat) (v : Layer) : (s.setLayer p v).isig = s.isig := rfl
@[simp] theorem State.setLayer_outbound (s : State) (p : Nat) (v : Layer) : (s.setLayer p v).outbound = s.outbound := rfl
@[simp] theorem State.setLayer_outReads (s : State) (p : Nat) (v : Layer) : (s.setLayer p v).outReads = s.outReads := rfl
@[simp] theorem State.setLayer_hostReads (s : State) (p : Nat) (v : Layer) : (s.setLayer p v).hostReads = s.hostReads := rfl
@[simp] theorem State.setLayer_msix (s : State) (p : Nat) (v : Layer) : (s.setLayer p v).msix = s.msix := rfl
@[simp] theorem State.setLayer_devState (s : State) (p : Nat) (v : Layer) : (s.setLayer p v).devState = s.devState := rfl
@[simp] theorem State.setLayer_startStep (s : State) (p : Nat) (v : Layer) : (s.setLayer p v).startStep = s.startStep := rfl
@[simp] theorem State.setLayer_refused (s : State) (p : Nat) (v : Layer) : (s.setLayer p v).refused = s.refused := rfl
@[simp] theorem State.setLayer_kept (s : State) (p : Nat) (v : Layer) : (s.setLayer p v).kept = s.kept := rfl
@[simp] theorem State.setLayer_cold (s : State) (p : Nat) (v : Layer) : (s.setLayer p v).cold = s.cold := rfl
@[simp] theorem State.setLayer_warm (s : State) (p : Nat) (v : Layer) : (s.setLayer p v).warm = s.warm := rfl
@[simp] theorem State.setLayer_keep (s : State) (p : Nat) (v : Layer) : (s.setLayer p v).keep = s.keep := rfl
@[simp] theorem State.setLayer_cairn (s : State) (p : Nat) (v : Layer) : (s.setLayer p v).cairn = s.cairn := rfl
@[simp] theorem State.setLayer_basecamp (s : State) (p : Nat) (v : Layer) : (s.setLayer p v).basecamp = s.basecamp := rfl

/-! ### Updates of `Thread`, field by field -/

@[simp] theorem Thread.retire_resident (t : Thread) : (t.retire).resident = t.resident := rfl
@[simp] theorem Thread.retire_who (t : Thread) : (t.retire).who = t.who := rfl
@[simp] theorem Thread.retire_pc (t : Thread) : (t.retire).pc = t.pc := rfl
@[simp] theorem Thread.retire_x (t : Thread) : (t.retire).x = t.x := rfl
@[simp] theorem Thread.retire_f (t : Thread) : (t.retire).f = t.f := rfl
@[simp] theorem Thread.retire_v (t : Thread) : (t.retire).v = t.v := rfl
@[simp] theorem Thread.retire_k (t : Thread) : (t.retire).k = t.k := rfl
@[simp] theorem Thread.retire_t (t : Thread) : (t.retire).t = t.t := rfl
@[simp] theorem Thread.retire_a (t : Thread) : (t.retire).a = t.a := rfl
@[simp] theorem Thread.retire_wp0 (t : Thread) : (t.retire).wp0 = t.wp0 := rfl
@[simp] theorem Thread.retire_wp1 (t : Thread) : (t.retire).wp1 = t.wp1 := rfl
@[simp] theorem Thread.retire_spare0 (t : Thread) : (t.retire).spare0 = t.spare0 := rfl
@[simp] theorem Thread.retire_spare1 (t : Thread) : (t.retire).spare1 = t.spare1 := rfl
@[simp] theorem Thread.retire_lc0 (t : Thread) : (t.retire).lc0 = t.lc0 := rfl
@[simp] theorem Thread.retire_lc1 (t : Thread) : (t.retire).lc1 = t.lc1 := rfl
@[simp] theorem Thread.retire_lbeg0 (t : Thread) : (t.retire).lbeg0 = t.lbeg0 := rfl
@[simp] theorem Thread.retire_lend0 (t : Thread) : (t.retire).lend0 = t.lend0 := rfl
@[simp] theorem Thread.retire_lbeg1 (t : Thread) : (t.retire).lbeg1 = t.lbeg1 := rfl
@[simp] theorem Thread.retire_lend1 (t : Thread) : (t.retire).lend1 = t.lend1 := rfl
@[simp] theorem Thread.retire_cg (t : Thread) : (t.retire).cg = t.cg := rfl
@[simp] theorem Thread.retire_psig (t : Thread) : (t.retire).psig = t.psig := rfl
@[simp] theorem Thread.retire_ors (t : Thread) : (t.retire).ors = t.ors := rfl
@[simp] theorem Thread.retire_prg (t : Thread) : (t.retire).prg = t.prg := rfl
@[simp] theorem Thread.retire_fcsr (t : Thread) : (t.retire).fcsr = t.fcsr := rfl
@[simp] theorem Thread.retire_tag (t : Thread) : (t.retire).tag = t.tag := rfl
@[simp] theorem Thread.retire_instret (t : Thread) : (t.retire).instret = t.instret + 1 := rfl
@[simp] theorem Thread.retire_step (t : Thread) : (t.retire).step = t.step := rfl
@[simp] theorem Thread.retire_fullAcq (t : Thread) : (t.retire).fullAcq = t.fullAcq := rfl
@[simp] theorem Thread.retire_selInv (t : Thread) : (t.retire).selInv = t.selInv := rfl
@[simp] theorem Thread.retire_status (t : Thread) : (t.retire).status = t.status := rfl
@[simp] theorem Thread.retire_epc (t : Thread) : (t.retire).epc = t.epc := rfl
@[simp] theorem Thread.retire_ecause (t : Thread) : (t.retire).ecause = t.ecause := rfl
@[simp] theorem Thread.retire_eva (t : Thread) : (t.retire).eva = t.eva := rfl
@[simp] theorem Thread.retire_einfo (t : Thread) : (t.retire).einfo = t.einfo := rfl
@[simp] theorem Thread.retire_evec (t : Thread) : (t.retire).evec = t.evec := rfl
@[simp] theorem Thread.retire_kscratch (t : Thread) : (t.retire).kscratch = t.kscratch := rfl
@[simp] theorem Thread.retire_slice (t : Thread) : (t.retire).slice = t.slice := rfl
@[simp] theorem Thread.retire_sliceE (t : Thread) : (t.retire).sliceE = t.sliceE := rfl
@[simp] theorem Thread.retire_sliceRun (t : Thread) : (t.retire).sliceRun = t.sliceRun := rfl
@[simp] theorem Thread.retire_saveCost (t : Thread) : (t.retire).saveCost = t.saveCost := rfl
@[simp] theorem Thread.retire_switchCost (t : Thread) : (t.retire).switchCost = t.switchCost := rfl
@[simp] theorem Thread.retire_clampCnt (t : Thread) : (t.retire).clampCnt = t.clampCnt := rfl
@[simp] theorem Thread.retire_region (t : Thread) : (t.retire).region = t.region := rfl
@[simp] theorem Thread.retire_regionCount (t : Thread) : (t.retire).regionCount = t.regionCount + 1 := rfl
@[simp] theorem Thread.retire_irq16 (t : Thread) : (t.retire).irq16 = t.irq16 := rfl
@[simp] theorem Thread.retire_irq17 (t : Thread) : (t.retire).irq17 = t.irq17 := rfl
@[simp] theorem Thread.retire_copyRecs (t : Thread) : (t.retire).copyRecs = t.copyRecs := rfl
@[simp] theorem Thread.retire_denial (t : Thread) : (t.retire).denial = t.denial := rfl
@[simp] theorem Thread.retire_flipped (t : Thread) : (t.retire).flipped = t.flipped := rfl
@[simp] theorem Thread.retire_parked (t : Thread) : (t.retire).parked = none := rfl
@[simp] theorem Thread.retire_reqs (t : Thread) : (t.retire).reqs = [] := rfl
@[simp] theorem Thread.retire_answers (t : Thread) : (t.retire).answers = [] := rfl
@[simp] theorem Thread.retire_sent (t : Thread) : (t.retire).sent = false := rfl
@[simp] theorem Thread.retire_waiting (t : Thread) : (t.retire).waiting = false := rfl
@[simp] theorem Thread.retire_bits (t : Thread) : (t.retire).bits = t.bits := rfl
@[simp] theorem Thread.retire_plan (t : Thread) : (t.retire).plan = [] := rfl
@[simp] theorem Thread.retire_got (t : Thread) : (t.retire).got = [] := rfl
@[simp] theorem Thread.retire_sending (t : Thread) : (t.retire).sending = false := rfl
@[simp] theorem Thread.retire_popped (t : Thread) : (t.retire).popped = none := rfl
@[simp] theorem Thread.retire_checkpoints (t : Thread) : (t.retire).checkpoints = t.checkpoints := rfl
@[simp] theorem Thread.retire_looped (t : Thread) : (t.retire).looped = t.looped := rfl
@[simp] theorem Thread.retire_atVector (t : Thread) : (t.retire).atVector = false := rfl
@[simp] theorem Thread.retire_shadow (t : Thread) : (t.retire).shadow = t.shadow := rfl
@[simp] theorem Thread.retire_fetchAge (t : Thread) : (t.retire).fetchAge = t.fetchAge := rfl
@[simp] theorem Thread.retire_decodeAge (t : Thread) : (t.retire).decodeAge = t.decodeAge := rfl
@[simp] theorem Thread.retire_buffered (t : Thread) : (t.retire).buffered = (if t.ahead = 0 then t.buffered - 1 else t.buffered) := rfl
@[simp] theorem Thread.retire_ahead (t : Thread) : (t.retire).ahead = t.ahead - 1 := rfl
@[simp] theorem Thread.retire_unissued (t : Thread) : (t.retire).unissued = (min t.unissued (t.ahead - 1)) := rfl
@[simp] theorem Thread.retire_crc (t : Thread) : (t.retire).crc = t.crc := rfl
@[simp] theorem Thread.retire_shadowCrc (t : Thread) : (t.retire).shadowCrc = t.shadowCrc := rfl
@[simp] theorem Thread.retire_sinceExchange (t : Thread) : (t.retire).sinceExchange = t.sinceExchange + 1 := rfl
@[simp] theorem Thread.retire_exchangeDue (t : Thread) : (t.retire).exchangeDue = (t.exchangeDue || (t.paired && (t.sinceExchange + 1) % 4096 == 0)) := rfl
@[simp] theorem Thread.retire_entered (t : Thread) : (t.retire).entered = t.entered := rfl
@[simp] theorem Thread.retire_tdup (t : Thread) : (t.retire).tdup = t.tdup := rfl
@[simp] theorem Thread.retire_poisoned (t : Thread) : (t.retire).poisoned = t.poisoned := rfl
@[simp] theorem Thread.retire_te (t : Thread) : (t.retire).te = t.te := rfl
@[simp] theorem Thread.retire_pairs (t : Thread) : (t.retire).pairs = t.pairs := rfl
@[simp] theorem Thread.retire_plane0 (t : Thread) : (t.retire).plane0 = t.plane0 := rfl
@[simp] theorem Thread.retire_plane1 (t : Thread) : (t.retire).plane1 = t.plane1 := rfl
@[simp] theorem Thread.retire_teSeq (t : Thread) : (t.retire).teSeq = t.teSeq := rfl
@[simp] theorem Thread.setStatus_resident (t : Thread) (w : Word) : (t.setStatus w).resident = t.resident := rfl
@[simp] theorem Thread.setStatus_who (t : Thread) (w : Word) : (t.setStatus w).who = t.who := rfl
@[simp] theorem Thread.setStatus_pc (t : Thread) (w : Word) : (t.setStatus w).pc = t.pc := rfl
@[simp] theorem Thread.setStatus_x (t : Thread) (w : Word) : (t.setStatus w).x = t.x := rfl
@[simp] theorem Thread.setStatus_f (t : Thread) (w : Word) : (t.setStatus w).f = t.f := rfl
@[simp] theorem Thread.setStatus_v (t : Thread) (w : Word) : (t.setStatus w).v = t.v := rfl
@[simp] theorem Thread.setStatus_k (t : Thread) (w : Word) : (t.setStatus w).k = t.k := rfl
@[simp] theorem Thread.setStatus_t (t : Thread) (w : Word) : (t.setStatus w).t = t.t := rfl
@[simp] theorem Thread.setStatus_a (t : Thread) (w : Word) : (t.setStatus w).a = t.a := rfl
@[simp] theorem Thread.setStatus_wp0 (t : Thread) (w : Word) : (t.setStatus w).wp0 = t.wp0 := rfl
@[simp] theorem Thread.setStatus_wp1 (t : Thread) (w : Word) : (t.setStatus w).wp1 = t.wp1 := rfl
@[simp] theorem Thread.setStatus_spare0 (t : Thread) (w : Word) : (t.setStatus w).spare0 = t.spare0 := rfl
@[simp] theorem Thread.setStatus_spare1 (t : Thread) (w : Word) : (t.setStatus w).spare1 = t.spare1 := rfl
@[simp] theorem Thread.setStatus_lc0 (t : Thread) (w : Word) : (t.setStatus w).lc0 = t.lc0 := rfl
@[simp] theorem Thread.setStatus_lc1 (t : Thread) (w : Word) : (t.setStatus w).lc1 = t.lc1 := rfl
@[simp] theorem Thread.setStatus_lbeg0 (t : Thread) (w : Word) : (t.setStatus w).lbeg0 = t.lbeg0 := rfl
@[simp] theorem Thread.setStatus_lend0 (t : Thread) (w : Word) : (t.setStatus w).lend0 = t.lend0 := rfl
@[simp] theorem Thread.setStatus_lbeg1 (t : Thread) (w : Word) : (t.setStatus w).lbeg1 = t.lbeg1 := rfl
@[simp] theorem Thread.setStatus_lend1 (t : Thread) (w : Word) : (t.setStatus w).lend1 = t.lend1 := rfl
@[simp] theorem Thread.setStatus_cg (t : Thread) (w : Word) : (t.setStatus w).cg = t.cg := rfl
@[simp] theorem Thread.setStatus_psig (t : Thread) (w : Word) : (t.setStatus w).psig = t.psig := rfl
@[simp] theorem Thread.setStatus_ors (t : Thread) (w : Word) : (t.setStatus w).ors = t.ors := rfl
@[simp] theorem Thread.setStatus_prg (t : Thread) (w : Word) : (t.setStatus w).prg = t.prg := rfl
@[simp] theorem Thread.setStatus_fcsr (t : Thread) (w : Word) : (t.setStatus w).fcsr = t.fcsr := rfl
@[simp] theorem Thread.setStatus_tag (t : Thread) (w : Word) : (t.setStatus w).tag = t.tag := rfl
@[simp] theorem Thread.setStatus_instret (t : Thread) (w : Word) : (t.setStatus w).instret = t.instret := rfl
@[simp] theorem Thread.setStatus_step (t : Thread) (w : Word) : (t.setStatus w).step = t.step := rfl
@[simp] theorem Thread.setStatus_fullAcq (t : Thread) (w : Word) : (t.setStatus w).fullAcq = t.fullAcq := rfl
@[simp] theorem Thread.setStatus_selInv (t : Thread) (w : Word) : (t.setStatus w).selInv = t.selInv := rfl
@[simp] theorem Thread.setStatus_status (t : Thread) (w : Word) : (t.setStatus w).status = w := rfl
@[simp] theorem Thread.setStatus_epc (t : Thread) (w : Word) : (t.setStatus w).epc = t.epc := rfl
@[simp] theorem Thread.setStatus_ecause (t : Thread) (w : Word) : (t.setStatus w).ecause = t.ecause := rfl
@[simp] theorem Thread.setStatus_eva (t : Thread) (w : Word) : (t.setStatus w).eva = t.eva := rfl
@[simp] theorem Thread.setStatus_einfo (t : Thread) (w : Word) : (t.setStatus w).einfo = t.einfo := rfl
@[simp] theorem Thread.setStatus_evec (t : Thread) (w : Word) : (t.setStatus w).evec = t.evec := rfl
@[simp] theorem Thread.setStatus_kscratch (t : Thread) (w : Word) : (t.setStatus w).kscratch = t.kscratch := rfl
@[simp] theorem Thread.setStatus_slice (t : Thread) (w : Word) : (t.setStatus w).slice = t.slice := rfl
@[simp] theorem Thread.setStatus_sliceE (t : Thread) (w : Word) : (t.setStatus w).sliceE = t.sliceE := rfl
@[simp] theorem Thread.setStatus_sliceRun (t : Thread) (w : Word) : (t.setStatus w).sliceRun = t.sliceRun := rfl
@[simp] theorem Thread.setStatus_saveCost (t : Thread) (w : Word) : (t.setStatus w).saveCost = t.saveCost := rfl
@[simp] theorem Thread.setStatus_switchCost (t : Thread) (w : Word) : (t.setStatus w).switchCost = t.switchCost := rfl
@[simp] theorem Thread.setStatus_clampCnt (t : Thread) (w : Word) : (t.setStatus w).clampCnt = t.clampCnt := rfl
@[simp] theorem Thread.setStatus_region (t : Thread) (w : Word) : (t.setStatus w).region = t.region := rfl
@[simp] theorem Thread.setStatus_regionCount (t : Thread) (w : Word) : (t.setStatus w).regionCount = t.regionCount := rfl
@[simp] theorem Thread.setStatus_irq16 (t : Thread) (w : Word) : (t.setStatus w).irq16 = t.irq16 := rfl
@[simp] theorem Thread.setStatus_irq17 (t : Thread) (w : Word) : (t.setStatus w).irq17 = t.irq17 := rfl
@[simp] theorem Thread.setStatus_copyRecs (t : Thread) (w : Word) : (t.setStatus w).copyRecs = t.copyRecs := rfl
@[simp] theorem Thread.setStatus_denial (t : Thread) (w : Word) : (t.setStatus w).denial = t.denial := rfl
@[simp] theorem Thread.setStatus_flipped (t : Thread) (w : Word) : (t.setStatus w).flipped = t.flipped := rfl
@[simp] theorem Thread.setStatus_parked (t : Thread) (w : Word) : (t.setStatus w).parked = t.parked := rfl
@[simp] theorem Thread.setStatus_reqs (t : Thread) (w : Word) : (t.setStatus w).reqs = t.reqs := rfl
@[simp] theorem Thread.setStatus_answers (t : Thread) (w : Word) : (t.setStatus w).answers = t.answers := rfl
@[simp] theorem Thread.setStatus_sent (t : Thread) (w : Word) : (t.setStatus w).sent = t.sent := rfl
@[simp] theorem Thread.setStatus_waiting (t : Thread) (w : Word) : (t.setStatus w).waiting = t.waiting := rfl
@[simp] theorem Thread.setStatus_bits (t : Thread) (w : Word) : (t.setStatus w).bits = t.bits := rfl
@[simp] theorem Thread.setStatus_plan (t : Thread) (w : Word) : (t.setStatus w).plan = t.plan := rfl
@[simp] theorem Thread.setStatus_got (t : Thread) (w : Word) : (t.setStatus w).got = t.got := rfl
@[simp] theorem Thread.setStatus_sending (t : Thread) (w : Word) : (t.setStatus w).sending = t.sending := rfl
@[simp] theorem Thread.setStatus_popped (t : Thread) (w : Word) : (t.setStatus w).popped = t.popped := rfl
@[simp] theorem Thread.setStatus_checkpoints (t : Thread) (w : Word) : (t.setStatus w).checkpoints = t.checkpoints := rfl
@[simp] theorem Thread.setStatus_looped (t : Thread) (w : Word) : (t.setStatus w).looped = t.looped := rfl
@[simp] theorem Thread.setStatus_atVector (t : Thread) (w : Word) : (t.setStatus w).atVector = t.atVector := rfl
@[simp] theorem Thread.setStatus_shadow (t : Thread) (w : Word) : (t.setStatus w).shadow = t.shadow := rfl
@[simp] theorem Thread.setStatus_fetchAge (t : Thread) (w : Word) : (t.setStatus w).fetchAge = t.fetchAge := rfl
@[simp] theorem Thread.setStatus_decodeAge (t : Thread) (w : Word) : (t.setStatus w).decodeAge = t.decodeAge := rfl
@[simp] theorem Thread.setStatus_buffered (t : Thread) (w : Word) : (t.setStatus w).buffered = t.buffered := rfl
@[simp] theorem Thread.setStatus_ahead (t : Thread) (w : Word) : (t.setStatus w).ahead = t.ahead := rfl
@[simp] theorem Thread.setStatus_unissued (t : Thread) (w : Word) : (t.setStatus w).unissued = t.unissued := rfl
@[simp] theorem Thread.setStatus_crc (t : Thread) (w : Word) : (t.setStatus w).crc = t.crc := rfl
@[simp] theorem Thread.setStatus_shadowCrc (t : Thread) (w : Word) : (t.setStatus w).shadowCrc = t.shadowCrc := rfl
@[simp] theorem Thread.setStatus_sinceExchange (t : Thread) (w : Word) : (t.setStatus w).sinceExchange = t.sinceExchange := rfl
@[simp] theorem Thread.setStatus_exchangeDue (t : Thread) (w : Word) : (t.setStatus w).exchangeDue = t.exchangeDue := rfl
@[simp] theorem Thread.setStatus_entered (t : Thread) (w : Word) : (t.setStatus w).entered = t.entered := rfl
@[simp] theorem Thread.setStatus_tdup (t : Thread) (w : Word) : (t.setStatus w).tdup = t.tdup := rfl
@[simp] theorem Thread.setStatus_poisoned (t : Thread) (w : Word) : (t.setStatus w).poisoned = t.poisoned := rfl
@[simp] theorem Thread.setStatus_te (t : Thread) (w : Word) : (t.setStatus w).te = t.te := rfl
@[simp] theorem Thread.setStatus_pairs (t : Thread) (w : Word) : (t.setStatus w).pairs = t.pairs := rfl
@[simp] theorem Thread.setStatus_plane0 (t : Thread) (w : Word) : (t.setStatus w).plane0 = t.plane0 := rfl
@[simp] theorem Thread.setStatus_plane1 (t : Thread) (w : Word) : (t.setStatus w).plane1 = t.plane1 := rfl
@[simp] theorem Thread.setStatus_teSeq (t : Thread) (w : Word) : (t.setStatus w).teSeq = t.teSeq := rfl
@[simp] theorem Thread.dirty_resident (t : Thread) (i : Nat) : (t.dirty i).resident = t.resident := rfl
@[simp] theorem Thread.dirty_who (t : Thread) (i : Nat) : (t.dirty i).who = t.who := rfl
@[simp] theorem Thread.dirty_pc (t : Thread) (i : Nat) : (t.dirty i).pc = t.pc := rfl
@[simp] theorem Thread.dirty_x (t : Thread) (i : Nat) : (t.dirty i).x = t.x := rfl
@[simp] theorem Thread.dirty_f (t : Thread) (i : Nat) : (t.dirty i).f = t.f := rfl
@[simp] theorem Thread.dirty_v (t : Thread) (i : Nat) : (t.dirty i).v = t.v := rfl
@[simp] theorem Thread.dirty_k (t : Thread) (i : Nat) : (t.dirty i).k = t.k := rfl
@[simp] theorem Thread.dirty_t (t : Thread) (i : Nat) : (t.dirty i).t = t.t := rfl
@[simp] theorem Thread.dirty_a (t : Thread) (i : Nat) : (t.dirty i).a = t.a := rfl
@[simp] theorem Thread.dirty_wp0 (t : Thread) (i : Nat) : (t.dirty i).wp0 = t.wp0 := rfl
@[simp] theorem Thread.dirty_wp1 (t : Thread) (i : Nat) : (t.dirty i).wp1 = t.wp1 := rfl
@[simp] theorem Thread.dirty_spare0 (t : Thread) (i : Nat) : (t.dirty i).spare0 = t.spare0 := rfl
@[simp] theorem Thread.dirty_spare1 (t : Thread) (i : Nat) : (t.dirty i).spare1 = t.spare1 := rfl
@[simp] theorem Thread.dirty_lc0 (t : Thread) (i : Nat) : (t.dirty i).lc0 = t.lc0 := rfl
@[simp] theorem Thread.dirty_lc1 (t : Thread) (i : Nat) : (t.dirty i).lc1 = t.lc1 := rfl
@[simp] theorem Thread.dirty_lbeg0 (t : Thread) (i : Nat) : (t.dirty i).lbeg0 = t.lbeg0 := rfl
@[simp] theorem Thread.dirty_lend0 (t : Thread) (i : Nat) : (t.dirty i).lend0 = t.lend0 := rfl
@[simp] theorem Thread.dirty_lbeg1 (t : Thread) (i : Nat) : (t.dirty i).lbeg1 = t.lbeg1 := rfl
@[simp] theorem Thread.dirty_lend1 (t : Thread) (i : Nat) : (t.dirty i).lend1 = t.lend1 := rfl
@[simp] theorem Thread.dirty_cg (t : Thread) (i : Nat) : (t.dirty i).cg = t.cg := rfl
@[simp] theorem Thread.dirty_psig (t : Thread) (i : Nat) : (t.dirty i).psig = t.psig := rfl
@[simp] theorem Thread.dirty_ors (t : Thread) (i : Nat) : (t.dirty i).ors = t.ors := rfl
@[simp] theorem Thread.dirty_prg (t : Thread) (i : Nat) : (t.dirty i).prg = t.prg := rfl
@[simp] theorem Thread.dirty_fcsr (t : Thread) (i : Nat) : (t.dirty i).fcsr = t.fcsr := rfl
@[simp] theorem Thread.dirty_tag (t : Thread) (i : Nat) : (t.dirty i).tag = t.tag := rfl
@[simp] theorem Thread.dirty_instret (t : Thread) (i : Nat) : (t.dirty i).instret = t.instret := rfl
@[simp] theorem Thread.dirty_step (t : Thread) (i : Nat) : (t.dirty i).step = t.step := rfl
@[simp] theorem Thread.dirty_fullAcq (t : Thread) (i : Nat) : (t.dirty i).fullAcq = t.fullAcq := rfl
@[simp] theorem Thread.dirty_selInv (t : Thread) (i : Nat) : (t.dirty i).selInv = t.selInv := rfl
@[simp] theorem Thread.dirty_status (t : Thread) (i : Nat) : (t.dirty i).status = t.status ||| oneBit i := rfl
@[simp] theorem Thread.dirty_epc (t : Thread) (i : Nat) : (t.dirty i).epc = t.epc := rfl
@[simp] theorem Thread.dirty_ecause (t : Thread) (i : Nat) : (t.dirty i).ecause = t.ecause := rfl
@[simp] theorem Thread.dirty_eva (t : Thread) (i : Nat) : (t.dirty i).eva = t.eva := rfl
@[simp] theorem Thread.dirty_einfo (t : Thread) (i : Nat) : (t.dirty i).einfo = t.einfo := rfl
@[simp] theorem Thread.dirty_evec (t : Thread) (i : Nat) : (t.dirty i).evec = t.evec := rfl
@[simp] theorem Thread.dirty_kscratch (t : Thread) (i : Nat) : (t.dirty i).kscratch = t.kscratch := rfl
@[simp] theorem Thread.dirty_slice (t : Thread) (i : Nat) : (t.dirty i).slice = t.slice := rfl
@[simp] theorem Thread.dirty_sliceE (t : Thread) (i : Nat) : (t.dirty i).sliceE = t.sliceE := rfl
@[simp] theorem Thread.dirty_sliceRun (t : Thread) (i : Nat) : (t.dirty i).sliceRun = t.sliceRun := rfl
@[simp] theorem Thread.dirty_saveCost (t : Thread) (i : Nat) : (t.dirty i).saveCost = t.saveCost := rfl
@[simp] theorem Thread.dirty_switchCost (t : Thread) (i : Nat) : (t.dirty i).switchCost = t.switchCost := rfl
@[simp] theorem Thread.dirty_clampCnt (t : Thread) (i : Nat) : (t.dirty i).clampCnt = t.clampCnt := rfl
@[simp] theorem Thread.dirty_region (t : Thread) (i : Nat) : (t.dirty i).region = t.region := rfl
@[simp] theorem Thread.dirty_regionCount (t : Thread) (i : Nat) : (t.dirty i).regionCount = t.regionCount := rfl
@[simp] theorem Thread.dirty_irq16 (t : Thread) (i : Nat) : (t.dirty i).irq16 = t.irq16 := rfl
@[simp] theorem Thread.dirty_irq17 (t : Thread) (i : Nat) : (t.dirty i).irq17 = t.irq17 := rfl
@[simp] theorem Thread.dirty_copyRecs (t : Thread) (i : Nat) : (t.dirty i).copyRecs = t.copyRecs := rfl
@[simp] theorem Thread.dirty_denial (t : Thread) (i : Nat) : (t.dirty i).denial = t.denial := rfl
@[simp] theorem Thread.dirty_flipped (t : Thread) (i : Nat) : (t.dirty i).flipped = t.flipped := rfl
@[simp] theorem Thread.dirty_parked (t : Thread) (i : Nat) : (t.dirty i).parked = t.parked := rfl
@[simp] theorem Thread.dirty_reqs (t : Thread) (i : Nat) : (t.dirty i).reqs = t.reqs := rfl
@[simp] theorem Thread.dirty_answers (t : Thread) (i : Nat) : (t.dirty i).answers = t.answers := rfl
@[simp] theorem Thread.dirty_sent (t : Thread) (i : Nat) : (t.dirty i).sent = t.sent := rfl
@[simp] theorem Thread.dirty_waiting (t : Thread) (i : Nat) : (t.dirty i).waiting = t.waiting := rfl
@[simp] theorem Thread.dirty_bits (t : Thread) (i : Nat) : (t.dirty i).bits = t.bits := rfl
@[simp] theorem Thread.dirty_plan (t : Thread) (i : Nat) : (t.dirty i).plan = t.plan := rfl
@[simp] theorem Thread.dirty_got (t : Thread) (i : Nat) : (t.dirty i).got = t.got := rfl
@[simp] theorem Thread.dirty_sending (t : Thread) (i : Nat) : (t.dirty i).sending = t.sending := rfl
@[simp] theorem Thread.dirty_popped (t : Thread) (i : Nat) : (t.dirty i).popped = t.popped := rfl
@[simp] theorem Thread.dirty_checkpoints (t : Thread) (i : Nat) : (t.dirty i).checkpoints = t.checkpoints := rfl
@[simp] theorem Thread.dirty_looped (t : Thread) (i : Nat) : (t.dirty i).looped = t.looped := rfl
@[simp] theorem Thread.dirty_atVector (t : Thread) (i : Nat) : (t.dirty i).atVector = t.atVector := rfl
@[simp] theorem Thread.dirty_shadow (t : Thread) (i : Nat) : (t.dirty i).shadow = t.shadow := rfl
@[simp] theorem Thread.dirty_fetchAge (t : Thread) (i : Nat) : (t.dirty i).fetchAge = t.fetchAge := rfl
@[simp] theorem Thread.dirty_decodeAge (t : Thread) (i : Nat) : (t.dirty i).decodeAge = t.decodeAge := rfl
@[simp] theorem Thread.dirty_buffered (t : Thread) (i : Nat) : (t.dirty i).buffered = t.buffered := rfl
@[simp] theorem Thread.dirty_ahead (t : Thread) (i : Nat) : (t.dirty i).ahead = t.ahead := rfl
@[simp] theorem Thread.dirty_unissued (t : Thread) (i : Nat) : (t.dirty i).unissued = t.unissued := rfl
@[simp] theorem Thread.dirty_crc (t : Thread) (i : Nat) : (t.dirty i).crc = t.crc := rfl
@[simp] theorem Thread.dirty_shadowCrc (t : Thread) (i : Nat) : (t.dirty i).shadowCrc = t.shadowCrc := rfl
@[simp] theorem Thread.dirty_sinceExchange (t : Thread) (i : Nat) : (t.dirty i).sinceExchange = t.sinceExchange := rfl
@[simp] theorem Thread.dirty_exchangeDue (t : Thread) (i : Nat) : (t.dirty i).exchangeDue = t.exchangeDue := rfl
@[simp] theorem Thread.dirty_entered (t : Thread) (i : Nat) : (t.dirty i).entered = t.entered := rfl
@[simp] theorem Thread.dirty_tdup (t : Thread) (i : Nat) : (t.dirty i).tdup = t.tdup := rfl
@[simp] theorem Thread.dirty_poisoned (t : Thread) (i : Nat) : (t.dirty i).poisoned = t.poisoned := rfl
@[simp] theorem Thread.dirty_te (t : Thread) (i : Nat) : (t.dirty i).te = t.te := rfl
@[simp] theorem Thread.dirty_pairs (t : Thread) (i : Nat) : (t.dirty i).pairs = t.pairs := rfl
@[simp] theorem Thread.dirty_plane0 (t : Thread) (i : Nat) : (t.dirty i).plane0 = t.plane0 := rfl
@[simp] theorem Thread.dirty_plane1 (t : Thread) (i : Nat) : (t.dirty i).plane1 = t.plane1 := rfl
@[simp] theorem Thread.dirty_teSeq (t : Thread) (i : Nat) : (t.dirty i).teSeq = t.teSeq := rfl
@[simp] theorem Thread.irrev_resident (t : Thread) : (t.irrev).resident = t.resident := rfl
@[simp] theorem Thread.irrev_who (t : Thread) : (t.irrev).who = t.who := rfl
@[simp] theorem Thread.irrev_pc (t : Thread) : (t.irrev).pc = t.pc := rfl
@[simp] theorem Thread.irrev_x (t : Thread) : (t.irrev).x = t.x := rfl
@[simp] theorem Thread.irrev_f (t : Thread) : (t.irrev).f = t.f := rfl
@[simp] theorem Thread.irrev_v (t : Thread) : (t.irrev).v = t.v := rfl
@[simp] theorem Thread.irrev_k (t : Thread) : (t.irrev).k = t.k := rfl
@[simp] theorem Thread.irrev_t (t : Thread) : (t.irrev).t = t.t := rfl
@[simp] theorem Thread.irrev_a (t : Thread) : (t.irrev).a = t.a := rfl
@[simp] theorem Thread.irrev_wp0 (t : Thread) : (t.irrev).wp0 = t.wp0 := rfl
@[simp] theorem Thread.irrev_wp1 (t : Thread) : (t.irrev).wp1 = t.wp1 := rfl
@[simp] theorem Thread.irrev_spare0 (t : Thread) : (t.irrev).spare0 = t.spare0 := rfl
@[simp] theorem Thread.irrev_spare1 (t : Thread) : (t.irrev).spare1 = t.spare1 := rfl
@[simp] theorem Thread.irrev_lc0 (t : Thread) : (t.irrev).lc0 = t.lc0 := rfl
@[simp] theorem Thread.irrev_lc1 (t : Thread) : (t.irrev).lc1 = t.lc1 := rfl
@[simp] theorem Thread.irrev_lbeg0 (t : Thread) : (t.irrev).lbeg0 = t.lbeg0 := rfl
@[simp] theorem Thread.irrev_lend0 (t : Thread) : (t.irrev).lend0 = t.lend0 := rfl
@[simp] theorem Thread.irrev_lbeg1 (t : Thread) : (t.irrev).lbeg1 = t.lbeg1 := rfl
@[simp] theorem Thread.irrev_lend1 (t : Thread) : (t.irrev).lend1 = t.lend1 := rfl
@[simp] theorem Thread.irrev_cg (t : Thread) : (t.irrev).cg = t.cg := rfl
@[simp] theorem Thread.irrev_psig (t : Thread) : (t.irrev).psig = t.psig := rfl
@[simp] theorem Thread.irrev_ors (t : Thread) : (t.irrev).ors = t.ors := rfl
@[simp] theorem Thread.irrev_prg (t : Thread) : (t.irrev).prg = t.prg := rfl
@[simp] theorem Thread.irrev_fcsr (t : Thread) : (t.irrev).fcsr = t.fcsr := rfl
@[simp] theorem Thread.irrev_tag (t : Thread) : (t.irrev).tag = t.tag := rfl
@[simp] theorem Thread.irrev_instret (t : Thread) : (t.irrev).instret = t.instret := rfl
@[simp] theorem Thread.irrev_step (t : Thread) : (t.irrev).step = t.step := rfl
@[simp] theorem Thread.irrev_fullAcq (t : Thread) : (t.irrev).fullAcq = t.fullAcq := rfl
@[simp] theorem Thread.irrev_selInv (t : Thread) : (t.irrev).selInv = t.selInv := rfl
@[simp] theorem Thread.irrev_status (t : Thread) : (t.irrev).status = t.status := rfl
@[simp] theorem Thread.irrev_epc (t : Thread) : (t.irrev).epc = t.epc := rfl
@[simp] theorem Thread.irrev_ecause (t : Thread) : (t.irrev).ecause = t.ecause := rfl
@[simp] theorem Thread.irrev_eva (t : Thread) : (t.irrev).eva = t.eva := rfl
@[simp] theorem Thread.irrev_einfo (t : Thread) : (t.irrev).einfo = t.einfo := rfl
@[simp] theorem Thread.irrev_evec (t : Thread) : (t.irrev).evec = t.evec := rfl
@[simp] theorem Thread.irrev_kscratch (t : Thread) : (t.irrev).kscratch = t.kscratch := rfl
@[simp] theorem Thread.irrev_slice (t : Thread) : (t.irrev).slice = t.slice := rfl
@[simp] theorem Thread.irrev_sliceE (t : Thread) : (t.irrev).sliceE = t.sliceE := rfl
@[simp] theorem Thread.irrev_sliceRun (t : Thread) : (t.irrev).sliceRun = t.sliceRun := rfl
@[simp] theorem Thread.irrev_saveCost (t : Thread) : (t.irrev).saveCost = t.saveCost := rfl
@[simp] theorem Thread.irrev_switchCost (t : Thread) : (t.irrev).switchCost = t.switchCost := rfl
@[simp] theorem Thread.irrev_clampCnt (t : Thread) : (t.irrev).clampCnt = t.clampCnt := rfl
@[simp] theorem Thread.irrev_region (t : Thread) : (t.irrev).region = putBit t.region regionIrrev true := rfl
@[simp] theorem Thread.irrev_regionCount (t : Thread) : (t.irrev).regionCount = t.regionCount := rfl
@[simp] theorem Thread.irrev_irq16 (t : Thread) : (t.irrev).irq16 = t.irq16 := rfl
@[simp] theorem Thread.irrev_irq17 (t : Thread) : (t.irrev).irq17 = t.irq17 := rfl
@[simp] theorem Thread.irrev_copyRecs (t : Thread) : (t.irrev).copyRecs = t.copyRecs := rfl
@[simp] theorem Thread.irrev_denial (t : Thread) : (t.irrev).denial = t.denial := rfl
@[simp] theorem Thread.irrev_flipped (t : Thread) : (t.irrev).flipped = t.flipped := rfl
@[simp] theorem Thread.irrev_parked (t : Thread) : (t.irrev).parked = t.parked := rfl
@[simp] theorem Thread.irrev_reqs (t : Thread) : (t.irrev).reqs = t.reqs := rfl
@[simp] theorem Thread.irrev_answers (t : Thread) : (t.irrev).answers = t.answers := rfl
@[simp] theorem Thread.irrev_sent (t : Thread) : (t.irrev).sent = t.sent := rfl
@[simp] theorem Thread.irrev_waiting (t : Thread) : (t.irrev).waiting = t.waiting := rfl
@[simp] theorem Thread.irrev_bits (t : Thread) : (t.irrev).bits = t.bits := rfl
@[simp] theorem Thread.irrev_plan (t : Thread) : (t.irrev).plan = t.plan := rfl
@[simp] theorem Thread.irrev_got (t : Thread) : (t.irrev).got = t.got := rfl
@[simp] theorem Thread.irrev_sending (t : Thread) : (t.irrev).sending = t.sending := rfl
@[simp] theorem Thread.irrev_popped (t : Thread) : (t.irrev).popped = t.popped := rfl
@[simp] theorem Thread.irrev_checkpoints (t : Thread) : (t.irrev).checkpoints = t.checkpoints := rfl
@[simp] theorem Thread.irrev_looped (t : Thread) : (t.irrev).looped = t.looped := rfl
@[simp] theorem Thread.irrev_atVector (t : Thread) : (t.irrev).atVector = t.atVector := rfl
@[simp] theorem Thread.irrev_shadow (t : Thread) : (t.irrev).shadow = t.shadow := rfl
@[simp] theorem Thread.irrev_fetchAge (t : Thread) : (t.irrev).fetchAge = t.fetchAge := rfl
@[simp] theorem Thread.irrev_decodeAge (t : Thread) : (t.irrev).decodeAge = t.decodeAge := rfl
@[simp] theorem Thread.irrev_buffered (t : Thread) : (t.irrev).buffered = t.buffered := rfl
@[simp] theorem Thread.irrev_ahead (t : Thread) : (t.irrev).ahead = t.ahead := rfl
@[simp] theorem Thread.irrev_unissued (t : Thread) : (t.irrev).unissued = t.unissued := rfl
@[simp] theorem Thread.irrev_crc (t : Thread) : (t.irrev).crc = t.crc := rfl
@[simp] theorem Thread.irrev_shadowCrc (t : Thread) : (t.irrev).shadowCrc = t.shadowCrc := rfl
@[simp] theorem Thread.irrev_sinceExchange (t : Thread) : (t.irrev).sinceExchange = t.sinceExchange := rfl
@[simp] theorem Thread.irrev_exchangeDue (t : Thread) : (t.irrev).exchangeDue = t.exchangeDue := rfl
@[simp] theorem Thread.irrev_entered (t : Thread) : (t.irrev).entered = t.entered := rfl
@[simp] theorem Thread.irrev_tdup (t : Thread) : (t.irrev).tdup = t.tdup := rfl
@[simp] theorem Thread.irrev_poisoned (t : Thread) : (t.irrev).poisoned = t.poisoned := rfl
@[simp] theorem Thread.irrev_te (t : Thread) : (t.irrev).te = t.te := rfl
@[simp] theorem Thread.irrev_pairs (t : Thread) : (t.irrev).pairs = t.pairs := rfl
@[simp] theorem Thread.irrev_plane0 (t : Thread) : (t.irrev).plane0 = t.plane0 := rfl
@[simp] theorem Thread.irrev_plane1 (t : Thread) : (t.irrev).plane1 = t.plane1 := rfl
@[simp] theorem Thread.irrev_teSeq (t : Thread) : (t.irrev).teSeq = t.teSeq := rfl
@[simp] theorem Thread.trap_resident (t : Thread) (c : Nat) (b : Bool) (e v i : Word) : (t.trap c b e v i).resident = t.resident := rfl
@[simp] theorem Thread.trap_who (t : Thread) (c : Nat) (b : Bool) (e v i : Word) : (t.trap c b e v i).who = t.who := rfl
@[simp] theorem Thread.trap_pc (t : Thread) (c : Nat) (b : Bool) (e v i : Word) : (t.trap c b e v i).pc = t.vector (causeClass c) := rfl
@[simp] theorem Thread.trap_x (t : Thread) (c : Nat) (b : Bool) (e v i : Word) : (t.trap c b e v i).x = t.x := rfl
@[simp] theorem Thread.trap_f (t : Thread) (c : Nat) (b : Bool) (e v i : Word) : (t.trap c b e v i).f = t.f := rfl
@[simp] theorem Thread.trap_v (t : Thread) (c : Nat) (b : Bool) (e v i : Word) : (t.trap c b e v i).v = t.v := rfl
@[simp] theorem Thread.trap_k (t : Thread) (c : Nat) (b : Bool) (e v i : Word) : (t.trap c b e v i).k = t.k := rfl
@[simp] theorem Thread.trap_t (t : Thread) (c : Nat) (b : Bool) (e v i : Word) : (t.trap c b e v i).t = t.t := rfl
@[simp] theorem Thread.trap_a (t : Thread) (c : Nat) (b : Bool) (e v i : Word) : (t.trap c b e v i).a = t.a := rfl
@[simp] theorem Thread.trap_wp0 (t : Thread) (c : Nat) (b : Bool) (e v i : Word) : (t.trap c b e v i).wp0 = t.wp0 := rfl
@[simp] theorem Thread.trap_wp1 (t : Thread) (c : Nat) (b : Bool) (e v i : Word) : (t.trap c b e v i).wp1 = t.wp1 := rfl
@[simp] theorem Thread.trap_spare0 (t : Thread) (c : Nat) (b : Bool) (e v i : Word) : (t.trap c b e v i).spare0 = t.spare0 := rfl
@[simp] theorem Thread.trap_spare1 (t : Thread) (c : Nat) (b : Bool) (e v i : Word) : (t.trap c b e v i).spare1 = t.spare1 := rfl
@[simp] theorem Thread.trap_lc0 (t : Thread) (c : Nat) (b : Bool) (e v i : Word) : (t.trap c b e v i).lc0 = t.lc0 := rfl
@[simp] theorem Thread.trap_lc1 (t : Thread) (c : Nat) (b : Bool) (e v i : Word) : (t.trap c b e v i).lc1 = t.lc1 := rfl
@[simp] theorem Thread.trap_lbeg0 (t : Thread) (c : Nat) (b : Bool) (e v i : Word) : (t.trap c b e v i).lbeg0 = t.lbeg0 := rfl
@[simp] theorem Thread.trap_lend0 (t : Thread) (c : Nat) (b : Bool) (e v i : Word) : (t.trap c b e v i).lend0 = t.lend0 := rfl
@[simp] theorem Thread.trap_lbeg1 (t : Thread) (c : Nat) (b : Bool) (e v i : Word) : (t.trap c b e v i).lbeg1 = t.lbeg1 := rfl
@[simp] theorem Thread.trap_lend1 (t : Thread) (c : Nat) (b : Bool) (e v i : Word) : (t.trap c b e v i).lend1 = t.lend1 := rfl
@[simp] theorem Thread.trap_cg (t : Thread) (c : Nat) (b : Bool) (e v i : Word) : (t.trap c b e v i).cg = t.cg := rfl
@[simp] theorem Thread.trap_psig (t : Thread) (c : Nat) (b : Bool) (e v i : Word) : (t.trap c b e v i).psig = t.psig := rfl
@[simp] theorem Thread.trap_ors (t : Thread) (c : Nat) (b : Bool) (e v i : Word) : (t.trap c b e v i).ors = t.ors := rfl
@[simp] theorem Thread.trap_prg (t : Thread) (c : Nat) (b : Bool) (e v i : Word) : (t.trap c b e v i).prg = t.prg := rfl
@[simp] theorem Thread.trap_fcsr (t : Thread) (c : Nat) (b : Bool) (e v i : Word) : (t.trap c b e v i).fcsr = t.fcsr := rfl
@[simp] theorem Thread.trap_tag (t : Thread) (c : Nat) (b : Bool) (e v i : Word) : (t.trap c b e v i).tag = t.tag := rfl
@[simp] theorem Thread.trap_instret (t : Thread) (c : Nat) (b : Bool) (e v i : Word) : (t.trap c b e v i).instret = t.instret := rfl
@[simp] theorem Thread.trap_step (t : Thread) (c : Nat) (b : Bool) (e v i : Word) : (t.trap c b e v i).step = t.step := rfl
@[simp] theorem Thread.trap_fullAcq (t : Thread) (c : Nat) (b : Bool) (e v i : Word) : (t.trap c b e v i).fullAcq = t.fullAcq := rfl
@[simp] theorem Thread.trap_selInv (t : Thread) (c : Nat) (b : Bool) (e v i : Word) : (t.trap c b e v i).selInv = t.selInv := rfl
@[simp] theorem Thread.trap_status (t : Thread) (c : Nat) (b : Bool) (e v i : Word) : (t.trap c b e v i).status = trapStatus t.status := rfl
@[simp] theorem Thread.trap_epc (t : Thread) (c : Nat) (b : Bool) (e v i : Word) : (t.trap c b e v i).epc = e := rfl
@[simp] theorem Thread.trap_ecause (t : Thread) (c : Nat) (b : Bool) (e v i : Word) : (t.trap c b e v i).ecause = putBit (BitVec.ofNat 64 c) 63 b := rfl
@[simp] theorem Thread.trap_eva (t : Thread) (c : Nat) (b : Bool) (e v i : Word) : (t.trap c b e v i).eva = v := rfl
@[simp] theorem Thread.trap_einfo (t : Thread) (c : Nat) (b : Bool) (e v i : Word) : (t.trap c b e v i).einfo = i := rfl
@[simp] theorem Thread.trap_evec (t : Thread) (c : Nat) (b : Bool) (e v i : Word) : (t.trap c b e v i).evec = t.evec := rfl
@[simp] theorem Thread.trap_kscratch (t : Thread) (c : Nat) (b : Bool) (e v i : Word) : (t.trap c b e v i).kscratch = t.kscratch := rfl
@[simp] theorem Thread.trap_slice (t : Thread) (c : Nat) (b : Bool) (e v i : Word) : (t.trap c b e v i).slice = t.slice := rfl
@[simp] theorem Thread.trap_sliceE (t : Thread) (c : Nat) (b : Bool) (e v i : Word) : (t.trap c b e v i).sliceE = t.sliceE := rfl
@[simp] theorem Thread.trap_sliceRun (t : Thread) (c : Nat) (b : Bool) (e v i : Word) : (t.trap c b e v i).sliceRun = t.sliceRun := rfl
@[simp] theorem Thread.trap_saveCost (t : Thread) (c : Nat) (b : Bool) (e v i : Word) : (t.trap c b e v i).saveCost = t.saveCost := rfl
@[simp] theorem Thread.trap_switchCost (t : Thread) (c : Nat) (b : Bool) (e v i : Word) : (t.trap c b e v i).switchCost = t.switchCost := rfl
@[simp] theorem Thread.trap_clampCnt (t : Thread) (c : Nat) (b : Bool) (e v i : Word) : (t.trap c b e v i).clampCnt = t.clampCnt := rfl
@[simp] theorem Thread.trap_region (t : Thread) (c : Nat) (b : Bool) (e v i : Word) : (t.trap c b e v i).region = t.region := rfl
@[simp] theorem Thread.trap_regionCount (t : Thread) (c : Nat) (b : Bool) (e v i : Word) : (t.trap c b e v i).regionCount = t.regionCount := rfl
@[simp] theorem Thread.trap_irq16 (t : Thread) (c : Nat) (b : Bool) (e v i : Word) : (t.trap c b e v i).irq16 = t.irq16 := rfl
@[simp] theorem Thread.trap_irq17 (t : Thread) (c : Nat) (b : Bool) (e v i : Word) : (t.trap c b e v i).irq17 = t.irq17 := rfl
@[simp] theorem Thread.trap_copyRecs (t : Thread) (c : Nat) (b : Bool) (e v i : Word) : (t.trap c b e v i).copyRecs = t.copyRecs := rfl
@[simp] theorem Thread.trap_denial (t : Thread) (c : Nat) (b : Bool) (e v i : Word) : (t.trap c b e v i).denial = t.denial := rfl
@[simp] theorem Thread.trap_flipped (t : Thread) (c : Nat) (b : Bool) (e v i : Word) : (t.trap c b e v i).flipped = t.flipped := rfl
@[simp] theorem Thread.trap_parked (t : Thread) (c : Nat) (b : Bool) (e v i : Word) : (t.trap c b e v i).parked = none := rfl
@[simp] theorem Thread.trap_reqs (t : Thread) (c : Nat) (b : Bool) (e v i : Word) : (t.trap c b e v i).reqs = [] := rfl
@[simp] theorem Thread.trap_answers (t : Thread) (c : Nat) (b : Bool) (e v i : Word) : (t.trap c b e v i).answers = [] := rfl
@[simp] theorem Thread.trap_sent (t : Thread) (c : Nat) (b : Bool) (e v i : Word) : (t.trap c b e v i).sent = false := rfl
@[simp] theorem Thread.trap_waiting (t : Thread) (c : Nat) (b : Bool) (e v i : Word) : (t.trap c b e v i).waiting = false := rfl
@[simp] theorem Thread.trap_bits (t : Thread) (c : Nat) (b : Bool) (e v i : Word) : (t.trap c b e v i).bits = t.bits := rfl
@[simp] theorem Thread.trap_plan (t : Thread) (c : Nat) (b : Bool) (e v i : Word) : (t.trap c b e v i).plan = [] := rfl
@[simp] theorem Thread.trap_got (t : Thread) (c : Nat) (b : Bool) (e v i : Word) : (t.trap c b e v i).got = [] := rfl
@[simp] theorem Thread.trap_sending (t : Thread) (c : Nat) (b : Bool) (e v i : Word) : (t.trap c b e v i).sending = false := rfl
@[simp] theorem Thread.trap_popped (t : Thread) (c : Nat) (b : Bool) (e v i : Word) : (t.trap c b e v i).popped = none := rfl
@[simp] theorem Thread.trap_checkpoints (t : Thread) (c : Nat) (b : Bool) (e v i : Word) : (t.trap c b e v i).checkpoints = t.checkpoints := rfl
@[simp] theorem Thread.trap_looped (t : Thread) (c : Nat) (b : Bool) (e v i : Word) : (t.trap c b e v i).looped = t.looped := rfl
@[simp] theorem Thread.trap_atVector (t : Thread) (c : Nat) (b : Bool) (e v i : Word) : (t.trap c b e v i).atVector = true := rfl
@[simp] theorem Thread.trap_shadow (t : Thread) (c : Nat) (b : Bool) (e v i : Word) : (t.trap c b e v i).shadow = t.shadow := rfl
@[simp] theorem Thread.trap_fetchAge (t : Thread) (c : Nat) (b : Bool) (e v i : Word) : (t.trap c b e v i).fetchAge = t.fetchAge := rfl
@[simp] theorem Thread.trap_decodeAge (t : Thread) (c : Nat) (b : Bool) (e v i : Word) : (t.trap c b e v i).decodeAge = t.decodeAge := rfl
@[simp] theorem Thread.trap_buffered (t : Thread) (c : Nat) (b : Bool) (e v i : Word) : (t.trap c b e v i).buffered = 0 := rfl
@[simp] theorem Thread.trap_ahead (t : Thread) (c : Nat) (b : Bool) (e v i : Word) : (t.trap c b e v i).ahead = 0 := rfl
@[simp] theorem Thread.trap_unissued (t : Thread) (c : Nat) (b : Bool) (e v i : Word) : (t.trap c b e v i).unissued = 0 := rfl
@[simp] theorem Thread.trap_crc (t : Thread) (c : Nat) (b : Bool) (e v i : Word) : (t.trap c b e v i).crc = t.crc := rfl
@[simp] theorem Thread.trap_shadowCrc (t : Thread) (c : Nat) (b : Bool) (e v i : Word) : (t.trap c b e v i).shadowCrc = t.shadowCrc := rfl
@[simp] theorem Thread.trap_sinceExchange (t : Thread) (c : Nat) (b : Bool) (e v i : Word) : (t.trap c b e v i).sinceExchange = t.sinceExchange := rfl
@[simp] theorem Thread.trap_exchangeDue (t : Thread) (c : Nat) (b : Bool) (e v i : Word) : (t.trap c b e v i).exchangeDue = (t.exchangeDue || t.paired) := rfl
@[simp] theorem Thread.trap_entered (t : Thread) (c : Nat) (b : Bool) (e v i : Word) : (t.trap c b e v i).entered = (if t.paired then some t.before else t.entered) := rfl
@[simp] theorem Thread.trap_tdup (t : Thread) (c : Nat) (b : Bool) (e v i : Word) : (t.trap c b e v i).tdup = t.tdup := rfl
@[simp] theorem Thread.trap_poisoned (t : Thread) (c : Nat) (b : Bool) (e v i : Word) : (t.trap c b e v i).poisoned = t.poisoned := rfl
@[simp] theorem Thread.trap_te (t : Thread) (c : Nat) (b : Bool) (e v i : Word) : (t.trap c b e v i).te = t.te := rfl
@[simp] theorem Thread.trap_pairs (t : Thread) (c : Nat) (b : Bool) (e v i : Word) : (t.trap c b e v i).pairs = t.pairs := rfl
@[simp] theorem Thread.trap_plane0 (t : Thread) (c : Nat) (b : Bool) (e v i : Word) : (t.trap c b e v i).plane0 = t.plane0 := rfl
@[simp] theorem Thread.trap_plane1 (t : Thread) (c : Nat) (b : Bool) (e v i : Word) : (t.trap c b e v i).plane1 = t.plane1 := rfl
@[simp] theorem Thread.trap_teSeq (t : Thread) (c : Nat) (b : Bool) (e v i : Word) : (t.trap c b e v i).teSeq = t.teSeq := rfl
@[simp] theorem Thread.jump_resident (t : Thread) (a : Word) : (t.jump a).resident = t.resident := rfl
@[simp] theorem Thread.jump_who (t : Thread) (a : Word) : (t.jump a).who = t.who := rfl
@[simp] theorem Thread.jump_pc (t : Thread) (a : Word) : (t.jump a).pc = a := rfl
@[simp] theorem Thread.jump_x (t : Thread) (a : Word) : (t.jump a).x = t.x := rfl
@[simp] theorem Thread.jump_f (t : Thread) (a : Word) : (t.jump a).f = t.f := rfl
@[simp] theorem Thread.jump_v (t : Thread) (a : Word) : (t.jump a).v = t.v := rfl
@[simp] theorem Thread.jump_k (t : Thread) (a : Word) : (t.jump a).k = t.k := rfl
@[simp] theorem Thread.jump_t (t : Thread) (a : Word) : (t.jump a).t = t.t := rfl
@[simp] theorem Thread.jump_a (t : Thread) (a : Word) : (t.jump a).a = t.a := rfl
@[simp] theorem Thread.jump_wp0 (t : Thread) (a : Word) : (t.jump a).wp0 = t.wp0 := rfl
@[simp] theorem Thread.jump_wp1 (t : Thread) (a : Word) : (t.jump a).wp1 = t.wp1 := rfl
@[simp] theorem Thread.jump_spare0 (t : Thread) (a : Word) : (t.jump a).spare0 = t.spare0 := rfl
@[simp] theorem Thread.jump_spare1 (t : Thread) (a : Word) : (t.jump a).spare1 = t.spare1 := rfl
@[simp] theorem Thread.jump_lc0 (t : Thread) (a : Word) : (t.jump a).lc0 = t.lc0 := rfl
@[simp] theorem Thread.jump_lc1 (t : Thread) (a : Word) : (t.jump a).lc1 = t.lc1 := rfl
@[simp] theorem Thread.jump_lbeg0 (t : Thread) (a : Word) : (t.jump a).lbeg0 = t.lbeg0 := rfl
@[simp] theorem Thread.jump_lend0 (t : Thread) (a : Word) : (t.jump a).lend0 = t.lend0 := rfl
@[simp] theorem Thread.jump_lbeg1 (t : Thread) (a : Word) : (t.jump a).lbeg1 = t.lbeg1 := rfl
@[simp] theorem Thread.jump_lend1 (t : Thread) (a : Word) : (t.jump a).lend1 = t.lend1 := rfl
@[simp] theorem Thread.jump_cg (t : Thread) (a : Word) : (t.jump a).cg = t.cg := rfl
@[simp] theorem Thread.jump_psig (t : Thread) (a : Word) : (t.jump a).psig = t.psig := rfl
@[simp] theorem Thread.jump_ors (t : Thread) (a : Word) : (t.jump a).ors = t.ors := rfl
@[simp] theorem Thread.jump_prg (t : Thread) (a : Word) : (t.jump a).prg = t.prg := rfl
@[simp] theorem Thread.jump_fcsr (t : Thread) (a : Word) : (t.jump a).fcsr = t.fcsr := rfl
@[simp] theorem Thread.jump_tag (t : Thread) (a : Word) : (t.jump a).tag = t.tag := rfl
@[simp] theorem Thread.jump_instret (t : Thread) (a : Word) : (t.jump a).instret = t.instret + 1 := rfl
@[simp] theorem Thread.jump_step (t : Thread) (a : Word) : (t.jump a).step = t.step := rfl
@[simp] theorem Thread.jump_fullAcq (t : Thread) (a : Word) : (t.jump a).fullAcq = t.fullAcq := rfl
@[simp] theorem Thread.jump_selInv (t : Thread) (a : Word) : (t.jump a).selInv = t.selInv := rfl
@[simp] theorem Thread.jump_status (t : Thread) (a : Word) : (t.jump a).status = t.status := rfl
@[simp] theorem Thread.jump_epc (t : Thread) (a : Word) : (t.jump a).epc = t.epc := rfl
@[simp] theorem Thread.jump_ecause (t : Thread) (a : Word) : (t.jump a).ecause = t.ecause := rfl
@[simp] theorem Thread.jump_eva (t : Thread) (a : Word) : (t.jump a).eva = t.eva := rfl
@[simp] theorem Thread.jump_einfo (t : Thread) (a : Word) : (t.jump a).einfo = t.einfo := rfl
@[simp] theorem Thread.jump_evec (t : Thread) (a : Word) : (t.jump a).evec = t.evec := rfl
@[simp] theorem Thread.jump_kscratch (t : Thread) (a : Word) : (t.jump a).kscratch = t.kscratch := rfl
@[simp] theorem Thread.jump_slice (t : Thread) (a : Word) : (t.jump a).slice = t.slice := rfl
@[simp] theorem Thread.jump_sliceE (t : Thread) (a : Word) : (t.jump a).sliceE = t.sliceE := rfl
@[simp] theorem Thread.jump_sliceRun (t : Thread) (a : Word) : (t.jump a).sliceRun = t.sliceRun := rfl
@[simp] theorem Thread.jump_saveCost (t : Thread) (a : Word) : (t.jump a).saveCost = t.saveCost := rfl
@[simp] theorem Thread.jump_switchCost (t : Thread) (a : Word) : (t.jump a).switchCost = t.switchCost := rfl
@[simp] theorem Thread.jump_clampCnt (t : Thread) (a : Word) : (t.jump a).clampCnt = t.clampCnt := rfl
@[simp] theorem Thread.jump_region (t : Thread) (a : Word) : (t.jump a).region = t.region := rfl
@[simp] theorem Thread.jump_regionCount (t : Thread) (a : Word) : (t.jump a).regionCount = t.regionCount + 1 := rfl
@[simp] theorem Thread.jump_irq16 (t : Thread) (a : Word) : (t.jump a).irq16 = t.irq16 := rfl
@[simp] theorem Thread.jump_irq17 (t : Thread) (a : Word) : (t.jump a).irq17 = t.irq17 := rfl
@[simp] theorem Thread.jump_copyRecs (t : Thread) (a : Word) : (t.jump a).copyRecs = t.copyRecs := rfl
@[simp] theorem Thread.jump_denial (t : Thread) (a : Word) : (t.jump a).denial = t.denial := rfl
@[simp] theorem Thread.jump_flipped (t : Thread) (a : Word) : (t.jump a).flipped = t.flipped := rfl
@[simp] theorem Thread.jump_parked (t : Thread) (a : Word) : (t.jump a).parked = none := rfl
@[simp] theorem Thread.jump_reqs (t : Thread) (a : Word) : (t.jump a).reqs = [] := rfl
@[simp] theorem Thread.jump_answers (t : Thread) (a : Word) : (t.jump a).answers = [] := rfl
@[simp] theorem Thread.jump_sent (t : Thread) (a : Word) : (t.jump a).sent = false := rfl
@[simp] theorem Thread.jump_waiting (t : Thread) (a : Word) : (t.jump a).waiting = false := rfl
@[simp] theorem Thread.jump_bits (t : Thread) (a : Word) : (t.jump a).bits = t.bits := rfl
@[simp] theorem Thread.jump_plan (t : Thread) (a : Word) : (t.jump a).plan = [] := rfl
@[simp] theorem Thread.jump_got (t : Thread) (a : Word) : (t.jump a).got = [] := rfl
@[simp] theorem Thread.jump_sending (t : Thread) (a : Word) : (t.jump a).sending = false := rfl
@[simp] theorem Thread.jump_popped (t : Thread) (a : Word) : (t.jump a).popped = none := rfl
@[simp] theorem Thread.jump_checkpoints (t : Thread) (a : Word) : (t.jump a).checkpoints = t.checkpoints := rfl
@[simp] theorem Thread.jump_looped (t : Thread) (a : Word) : (t.jump a).looped = t.looped := rfl
@[simp] theorem Thread.jump_atVector (t : Thread) (a : Word) : (t.jump a).atVector = false := rfl
@[simp] theorem Thread.jump_shadow (t : Thread) (a : Word) : (t.jump a).shadow = t.shadow := rfl
@[simp] theorem Thread.jump_fetchAge (t : Thread) (a : Word) : (t.jump a).fetchAge = t.fetchAge := rfl
@[simp] theorem Thread.jump_decodeAge (t : Thread) (a : Word) : (t.jump a).decodeAge = t.decodeAge := rfl
@[simp] theorem Thread.jump_buffered (t : Thread) (a : Word) : (t.jump a).buffered = (if t.ahead = 0 then t.buffered - 1 else t.buffered) := rfl
@[simp] theorem Thread.jump_ahead (t : Thread) (a : Word) : (t.jump a).ahead = t.ahead - 1 := rfl
@[simp] theorem Thread.jump_unissued (t : Thread) (a : Word) : (t.jump a).unissued = (min t.unissued (t.ahead - 1)) := rfl
@[simp] theorem Thread.jump_crc (t : Thread) (a : Word) : (t.jump a).crc = t.crc := rfl
@[simp] theorem Thread.jump_shadowCrc (t : Thread) (a : Word) : (t.jump a).shadowCrc = t.shadowCrc := rfl
@[simp] theorem Thread.jump_sinceExchange (t : Thread) (a : Word) : (t.jump a).sinceExchange = t.sinceExchange + 1 := rfl
@[simp] theorem Thread.jump_exchangeDue (t : Thread) (a : Word) : (t.jump a).exchangeDue = (t.exchangeDue || (t.paired && (t.sinceExchange + 1) % 4096 == 0)) := rfl
@[simp] theorem Thread.jump_entered (t : Thread) (a : Word) : (t.jump a).entered = t.entered := rfl
@[simp] theorem Thread.jump_tdup (t : Thread) (a : Word) : (t.jump a).tdup = t.tdup := rfl
@[simp] theorem Thread.jump_poisoned (t : Thread) (a : Word) : (t.jump a).poisoned = t.poisoned := rfl
@[simp] theorem Thread.jump_te (t : Thread) (a : Word) : (t.jump a).te = t.te := rfl
@[simp] theorem Thread.jump_pairs (t : Thread) (a : Word) : (t.jump a).pairs = t.pairs := rfl
@[simp] theorem Thread.jump_plane0 (t : Thread) (a : Word) : (t.jump a).plane0 = t.plane0 := rfl
@[simp] theorem Thread.jump_plane1 (t : Thread) (a : Word) : (t.jump a).plane1 = t.plane1 := rfl
@[simp] theorem Thread.jump_teSeq (t : Thread) (a : Word) : (t.jump a).teSeq = t.teSeq := rfl
theorem Thread.loopEnd_eq (t : Thread) (a : Word) : t.loopEnd a = { t with pc := (t.loopEnd a).pc, lc0 := (t.loopEnd a).lc0, lc1 := (t.loopEnd a).lc1 } := by
  unfold Thread.loopEnd
  split
  · rfl
  · by_cases h2 : t.lc1 ≠ 0 ∧ a = t.lend1
    · rw [if_pos h2]; dsimp only; split
      · split <;> rfl
      · rfl
    · rw [if_neg h2]; dsimp only; split
      · split <;> rfl
      · rfl
@[simp] theorem Thread.loopEnd_resident (t : Thread) (a : Word) : (t.loopEnd a).resident = t.resident := (congrArg Thread.resident (Thread.loopEnd_eq t a) :)
@[simp] theorem Thread.loopEnd_who (t : Thread) (a : Word) : (t.loopEnd a).who = t.who := (congrArg Thread.who (Thread.loopEnd_eq t a) :)
@[simp] theorem Thread.loopEnd_x (t : Thread) (a : Word) : (t.loopEnd a).x = t.x := (congrArg Thread.x (Thread.loopEnd_eq t a) :)
@[simp] theorem Thread.loopEnd_f (t : Thread) (a : Word) : (t.loopEnd a).f = t.f := (congrArg Thread.f (Thread.loopEnd_eq t a) :)
@[simp] theorem Thread.loopEnd_v (t : Thread) (a : Word) : (t.loopEnd a).v = t.v := (congrArg Thread.v (Thread.loopEnd_eq t a) :)
@[simp] theorem Thread.loopEnd_k (t : Thread) (a : Word) : (t.loopEnd a).k = t.k := (congrArg Thread.k (Thread.loopEnd_eq t a) :)
@[simp] theorem Thread.loopEnd_t (t : Thread) (a : Word) : (t.loopEnd a).t = t.t := (congrArg Thread.t (Thread.loopEnd_eq t a) :)
@[simp] theorem Thread.loopEnd_a (t : Thread) (a : Word) : (t.loopEnd a).a = t.a := (congrArg Thread.a (Thread.loopEnd_eq t a) :)
@[simp] theorem Thread.loopEnd_wp0 (t : Thread) (a : Word) : (t.loopEnd a).wp0 = t.wp0 := (congrArg Thread.wp0 (Thread.loopEnd_eq t a) :)
@[simp] theorem Thread.loopEnd_wp1 (t : Thread) (a : Word) : (t.loopEnd a).wp1 = t.wp1 := (congrArg Thread.wp1 (Thread.loopEnd_eq t a) :)
@[simp] theorem Thread.loopEnd_spare0 (t : Thread) (a : Word) : (t.loopEnd a).spare0 = t.spare0 := (congrArg Thread.spare0 (Thread.loopEnd_eq t a) :)
@[simp] theorem Thread.loopEnd_spare1 (t : Thread) (a : Word) : (t.loopEnd a).spare1 = t.spare1 := (congrArg Thread.spare1 (Thread.loopEnd_eq t a) :)
@[simp] theorem Thread.loopEnd_lbeg0 (t : Thread) (a : Word) : (t.loopEnd a).lbeg0 = t.lbeg0 := (congrArg Thread.lbeg0 (Thread.loopEnd_eq t a) :)
@[simp] theorem Thread.loopEnd_lend0 (t : Thread) (a : Word) : (t.loopEnd a).lend0 = t.lend0 := (congrArg Thread.lend0 (Thread.loopEnd_eq t a) :)
@[simp] theorem Thread.loopEnd_lbeg1 (t : Thread) (a : Word) : (t.loopEnd a).lbeg1 = t.lbeg1 := (congrArg Thread.lbeg1 (Thread.loopEnd_eq t a) :)
@[simp] theorem Thread.loopEnd_lend1 (t : Thread) (a : Word) : (t.loopEnd a).lend1 = t.lend1 := (congrArg Thread.lend1 (Thread.loopEnd_eq t a) :)
@[simp] theorem Thread.loopEnd_cg (t : Thread) (a : Word) : (t.loopEnd a).cg = t.cg := (congrArg Thread.cg (Thread.loopEnd_eq t a) :)
@[simp] theorem Thread.loopEnd_psig (t : Thread) (a : Word) : (t.loopEnd a).psig = t.psig := (congrArg Thread.psig (Thread.loopEnd_eq t a) :)
@[simp] theorem Thread.loopEnd_ors (t : Thread) (a : Word) : (t.loopEnd a).ors = t.ors := (congrArg Thread.ors (Thread.loopEnd_eq t a) :)
@[simp] theorem Thread.loopEnd_prg (t : Thread) (a : Word) : (t.loopEnd a).prg = t.prg := (congrArg Thread.prg (Thread.loopEnd_eq t a) :)
@[simp] theorem Thread.loopEnd_fcsr (t : Thread) (a : Word) : (t.loopEnd a).fcsr = t.fcsr := (congrArg Thread.fcsr (Thread.loopEnd_eq t a) :)
@[simp] theorem Thread.loopEnd_tag (t : Thread) (a : Word) : (t.loopEnd a).tag = t.tag := (congrArg Thread.tag (Thread.loopEnd_eq t a) :)
@[simp] theorem Thread.loopEnd_instret (t : Thread) (a : Word) : (t.loopEnd a).instret = t.instret := (congrArg Thread.instret (Thread.loopEnd_eq t a) :)
@[simp] theorem Thread.loopEnd_step (t : Thread) (a : Word) : (t.loopEnd a).step = t.step := (congrArg Thread.step (Thread.loopEnd_eq t a) :)
@[simp] theorem Thread.loopEnd_fullAcq (t : Thread) (a : Word) : (t.loopEnd a).fullAcq = t.fullAcq := (congrArg Thread.fullAcq (Thread.loopEnd_eq t a) :)
@[simp] theorem Thread.loopEnd_selInv (t : Thread) (a : Word) : (t.loopEnd a).selInv = t.selInv := (congrArg Thread.selInv (Thread.loopEnd_eq t a) :)
@[simp] theorem Thread.loopEnd_status (t : Thread) (a : Word) : (t.loopEnd a).status = t.status := (congrArg Thread.status (Thread.loopEnd_eq t a) :)
@[simp] theorem Thread.loopEnd_epc (t : Thread) (a : Word) : (t.loopEnd a).epc = t.epc := (congrArg Thread.epc (Thread.loopEnd_eq t a) :)
@[simp] theorem Thread.loopEnd_ecause (t : Thread) (a : Word) : (t.loopEnd a).ecause = t.ecause := (congrArg Thread.ecause (Thread.loopEnd_eq t a) :)
@[simp] theorem Thread.loopEnd_eva (t : Thread) (a : Word) : (t.loopEnd a).eva = t.eva := (congrArg Thread.eva (Thread.loopEnd_eq t a) :)
@[simp] theorem Thread.loopEnd_einfo (t : Thread) (a : Word) : (t.loopEnd a).einfo = t.einfo := (congrArg Thread.einfo (Thread.loopEnd_eq t a) :)
@[simp] theorem Thread.loopEnd_evec (t : Thread) (a : Word) : (t.loopEnd a).evec = t.evec := (congrArg Thread.evec (Thread.loopEnd_eq t a) :)
@[simp] theorem Thread.loopEnd_kscratch (t : Thread) (a : Word) : (t.loopEnd a).kscratch = t.kscratch := (congrArg Thread.kscratch (Thread.loopEnd_eq t a) :)
@[simp] theorem Thread.loopEnd_slice (t : Thread) (a : Word) : (t.loopEnd a).slice = t.slice := (congrArg Thread.slice (Thread.loopEnd_eq t a) :)
@[simp] theorem Thread.loopEnd_sliceE (t : Thread) (a : Word) : (t.loopEnd a).sliceE = t.sliceE := (congrArg Thread.sliceE (Thread.loopEnd_eq t a) :)
@[simp] theorem Thread.loopEnd_sliceRun (t : Thread) (a : Word) : (t.loopEnd a).sliceRun = t.sliceRun := (congrArg Thread.sliceRun (Thread.loopEnd_eq t a) :)
@[simp] theorem Thread.loopEnd_saveCost (t : Thread) (a : Word) : (t.loopEnd a).saveCost = t.saveCost := (congrArg Thread.saveCost (Thread.loopEnd_eq t a) :)
@[simp] theorem Thread.loopEnd_switchCost (t : Thread) (a : Word) : (t.loopEnd a).switchCost = t.switchCost := (congrArg Thread.switchCost (Thread.loopEnd_eq t a) :)
@[simp] theorem Thread.loopEnd_clampCnt (t : Thread) (a : Word) : (t.loopEnd a).clampCnt = t.clampCnt := (congrArg Thread.clampCnt (Thread.loopEnd_eq t a) :)
@[simp] theorem Thread.loopEnd_region (t : Thread) (a : Word) : (t.loopEnd a).region = t.region := (congrArg Thread.region (Thread.loopEnd_eq t a) :)
@[simp] theorem Thread.loopEnd_regionCount (t : Thread) (a : Word) : (t.loopEnd a).regionCount = t.regionCount := (congrArg Thread.regionCount (Thread.loopEnd_eq t a) :)
@[simp] theorem Thread.loopEnd_irq16 (t : Thread) (a : Word) : (t.loopEnd a).irq16 = t.irq16 := (congrArg Thread.irq16 (Thread.loopEnd_eq t a) :)
@[simp] theorem Thread.loopEnd_irq17 (t : Thread) (a : Word) : (t.loopEnd a).irq17 = t.irq17 := (congrArg Thread.irq17 (Thread.loopEnd_eq t a) :)
@[simp] theorem Thread.loopEnd_copyRecs (t : Thread) (a : Word) : (t.loopEnd a).copyRecs = t.copyRecs := (congrArg Thread.copyRecs (Thread.loopEnd_eq t a) :)
@[simp] theorem Thread.loopEnd_denial (t : Thread) (a : Word) : (t.loopEnd a).denial = t.denial := (congrArg Thread.denial (Thread.loopEnd_eq t a) :)
@[simp] theorem Thread.loopEnd_flipped (t : Thread) (a : Word) : (t.loopEnd a).flipped = t.flipped := (congrArg Thread.flipped (Thread.loopEnd_eq t a) :)
@[simp] theorem Thread.loopEnd_parked (t : Thread) (a : Word) : (t.loopEnd a).parked = t.parked := (congrArg Thread.parked (Thread.loopEnd_eq t a) :)
@[simp] theorem Thread.loopEnd_reqs (t : Thread) (a : Word) : (t.loopEnd a).reqs = t.reqs := (congrArg Thread.reqs (Thread.loopEnd_eq t a) :)
@[simp] theorem Thread.loopEnd_answers (t : Thread) (a : Word) : (t.loopEnd a).answers = t.answers := (congrArg Thread.answers (Thread.loopEnd_eq t a) :)
@[simp] theorem Thread.loopEnd_sent (t : Thread) (a : Word) : (t.loopEnd a).sent = t.sent := (congrArg Thread.sent (Thread.loopEnd_eq t a) :)
@[simp] theorem Thread.loopEnd_waiting (t : Thread) (a : Word) : (t.loopEnd a).waiting = t.waiting := (congrArg Thread.waiting (Thread.loopEnd_eq t a) :)
@[simp] theorem Thread.loopEnd_bits (t : Thread) (a : Word) : (t.loopEnd a).bits = t.bits := (congrArg Thread.bits (Thread.loopEnd_eq t a) :)
@[simp] theorem Thread.loopEnd_plan (t : Thread) (a : Word) : (t.loopEnd a).plan = t.plan := (congrArg Thread.plan (Thread.loopEnd_eq t a) :)
@[simp] theorem Thread.loopEnd_got (t : Thread) (a : Word) : (t.loopEnd a).got = t.got := (congrArg Thread.got (Thread.loopEnd_eq t a) :)
@[simp] theorem Thread.loopEnd_sending (t : Thread) (a : Word) : (t.loopEnd a).sending = t.sending := (congrArg Thread.sending (Thread.loopEnd_eq t a) :)
@[simp] theorem Thread.loopEnd_popped (t : Thread) (a : Word) : (t.loopEnd a).popped = t.popped := (congrArg Thread.popped (Thread.loopEnd_eq t a) :)
@[simp] theorem Thread.loopEnd_checkpoints (t : Thread) (a : Word) : (t.loopEnd a).checkpoints = t.checkpoints := (congrArg Thread.checkpoints (Thread.loopEnd_eq t a) :)
@[simp] theorem Thread.loopEnd_looped (t : Thread) (a : Word) : (t.loopEnd a).looped = t.looped := (congrArg Thread.looped (Thread.loopEnd_eq t a) :)
@[simp] theorem Thread.loopEnd_atVector (t : Thread) (a : Word) : (t.loopEnd a).atVector = t.atVector := (congrArg Thread.atVector (Thread.loopEnd_eq t a) :)
@[simp] theorem Thread.loopEnd_shadow (t : Thread) (a : Word) : (t.loopEnd a).shadow = t.shadow := (congrArg Thread.shadow (Thread.loopEnd_eq t a) :)
@[simp] theorem Thread.loopEnd_fetchAge (t : Thread) (a : Word) : (t.loopEnd a).fetchAge = t.fetchAge := (congrArg Thread.fetchAge (Thread.loopEnd_eq t a) :)
@[simp] theorem Thread.loopEnd_decodeAge (t : Thread) (a : Word) : (t.loopEnd a).decodeAge = t.decodeAge := (congrArg Thread.decodeAge (Thread.loopEnd_eq t a) :)
@[simp] theorem Thread.loopEnd_buffered (t : Thread) (a : Word) : (t.loopEnd a).buffered = t.buffered := (congrArg Thread.buffered (Thread.loopEnd_eq t a) :)
@[simp] theorem Thread.loopEnd_ahead (t : Thread) (a : Word) : (t.loopEnd a).ahead = t.ahead := (congrArg Thread.ahead (Thread.loopEnd_eq t a) :)
@[simp] theorem Thread.loopEnd_unissued (t : Thread) (a : Word) : (t.loopEnd a).unissued = t.unissued := (congrArg Thread.unissued (Thread.loopEnd_eq t a) :)
@[simp] theorem Thread.loopEnd_crc (t : Thread) (a : Word) : (t.loopEnd a).crc = t.crc := (congrArg Thread.crc (Thread.loopEnd_eq t a) :)
@[simp] theorem Thread.loopEnd_shadowCrc (t : Thread) (a : Word) : (t.loopEnd a).shadowCrc = t.shadowCrc := (congrArg Thread.shadowCrc (Thread.loopEnd_eq t a) :)
@[simp] theorem Thread.loopEnd_sinceExchange (t : Thread) (a : Word) : (t.loopEnd a).sinceExchange = t.sinceExchange := (congrArg Thread.sinceExchange (Thread.loopEnd_eq t a) :)
@[simp] theorem Thread.loopEnd_exchangeDue (t : Thread) (a : Word) : (t.loopEnd a).exchangeDue = t.exchangeDue := (congrArg Thread.exchangeDue (Thread.loopEnd_eq t a) :)
@[simp] theorem Thread.loopEnd_entered (t : Thread) (a : Word) : (t.loopEnd a).entered = t.entered := (congrArg Thread.entered (Thread.loopEnd_eq t a) :)
@[simp] theorem Thread.loopEnd_tdup (t : Thread) (a : Word) : (t.loopEnd a).tdup = t.tdup := (congrArg Thread.tdup (Thread.loopEnd_eq t a) :)
@[simp] theorem Thread.loopEnd_poisoned (t : Thread) (a : Word) : (t.loopEnd a).poisoned = t.poisoned := (congrArg Thread.poisoned (Thread.loopEnd_eq t a) :)
@[simp] theorem Thread.loopEnd_te (t : Thread) (a : Word) : (t.loopEnd a).te = t.te := (congrArg Thread.te (Thread.loopEnd_eq t a) :)
@[simp] theorem Thread.loopEnd_pairs (t : Thread) (a : Word) : (t.loopEnd a).pairs = t.pairs := (congrArg Thread.pairs (Thread.loopEnd_eq t a) :)
@[simp] theorem Thread.loopEnd_plane0 (t : Thread) (a : Word) : (t.loopEnd a).plane0 = t.plane0 := (congrArg Thread.plane0 (Thread.loopEnd_eq t a) :)
@[simp] theorem Thread.loopEnd_plane1 (t : Thread) (a : Word) : (t.loopEnd a).plane1 = t.plane1 := (congrArg Thread.plane1 (Thread.loopEnd_eq t a) :)
@[simp] theorem Thread.loopEnd_teSeq (t : Thread) (a : Word) : (t.loopEnd a).teSeq = t.teSeq := (congrArg Thread.teSeq (Thread.loopEnd_eq t a) :)
theorem Thread.fold_eq (t : Thread) (b : List Byte) : t.fold b = { t with crc := (t.fold b).crc, shadowCrc := (t.fold b).shadowCrc } := by
  unfold Thread.fold; split <;> rfl
@[simp] theorem Thread.fold_resident (t : Thread) (b : List Byte) : (t.fold b).resident = t.resident := (congrArg Thread.resident (Thread.fold_eq t b) :)
@[simp] theorem Thread.fold_who (t : Thread) (b : List Byte) : (t.fold b).who = t.who := (congrArg Thread.who (Thread.fold_eq t b) :)
@[simp] theorem Thread.fold_pc (t : Thread) (b : List Byte) : (t.fold b).pc = t.pc := (congrArg Thread.pc (Thread.fold_eq t b) :)
@[simp] theorem Thread.fold_x (t : Thread) (b : List Byte) : (t.fold b).x = t.x := (congrArg Thread.x (Thread.fold_eq t b) :)
@[simp] theorem Thread.fold_f (t : Thread) (b : List Byte) : (t.fold b).f = t.f := (congrArg Thread.f (Thread.fold_eq t b) :)
@[simp] theorem Thread.fold_v (t : Thread) (b : List Byte) : (t.fold b).v = t.v := (congrArg Thread.v (Thread.fold_eq t b) :)
@[simp] theorem Thread.fold_k (t : Thread) (b : List Byte) : (t.fold b).k = t.k := (congrArg Thread.k (Thread.fold_eq t b) :)
@[simp] theorem Thread.fold_t (t : Thread) (b : List Byte) : (t.fold b).t = t.t := (congrArg Thread.t (Thread.fold_eq t b) :)
@[simp] theorem Thread.fold_a (t : Thread) (b : List Byte) : (t.fold b).a = t.a := (congrArg Thread.a (Thread.fold_eq t b) :)
@[simp] theorem Thread.fold_wp0 (t : Thread) (b : List Byte) : (t.fold b).wp0 = t.wp0 := (congrArg Thread.wp0 (Thread.fold_eq t b) :)
@[simp] theorem Thread.fold_wp1 (t : Thread) (b : List Byte) : (t.fold b).wp1 = t.wp1 := (congrArg Thread.wp1 (Thread.fold_eq t b) :)
@[simp] theorem Thread.fold_spare0 (t : Thread) (b : List Byte) : (t.fold b).spare0 = t.spare0 := (congrArg Thread.spare0 (Thread.fold_eq t b) :)
@[simp] theorem Thread.fold_spare1 (t : Thread) (b : List Byte) : (t.fold b).spare1 = t.spare1 := (congrArg Thread.spare1 (Thread.fold_eq t b) :)
@[simp] theorem Thread.fold_lc0 (t : Thread) (b : List Byte) : (t.fold b).lc0 = t.lc0 := (congrArg Thread.lc0 (Thread.fold_eq t b) :)
@[simp] theorem Thread.fold_lc1 (t : Thread) (b : List Byte) : (t.fold b).lc1 = t.lc1 := (congrArg Thread.lc1 (Thread.fold_eq t b) :)
@[simp] theorem Thread.fold_lbeg0 (t : Thread) (b : List Byte) : (t.fold b).lbeg0 = t.lbeg0 := (congrArg Thread.lbeg0 (Thread.fold_eq t b) :)
@[simp] theorem Thread.fold_lend0 (t : Thread) (b : List Byte) : (t.fold b).lend0 = t.lend0 := (congrArg Thread.lend0 (Thread.fold_eq t b) :)
@[simp] theorem Thread.fold_lbeg1 (t : Thread) (b : List Byte) : (t.fold b).lbeg1 = t.lbeg1 := (congrArg Thread.lbeg1 (Thread.fold_eq t b) :)
@[simp] theorem Thread.fold_lend1 (t : Thread) (b : List Byte) : (t.fold b).lend1 = t.lend1 := (congrArg Thread.lend1 (Thread.fold_eq t b) :)
@[simp] theorem Thread.fold_cg (t : Thread) (b : List Byte) : (t.fold b).cg = t.cg := (congrArg Thread.cg (Thread.fold_eq t b) :)
@[simp] theorem Thread.fold_psig (t : Thread) (b : List Byte) : (t.fold b).psig = t.psig := (congrArg Thread.psig (Thread.fold_eq t b) :)
@[simp] theorem Thread.fold_ors (t : Thread) (b : List Byte) : (t.fold b).ors = t.ors := (congrArg Thread.ors (Thread.fold_eq t b) :)
@[simp] theorem Thread.fold_prg (t : Thread) (b : List Byte) : (t.fold b).prg = t.prg := (congrArg Thread.prg (Thread.fold_eq t b) :)
@[simp] theorem Thread.fold_fcsr (t : Thread) (b : List Byte) : (t.fold b).fcsr = t.fcsr := (congrArg Thread.fcsr (Thread.fold_eq t b) :)
@[simp] theorem Thread.fold_tag (t : Thread) (b : List Byte) : (t.fold b).tag = t.tag := (congrArg Thread.tag (Thread.fold_eq t b) :)
@[simp] theorem Thread.fold_instret (t : Thread) (b : List Byte) : (t.fold b).instret = t.instret := (congrArg Thread.instret (Thread.fold_eq t b) :)
@[simp] theorem Thread.fold_step (t : Thread) (b : List Byte) : (t.fold b).step = t.step := (congrArg Thread.step (Thread.fold_eq t b) :)
@[simp] theorem Thread.fold_fullAcq (t : Thread) (b : List Byte) : (t.fold b).fullAcq = t.fullAcq := (congrArg Thread.fullAcq (Thread.fold_eq t b) :)
@[simp] theorem Thread.fold_selInv (t : Thread) (b : List Byte) : (t.fold b).selInv = t.selInv := (congrArg Thread.selInv (Thread.fold_eq t b) :)
@[simp] theorem Thread.fold_status (t : Thread) (b : List Byte) : (t.fold b).status = t.status := (congrArg Thread.status (Thread.fold_eq t b) :)
@[simp] theorem Thread.fold_epc (t : Thread) (b : List Byte) : (t.fold b).epc = t.epc := (congrArg Thread.epc (Thread.fold_eq t b) :)
@[simp] theorem Thread.fold_ecause (t : Thread) (b : List Byte) : (t.fold b).ecause = t.ecause := (congrArg Thread.ecause (Thread.fold_eq t b) :)
@[simp] theorem Thread.fold_eva (t : Thread) (b : List Byte) : (t.fold b).eva = t.eva := (congrArg Thread.eva (Thread.fold_eq t b) :)
@[simp] theorem Thread.fold_einfo (t : Thread) (b : List Byte) : (t.fold b).einfo = t.einfo := (congrArg Thread.einfo (Thread.fold_eq t b) :)
@[simp] theorem Thread.fold_evec (t : Thread) (b : List Byte) : (t.fold b).evec = t.evec := (congrArg Thread.evec (Thread.fold_eq t b) :)
@[simp] theorem Thread.fold_kscratch (t : Thread) (b : List Byte) : (t.fold b).kscratch = t.kscratch := (congrArg Thread.kscratch (Thread.fold_eq t b) :)
@[simp] theorem Thread.fold_slice (t : Thread) (b : List Byte) : (t.fold b).slice = t.slice := (congrArg Thread.slice (Thread.fold_eq t b) :)
@[simp] theorem Thread.fold_sliceE (t : Thread) (b : List Byte) : (t.fold b).sliceE = t.sliceE := (congrArg Thread.sliceE (Thread.fold_eq t b) :)
@[simp] theorem Thread.fold_sliceRun (t : Thread) (b : List Byte) : (t.fold b).sliceRun = t.sliceRun := (congrArg Thread.sliceRun (Thread.fold_eq t b) :)
@[simp] theorem Thread.fold_saveCost (t : Thread) (b : List Byte) : (t.fold b).saveCost = t.saveCost := (congrArg Thread.saveCost (Thread.fold_eq t b) :)
@[simp] theorem Thread.fold_switchCost (t : Thread) (b : List Byte) : (t.fold b).switchCost = t.switchCost := (congrArg Thread.switchCost (Thread.fold_eq t b) :)
@[simp] theorem Thread.fold_clampCnt (t : Thread) (b : List Byte) : (t.fold b).clampCnt = t.clampCnt := (congrArg Thread.clampCnt (Thread.fold_eq t b) :)
@[simp] theorem Thread.fold_region (t : Thread) (b : List Byte) : (t.fold b).region = t.region := (congrArg Thread.region (Thread.fold_eq t b) :)
@[simp] theorem Thread.fold_regionCount (t : Thread) (b : List Byte) : (t.fold b).regionCount = t.regionCount := (congrArg Thread.regionCount (Thread.fold_eq t b) :)
@[simp] theorem Thread.fold_irq16 (t : Thread) (b : List Byte) : (t.fold b).irq16 = t.irq16 := (congrArg Thread.irq16 (Thread.fold_eq t b) :)
@[simp] theorem Thread.fold_irq17 (t : Thread) (b : List Byte) : (t.fold b).irq17 = t.irq17 := (congrArg Thread.irq17 (Thread.fold_eq t b) :)
@[simp] theorem Thread.fold_copyRecs (t : Thread) (b : List Byte) : (t.fold b).copyRecs = t.copyRecs := (congrArg Thread.copyRecs (Thread.fold_eq t b) :)
@[simp] theorem Thread.fold_denial (t : Thread) (b : List Byte) : (t.fold b).denial = t.denial := (congrArg Thread.denial (Thread.fold_eq t b) :)
@[simp] theorem Thread.fold_flipped (t : Thread) (b : List Byte) : (t.fold b).flipped = t.flipped := (congrArg Thread.flipped (Thread.fold_eq t b) :)
@[simp] theorem Thread.fold_parked (t : Thread) (b : List Byte) : (t.fold b).parked = t.parked := (congrArg Thread.parked (Thread.fold_eq t b) :)
@[simp] theorem Thread.fold_reqs (t : Thread) (b : List Byte) : (t.fold b).reqs = t.reqs := (congrArg Thread.reqs (Thread.fold_eq t b) :)
@[simp] theorem Thread.fold_answers (t : Thread) (b : List Byte) : (t.fold b).answers = t.answers := (congrArg Thread.answers (Thread.fold_eq t b) :)
@[simp] theorem Thread.fold_sent (t : Thread) (b : List Byte) : (t.fold b).sent = t.sent := (congrArg Thread.sent (Thread.fold_eq t b) :)
@[simp] theorem Thread.fold_waiting (t : Thread) (b : List Byte) : (t.fold b).waiting = t.waiting := (congrArg Thread.waiting (Thread.fold_eq t b) :)
@[simp] theorem Thread.fold_bits (t : Thread) (b : List Byte) : (t.fold b).bits = t.bits := (congrArg Thread.bits (Thread.fold_eq t b) :)
@[simp] theorem Thread.fold_plan (t : Thread) (b : List Byte) : (t.fold b).plan = t.plan := (congrArg Thread.plan (Thread.fold_eq t b) :)
@[simp] theorem Thread.fold_got (t : Thread) (b : List Byte) : (t.fold b).got = t.got := (congrArg Thread.got (Thread.fold_eq t b) :)
@[simp] theorem Thread.fold_sending (t : Thread) (b : List Byte) : (t.fold b).sending = t.sending := (congrArg Thread.sending (Thread.fold_eq t b) :)
@[simp] theorem Thread.fold_popped (t : Thread) (b : List Byte) : (t.fold b).popped = t.popped := (congrArg Thread.popped (Thread.fold_eq t b) :)
@[simp] theorem Thread.fold_checkpoints (t : Thread) (b : List Byte) : (t.fold b).checkpoints = t.checkpoints := (congrArg Thread.checkpoints (Thread.fold_eq t b) :)
@[simp] theorem Thread.fold_looped (t : Thread) (b : List Byte) : (t.fold b).looped = t.looped := (congrArg Thread.looped (Thread.fold_eq t b) :)
@[simp] theorem Thread.fold_atVector (t : Thread) (b : List Byte) : (t.fold b).atVector = t.atVector := (congrArg Thread.atVector (Thread.fold_eq t b) :)
@[simp] theorem Thread.fold_shadow (t : Thread) (b : List Byte) : (t.fold b).shadow = t.shadow := (congrArg Thread.shadow (Thread.fold_eq t b) :)
@[simp] theorem Thread.fold_fetchAge (t : Thread) (b : List Byte) : (t.fold b).fetchAge = t.fetchAge := (congrArg Thread.fetchAge (Thread.fold_eq t b) :)
@[simp] theorem Thread.fold_decodeAge (t : Thread) (b : List Byte) : (t.fold b).decodeAge = t.decodeAge := (congrArg Thread.decodeAge (Thread.fold_eq t b) :)
@[simp] theorem Thread.fold_buffered (t : Thread) (b : List Byte) : (t.fold b).buffered = t.buffered := (congrArg Thread.buffered (Thread.fold_eq t b) :)
@[simp] theorem Thread.fold_ahead (t : Thread) (b : List Byte) : (t.fold b).ahead = t.ahead := (congrArg Thread.ahead (Thread.fold_eq t b) :)
@[simp] theorem Thread.fold_unissued (t : Thread) (b : List Byte) : (t.fold b).unissued = t.unissued := (congrArg Thread.unissued (Thread.fold_eq t b) :)
@[simp] theorem Thread.fold_sinceExchange (t : Thread) (b : List Byte) : (t.fold b).sinceExchange = t.sinceExchange := (congrArg Thread.sinceExchange (Thread.fold_eq t b) :)
@[simp] theorem Thread.fold_exchangeDue (t : Thread) (b : List Byte) : (t.fold b).exchangeDue = t.exchangeDue := (congrArg Thread.exchangeDue (Thread.fold_eq t b) :)
@[simp] theorem Thread.fold_entered (t : Thread) (b : List Byte) : (t.fold b).entered = t.entered := (congrArg Thread.entered (Thread.fold_eq t b) :)
@[simp] theorem Thread.fold_tdup (t : Thread) (b : List Byte) : (t.fold b).tdup = t.tdup := (congrArg Thread.tdup (Thread.fold_eq t b) :)
@[simp] theorem Thread.fold_poisoned (t : Thread) (b : List Byte) : (t.fold b).poisoned = t.poisoned := (congrArg Thread.poisoned (Thread.fold_eq t b) :)
@[simp] theorem Thread.fold_te (t : Thread) (b : List Byte) : (t.fold b).te = t.te := (congrArg Thread.te (Thread.fold_eq t b) :)
@[simp] theorem Thread.fold_pairs (t : Thread) (b : List Byte) : (t.fold b).pairs = t.pairs := (congrArg Thread.pairs (Thread.fold_eq t b) :)
@[simp] theorem Thread.fold_plane0 (t : Thread) (b : List Byte) : (t.fold b).plane0 = t.plane0 := (congrArg Thread.plane0 (Thread.fold_eq t b) :)
@[simp] theorem Thread.fold_plane1 (t : Thread) (b : List Byte) : (t.fold b).plane1 = t.plane1 := (congrArg Thread.plane1 (Thread.fold_eq t b) :)
@[simp] theorem Thread.fold_teSeq (t : Thread) (b : List Byte) : (t.fold b).teSeq = t.teSeq := (congrArg Thread.teSeq (Thread.fold_eq t b) :)
theorem Thread.foldReg_eq (t : Thread) (g n v : Nat) : t.foldReg g n v = { t with crc := (t.foldReg g n v).crc, shadowCrc := (t.foldReg g n v).shadowCrc } := by
  unfold Thread.foldReg Thread.fold; (repeat split) <;> rfl
@[simp] theorem Thread.foldReg_resident (t : Thread) (g n v : Nat) : (t.foldReg g n v).resident = t.resident := (congrArg Thread.resident (Thread.foldReg_eq t g n v) :)
@[simp] theorem Thread.foldReg_who (t : Thread) (g n v : Nat) : (t.foldReg g n v).who = t.who := (congrArg Thread.who (Thread.foldReg_eq t g n v) :)
@[simp] theorem Thread.foldReg_pc (t : Thread) (g n v : Nat) : (t.foldReg g n v).pc = t.pc := (congrArg Thread.pc (Thread.foldReg_eq t g n v) :)
@[simp] theorem Thread.foldReg_x (t : Thread) (g n v : Nat) : (t.foldReg g n v).x = t.x := (congrArg Thread.x (Thread.foldReg_eq t g n v) :)
@[simp] theorem Thread.foldReg_f (t : Thread) (g n v : Nat) : (t.foldReg g n v).f = t.f := (congrArg Thread.f (Thread.foldReg_eq t g n v) :)
@[simp] theorem Thread.foldReg_v (t : Thread) (g n v : Nat) : (t.foldReg g n v).v = t.v := (congrArg Thread.v (Thread.foldReg_eq t g n v) :)
@[simp] theorem Thread.foldReg_k (t : Thread) (g n v : Nat) : (t.foldReg g n v).k = t.k := (congrArg Thread.k (Thread.foldReg_eq t g n v) :)
@[simp] theorem Thread.foldReg_t (t : Thread) (g n v : Nat) : (t.foldReg g n v).t = t.t := (congrArg Thread.t (Thread.foldReg_eq t g n v) :)
@[simp] theorem Thread.foldReg_a (t : Thread) (g n v : Nat) : (t.foldReg g n v).a = t.a := (congrArg Thread.a (Thread.foldReg_eq t g n v) :)
@[simp] theorem Thread.foldReg_wp0 (t : Thread) (g n v : Nat) : (t.foldReg g n v).wp0 = t.wp0 := (congrArg Thread.wp0 (Thread.foldReg_eq t g n v) :)
@[simp] theorem Thread.foldReg_wp1 (t : Thread) (g n v : Nat) : (t.foldReg g n v).wp1 = t.wp1 := (congrArg Thread.wp1 (Thread.foldReg_eq t g n v) :)
@[simp] theorem Thread.foldReg_spare0 (t : Thread) (g n v : Nat) : (t.foldReg g n v).spare0 = t.spare0 := (congrArg Thread.spare0 (Thread.foldReg_eq t g n v) :)
@[simp] theorem Thread.foldReg_spare1 (t : Thread) (g n v : Nat) : (t.foldReg g n v).spare1 = t.spare1 := (congrArg Thread.spare1 (Thread.foldReg_eq t g n v) :)
@[simp] theorem Thread.foldReg_lc0 (t : Thread) (g n v : Nat) : (t.foldReg g n v).lc0 = t.lc0 := (congrArg Thread.lc0 (Thread.foldReg_eq t g n v) :)
@[simp] theorem Thread.foldReg_lc1 (t : Thread) (g n v : Nat) : (t.foldReg g n v).lc1 = t.lc1 := (congrArg Thread.lc1 (Thread.foldReg_eq t g n v) :)
@[simp] theorem Thread.foldReg_lbeg0 (t : Thread) (g n v : Nat) : (t.foldReg g n v).lbeg0 = t.lbeg0 := (congrArg Thread.lbeg0 (Thread.foldReg_eq t g n v) :)
@[simp] theorem Thread.foldReg_lend0 (t : Thread) (g n v : Nat) : (t.foldReg g n v).lend0 = t.lend0 := (congrArg Thread.lend0 (Thread.foldReg_eq t g n v) :)
@[simp] theorem Thread.foldReg_lbeg1 (t : Thread) (g n v : Nat) : (t.foldReg g n v).lbeg1 = t.lbeg1 := (congrArg Thread.lbeg1 (Thread.foldReg_eq t g n v) :)
@[simp] theorem Thread.foldReg_lend1 (t : Thread) (g n v : Nat) : (t.foldReg g n v).lend1 = t.lend1 := (congrArg Thread.lend1 (Thread.foldReg_eq t g n v) :)
@[simp] theorem Thread.foldReg_cg (t : Thread) (g n v : Nat) : (t.foldReg g n v).cg = t.cg := (congrArg Thread.cg (Thread.foldReg_eq t g n v) :)
@[simp] theorem Thread.foldReg_psig (t : Thread) (g n v : Nat) : (t.foldReg g n v).psig = t.psig := (congrArg Thread.psig (Thread.foldReg_eq t g n v) :)
@[simp] theorem Thread.foldReg_ors (t : Thread) (g n v : Nat) : (t.foldReg g n v).ors = t.ors := (congrArg Thread.ors (Thread.foldReg_eq t g n v) :)
@[simp] theorem Thread.foldReg_prg (t : Thread) (g n v : Nat) : (t.foldReg g n v).prg = t.prg := (congrArg Thread.prg (Thread.foldReg_eq t g n v) :)
@[simp] theorem Thread.foldReg_fcsr (t : Thread) (g n v : Nat) : (t.foldReg g n v).fcsr = t.fcsr := (congrArg Thread.fcsr (Thread.foldReg_eq t g n v) :)
@[simp] theorem Thread.foldReg_tag (t : Thread) (g n v : Nat) : (t.foldReg g n v).tag = t.tag := (congrArg Thread.tag (Thread.foldReg_eq t g n v) :)
@[simp] theorem Thread.foldReg_instret (t : Thread) (g n v : Nat) : (t.foldReg g n v).instret = t.instret := (congrArg Thread.instret (Thread.foldReg_eq t g n v) :)
@[simp] theorem Thread.foldReg_step (t : Thread) (g n v : Nat) : (t.foldReg g n v).step = t.step := (congrArg Thread.step (Thread.foldReg_eq t g n v) :)
@[simp] theorem Thread.foldReg_fullAcq (t : Thread) (g n v : Nat) : (t.foldReg g n v).fullAcq = t.fullAcq := (congrArg Thread.fullAcq (Thread.foldReg_eq t g n v) :)
@[simp] theorem Thread.foldReg_selInv (t : Thread) (g n v : Nat) : (t.foldReg g n v).selInv = t.selInv := (congrArg Thread.selInv (Thread.foldReg_eq t g n v) :)
@[simp] theorem Thread.foldReg_status (t : Thread) (g n v : Nat) : (t.foldReg g n v).status = t.status := (congrArg Thread.status (Thread.foldReg_eq t g n v) :)
@[simp] theorem Thread.foldReg_epc (t : Thread) (g n v : Nat) : (t.foldReg g n v).epc = t.epc := (congrArg Thread.epc (Thread.foldReg_eq t g n v) :)
@[simp] theorem Thread.foldReg_ecause (t : Thread) (g n v : Nat) : (t.foldReg g n v).ecause = t.ecause := (congrArg Thread.ecause (Thread.foldReg_eq t g n v) :)
@[simp] theorem Thread.foldReg_eva (t : Thread) (g n v : Nat) : (t.foldReg g n v).eva = t.eva := (congrArg Thread.eva (Thread.foldReg_eq t g n v) :)
@[simp] theorem Thread.foldReg_einfo (t : Thread) (g n v : Nat) : (t.foldReg g n v).einfo = t.einfo := (congrArg Thread.einfo (Thread.foldReg_eq t g n v) :)
@[simp] theorem Thread.foldReg_evec (t : Thread) (g n v : Nat) : (t.foldReg g n v).evec = t.evec := (congrArg Thread.evec (Thread.foldReg_eq t g n v) :)
@[simp] theorem Thread.foldReg_kscratch (t : Thread) (g n v : Nat) : (t.foldReg g n v).kscratch = t.kscratch := (congrArg Thread.kscratch (Thread.foldReg_eq t g n v) :)
@[simp] theorem Thread.foldReg_slice (t : Thread) (g n v : Nat) : (t.foldReg g n v).slice = t.slice := (congrArg Thread.slice (Thread.foldReg_eq t g n v) :)
@[simp] theorem Thread.foldReg_sliceE (t : Thread) (g n v : Nat) : (t.foldReg g n v).sliceE = t.sliceE := (congrArg Thread.sliceE (Thread.foldReg_eq t g n v) :)
@[simp] theorem Thread.foldReg_sliceRun (t : Thread) (g n v : Nat) : (t.foldReg g n v).sliceRun = t.sliceRun := (congrArg Thread.sliceRun (Thread.foldReg_eq t g n v) :)
@[simp] theorem Thread.foldReg_saveCost (t : Thread) (g n v : Nat) : (t.foldReg g n v).saveCost = t.saveCost := (congrArg Thread.saveCost (Thread.foldReg_eq t g n v) :)
@[simp] theorem Thread.foldReg_switchCost (t : Thread) (g n v : Nat) : (t.foldReg g n v).switchCost = t.switchCost := (congrArg Thread.switchCost (Thread.foldReg_eq t g n v) :)
@[simp] theorem Thread.foldReg_clampCnt (t : Thread) (g n v : Nat) : (t.foldReg g n v).clampCnt = t.clampCnt := (congrArg Thread.clampCnt (Thread.foldReg_eq t g n v) :)
@[simp] theorem Thread.foldReg_region (t : Thread) (g n v : Nat) : (t.foldReg g n v).region = t.region := (congrArg Thread.region (Thread.foldReg_eq t g n v) :)
@[simp] theorem Thread.foldReg_regionCount (t : Thread) (g n v : Nat) : (t.foldReg g n v).regionCount = t.regionCount := (congrArg Thread.regionCount (Thread.foldReg_eq t g n v) :)
@[simp] theorem Thread.foldReg_irq16 (t : Thread) (g n v : Nat) : (t.foldReg g n v).irq16 = t.irq16 := (congrArg Thread.irq16 (Thread.foldReg_eq t g n v) :)
@[simp] theorem Thread.foldReg_irq17 (t : Thread) (g n v : Nat) : (t.foldReg g n v).irq17 = t.irq17 := (congrArg Thread.irq17 (Thread.foldReg_eq t g n v) :)
@[simp] theorem Thread.foldReg_copyRecs (t : Thread) (g n v : Nat) : (t.foldReg g n v).copyRecs = t.copyRecs := (congrArg Thread.copyRecs (Thread.foldReg_eq t g n v) :)
@[simp] theorem Thread.foldReg_denial (t : Thread) (g n v : Nat) : (t.foldReg g n v).denial = t.denial := (congrArg Thread.denial (Thread.foldReg_eq t g n v) :)
@[simp] theorem Thread.foldReg_flipped (t : Thread) (g n v : Nat) : (t.foldReg g n v).flipped = t.flipped := (congrArg Thread.flipped (Thread.foldReg_eq t g n v) :)
@[simp] theorem Thread.foldReg_parked (t : Thread) (g n v : Nat) : (t.foldReg g n v).parked = t.parked := (congrArg Thread.parked (Thread.foldReg_eq t g n v) :)
@[simp] theorem Thread.foldReg_reqs (t : Thread) (g n v : Nat) : (t.foldReg g n v).reqs = t.reqs := (congrArg Thread.reqs (Thread.foldReg_eq t g n v) :)
@[simp] theorem Thread.foldReg_answers (t : Thread) (g n v : Nat) : (t.foldReg g n v).answers = t.answers := (congrArg Thread.answers (Thread.foldReg_eq t g n v) :)
@[simp] theorem Thread.foldReg_sent (t : Thread) (g n v : Nat) : (t.foldReg g n v).sent = t.sent := (congrArg Thread.sent (Thread.foldReg_eq t g n v) :)
@[simp] theorem Thread.foldReg_waiting (t : Thread) (g n v : Nat) : (t.foldReg g n v).waiting = t.waiting := (congrArg Thread.waiting (Thread.foldReg_eq t g n v) :)
@[simp] theorem Thread.foldReg_bits (t : Thread) (g n v : Nat) : (t.foldReg g n v).bits = t.bits := (congrArg Thread.bits (Thread.foldReg_eq t g n v) :)
@[simp] theorem Thread.foldReg_plan (t : Thread) (g n v : Nat) : (t.foldReg g n v).plan = t.plan := (congrArg Thread.plan (Thread.foldReg_eq t g n v) :)
@[simp] theorem Thread.foldReg_got (t : Thread) (g n v : Nat) : (t.foldReg g n v).got = t.got := (congrArg Thread.got (Thread.foldReg_eq t g n v) :)
@[simp] theorem Thread.foldReg_sending (t : Thread) (g n v : Nat) : (t.foldReg g n v).sending = t.sending := (congrArg Thread.sending (Thread.foldReg_eq t g n v) :)
@[simp] theorem Thread.foldReg_popped (t : Thread) (g n v : Nat) : (t.foldReg g n v).popped = t.popped := (congrArg Thread.popped (Thread.foldReg_eq t g n v) :)
@[simp] theorem Thread.foldReg_checkpoints (t : Thread) (g n v : Nat) : (t.foldReg g n v).checkpoints = t.checkpoints := (congrArg Thread.checkpoints (Thread.foldReg_eq t g n v) :)
@[simp] theorem Thread.foldReg_looped (t : Thread) (g n v : Nat) : (t.foldReg g n v).looped = t.looped := (congrArg Thread.looped (Thread.foldReg_eq t g n v) :)
@[simp] theorem Thread.foldReg_atVector (t : Thread) (g n v : Nat) : (t.foldReg g n v).atVector = t.atVector := (congrArg Thread.atVector (Thread.foldReg_eq t g n v) :)
@[simp] theorem Thread.foldReg_shadow (t : Thread) (g n v : Nat) : (t.foldReg g n v).shadow = t.shadow := (congrArg Thread.shadow (Thread.foldReg_eq t g n v) :)
@[simp] theorem Thread.foldReg_fetchAge (t : Thread) (g n v : Nat) : (t.foldReg g n v).fetchAge = t.fetchAge := (congrArg Thread.fetchAge (Thread.foldReg_eq t g n v) :)
@[simp] theorem Thread.foldReg_decodeAge (t : Thread) (g n v : Nat) : (t.foldReg g n v).decodeAge = t.decodeAge := (congrArg Thread.decodeAge (Thread.foldReg_eq t g n v) :)
@[simp] theorem Thread.foldReg_buffered (t : Thread) (g n v : Nat) : (t.foldReg g n v).buffered = t.buffered := (congrArg Thread.buffered (Thread.foldReg_eq t g n v) :)
@[simp] theorem Thread.foldReg_ahead (t : Thread) (g n v : Nat) : (t.foldReg g n v).ahead = t.ahead := (congrArg Thread.ahead (Thread.foldReg_eq t g n v) :)
@[simp] theorem Thread.foldReg_unissued (t : Thread) (g n v : Nat) : (t.foldReg g n v).unissued = t.unissued := (congrArg Thread.unissued (Thread.foldReg_eq t g n v) :)
@[simp] theorem Thread.foldReg_sinceExchange (t : Thread) (g n v : Nat) : (t.foldReg g n v).sinceExchange = t.sinceExchange := (congrArg Thread.sinceExchange (Thread.foldReg_eq t g n v) :)
@[simp] theorem Thread.foldReg_exchangeDue (t : Thread) (g n v : Nat) : (t.foldReg g n v).exchangeDue = t.exchangeDue := (congrArg Thread.exchangeDue (Thread.foldReg_eq t g n v) :)
@[simp] theorem Thread.foldReg_entered (t : Thread) (g n v : Nat) : (t.foldReg g n v).entered = t.entered := (congrArg Thread.entered (Thread.foldReg_eq t g n v) :)
@[simp] theorem Thread.foldReg_tdup (t : Thread) (g n v : Nat) : (t.foldReg g n v).tdup = t.tdup := (congrArg Thread.tdup (Thread.foldReg_eq t g n v) :)
@[simp] theorem Thread.foldReg_poisoned (t : Thread) (g n v : Nat) : (t.foldReg g n v).poisoned = t.poisoned := (congrArg Thread.poisoned (Thread.foldReg_eq t g n v) :)
@[simp] theorem Thread.foldReg_te (t : Thread) (g n v : Nat) : (t.foldReg g n v).te = t.te := (congrArg Thread.te (Thread.foldReg_eq t g n v) :)
@[simp] theorem Thread.foldReg_pairs (t : Thread) (g n v : Nat) : (t.foldReg g n v).pairs = t.pairs := (congrArg Thread.pairs (Thread.foldReg_eq t g n v) :)
@[simp] theorem Thread.foldReg_plane0 (t : Thread) (g n v : Nat) : (t.foldReg g n v).plane0 = t.plane0 := (congrArg Thread.plane0 (Thread.foldReg_eq t g n v) :)
@[simp] theorem Thread.foldReg_plane1 (t : Thread) (g n v : Nat) : (t.foldReg g n v).plane1 = t.plane1 := (congrArg Thread.plane1 (Thread.foldReg_eq t g n v) :)
@[simp] theorem Thread.foldReg_teSeq (t : Thread) (g n v : Nat) : (t.foldReg g n v).teSeq = t.teSeq := (congrArg Thread.teSeq (Thread.foldReg_eq t g n v) :)
theorem Thread.foldStore_eq (t : Thread) (a : Word) (n v : Nat) : t.foldStore a n v = { t with crc := (t.foldStore a n v).crc, shadowCrc := (t.foldStore a n v).shadowCrc } := by
  unfold Thread.foldStore Thread.fold; (repeat split) <;> rfl
@[simp] theorem Thread.foldStore_resident (t : Thread) (a : Word) (n v : Nat) : (t.foldStore a n v).resident = t.resident := (congrArg Thread.resident (Thread.foldStore_eq t a n v) :)
@[simp] theorem Thread.foldStore_who (t : Thread) (a : Word) (n v : Nat) : (t.foldStore a n v).who = t.who := (congrArg Thread.who (Thread.foldStore_eq t a n v) :)
@[simp] theorem Thread.foldStore_pc (t : Thread) (a : Word) (n v : Nat) : (t.foldStore a n v).pc = t.pc := (congrArg Thread.pc (Thread.foldStore_eq t a n v) :)
@[simp] theorem Thread.foldStore_x (t : Thread) (a : Word) (n v : Nat) : (t.foldStore a n v).x = t.x := (congrArg Thread.x (Thread.foldStore_eq t a n v) :)
@[simp] theorem Thread.foldStore_f (t : Thread) (a : Word) (n v : Nat) : (t.foldStore a n v).f = t.f := (congrArg Thread.f (Thread.foldStore_eq t a n v) :)
@[simp] theorem Thread.foldStore_v (t : Thread) (a : Word) (n v : Nat) : (t.foldStore a n v).v = t.v := (congrArg Thread.v (Thread.foldStore_eq t a n v) :)
@[simp] theorem Thread.foldStore_k (t : Thread) (a : Word) (n v : Nat) : (t.foldStore a n v).k = t.k := (congrArg Thread.k (Thread.foldStore_eq t a n v) :)
@[simp] theorem Thread.foldStore_t (t : Thread) (a : Word) (n v : Nat) : (t.foldStore a n v).t = t.t := (congrArg Thread.t (Thread.foldStore_eq t a n v) :)
@[simp] theorem Thread.foldStore_a (t : Thread) (a : Word) (n v : Nat) : (t.foldStore a n v).a = t.a := (congrArg Thread.a (Thread.foldStore_eq t a n v) :)
@[simp] theorem Thread.foldStore_wp0 (t : Thread) (a : Word) (n v : Nat) : (t.foldStore a n v).wp0 = t.wp0 := (congrArg Thread.wp0 (Thread.foldStore_eq t a n v) :)
@[simp] theorem Thread.foldStore_wp1 (t : Thread) (a : Word) (n v : Nat) : (t.foldStore a n v).wp1 = t.wp1 := (congrArg Thread.wp1 (Thread.foldStore_eq t a n v) :)
@[simp] theorem Thread.foldStore_spare0 (t : Thread) (a : Word) (n v : Nat) : (t.foldStore a n v).spare0 = t.spare0 := (congrArg Thread.spare0 (Thread.foldStore_eq t a n v) :)
@[simp] theorem Thread.foldStore_spare1 (t : Thread) (a : Word) (n v : Nat) : (t.foldStore a n v).spare1 = t.spare1 := (congrArg Thread.spare1 (Thread.foldStore_eq t a n v) :)
@[simp] theorem Thread.foldStore_lc0 (t : Thread) (a : Word) (n v : Nat) : (t.foldStore a n v).lc0 = t.lc0 := (congrArg Thread.lc0 (Thread.foldStore_eq t a n v) :)
@[simp] theorem Thread.foldStore_lc1 (t : Thread) (a : Word) (n v : Nat) : (t.foldStore a n v).lc1 = t.lc1 := (congrArg Thread.lc1 (Thread.foldStore_eq t a n v) :)
@[simp] theorem Thread.foldStore_lbeg0 (t : Thread) (a : Word) (n v : Nat) : (t.foldStore a n v).lbeg0 = t.lbeg0 := (congrArg Thread.lbeg0 (Thread.foldStore_eq t a n v) :)
@[simp] theorem Thread.foldStore_lend0 (t : Thread) (a : Word) (n v : Nat) : (t.foldStore a n v).lend0 = t.lend0 := (congrArg Thread.lend0 (Thread.foldStore_eq t a n v) :)
@[simp] theorem Thread.foldStore_lbeg1 (t : Thread) (a : Word) (n v : Nat) : (t.foldStore a n v).lbeg1 = t.lbeg1 := (congrArg Thread.lbeg1 (Thread.foldStore_eq t a n v) :)
@[simp] theorem Thread.foldStore_lend1 (t : Thread) (a : Word) (n v : Nat) : (t.foldStore a n v).lend1 = t.lend1 := (congrArg Thread.lend1 (Thread.foldStore_eq t a n v) :)
@[simp] theorem Thread.foldStore_cg (t : Thread) (a : Word) (n v : Nat) : (t.foldStore a n v).cg = t.cg := (congrArg Thread.cg (Thread.foldStore_eq t a n v) :)
@[simp] theorem Thread.foldStore_psig (t : Thread) (a : Word) (n v : Nat) : (t.foldStore a n v).psig = t.psig := (congrArg Thread.psig (Thread.foldStore_eq t a n v) :)
@[simp] theorem Thread.foldStore_ors (t : Thread) (a : Word) (n v : Nat) : (t.foldStore a n v).ors = t.ors := (congrArg Thread.ors (Thread.foldStore_eq t a n v) :)
@[simp] theorem Thread.foldStore_prg (t : Thread) (a : Word) (n v : Nat) : (t.foldStore a n v).prg = t.prg := (congrArg Thread.prg (Thread.foldStore_eq t a n v) :)
@[simp] theorem Thread.foldStore_fcsr (t : Thread) (a : Word) (n v : Nat) : (t.foldStore a n v).fcsr = t.fcsr := (congrArg Thread.fcsr (Thread.foldStore_eq t a n v) :)
@[simp] theorem Thread.foldStore_tag (t : Thread) (a : Word) (n v : Nat) : (t.foldStore a n v).tag = t.tag := (congrArg Thread.tag (Thread.foldStore_eq t a n v) :)
@[simp] theorem Thread.foldStore_instret (t : Thread) (a : Word) (n v : Nat) : (t.foldStore a n v).instret = t.instret := (congrArg Thread.instret (Thread.foldStore_eq t a n v) :)
@[simp] theorem Thread.foldStore_step (t : Thread) (a : Word) (n v : Nat) : (t.foldStore a n v).step = t.step := (congrArg Thread.step (Thread.foldStore_eq t a n v) :)
@[simp] theorem Thread.foldStore_fullAcq (t : Thread) (a : Word) (n v : Nat) : (t.foldStore a n v).fullAcq = t.fullAcq := (congrArg Thread.fullAcq (Thread.foldStore_eq t a n v) :)
@[simp] theorem Thread.foldStore_selInv (t : Thread) (a : Word) (n v : Nat) : (t.foldStore a n v).selInv = t.selInv := (congrArg Thread.selInv (Thread.foldStore_eq t a n v) :)
@[simp] theorem Thread.foldStore_status (t : Thread) (a : Word) (n v : Nat) : (t.foldStore a n v).status = t.status := (congrArg Thread.status (Thread.foldStore_eq t a n v) :)
@[simp] theorem Thread.foldStore_epc (t : Thread) (a : Word) (n v : Nat) : (t.foldStore a n v).epc = t.epc := (congrArg Thread.epc (Thread.foldStore_eq t a n v) :)
@[simp] theorem Thread.foldStore_ecause (t : Thread) (a : Word) (n v : Nat) : (t.foldStore a n v).ecause = t.ecause := (congrArg Thread.ecause (Thread.foldStore_eq t a n v) :)
@[simp] theorem Thread.foldStore_eva (t : Thread) (a : Word) (n v : Nat) : (t.foldStore a n v).eva = t.eva := (congrArg Thread.eva (Thread.foldStore_eq t a n v) :)
@[simp] theorem Thread.foldStore_einfo (t : Thread) (a : Word) (n v : Nat) : (t.foldStore a n v).einfo = t.einfo := (congrArg Thread.einfo (Thread.foldStore_eq t a n v) :)
@[simp] theorem Thread.foldStore_evec (t : Thread) (a : Word) (n v : Nat) : (t.foldStore a n v).evec = t.evec := (congrArg Thread.evec (Thread.foldStore_eq t a n v) :)
@[simp] theorem Thread.foldStore_kscratch (t : Thread) (a : Word) (n v : Nat) : (t.foldStore a n v).kscratch = t.kscratch := (congrArg Thread.kscratch (Thread.foldStore_eq t a n v) :)
@[simp] theorem Thread.foldStore_slice (t : Thread) (a : Word) (n v : Nat) : (t.foldStore a n v).slice = t.slice := (congrArg Thread.slice (Thread.foldStore_eq t a n v) :)
@[simp] theorem Thread.foldStore_sliceE (t : Thread) (a : Word) (n v : Nat) : (t.foldStore a n v).sliceE = t.sliceE := (congrArg Thread.sliceE (Thread.foldStore_eq t a n v) :)
@[simp] theorem Thread.foldStore_sliceRun (t : Thread) (a : Word) (n v : Nat) : (t.foldStore a n v).sliceRun = t.sliceRun := (congrArg Thread.sliceRun (Thread.foldStore_eq t a n v) :)
@[simp] theorem Thread.foldStore_saveCost (t : Thread) (a : Word) (n v : Nat) : (t.foldStore a n v).saveCost = t.saveCost := (congrArg Thread.saveCost (Thread.foldStore_eq t a n v) :)
@[simp] theorem Thread.foldStore_switchCost (t : Thread) (a : Word) (n v : Nat) : (t.foldStore a n v).switchCost = t.switchCost := (congrArg Thread.switchCost (Thread.foldStore_eq t a n v) :)
@[simp] theorem Thread.foldStore_clampCnt (t : Thread) (a : Word) (n v : Nat) : (t.foldStore a n v).clampCnt = t.clampCnt := (congrArg Thread.clampCnt (Thread.foldStore_eq t a n v) :)
@[simp] theorem Thread.foldStore_region (t : Thread) (a : Word) (n v : Nat) : (t.foldStore a n v).region = t.region := (congrArg Thread.region (Thread.foldStore_eq t a n v) :)
@[simp] theorem Thread.foldStore_regionCount (t : Thread) (a : Word) (n v : Nat) : (t.foldStore a n v).regionCount = t.regionCount := (congrArg Thread.regionCount (Thread.foldStore_eq t a n v) :)
@[simp] theorem Thread.foldStore_irq16 (t : Thread) (a : Word) (n v : Nat) : (t.foldStore a n v).irq16 = t.irq16 := (congrArg Thread.irq16 (Thread.foldStore_eq t a n v) :)
@[simp] theorem Thread.foldStore_irq17 (t : Thread) (a : Word) (n v : Nat) : (t.foldStore a n v).irq17 = t.irq17 := (congrArg Thread.irq17 (Thread.foldStore_eq t a n v) :)
@[simp] theorem Thread.foldStore_copyRecs (t : Thread) (a : Word) (n v : Nat) : (t.foldStore a n v).copyRecs = t.copyRecs := (congrArg Thread.copyRecs (Thread.foldStore_eq t a n v) :)
@[simp] theorem Thread.foldStore_denial (t : Thread) (a : Word) (n v : Nat) : (t.foldStore a n v).denial = t.denial := (congrArg Thread.denial (Thread.foldStore_eq t a n v) :)
@[simp] theorem Thread.foldStore_flipped (t : Thread) (a : Word) (n v : Nat) : (t.foldStore a n v).flipped = t.flipped := (congrArg Thread.flipped (Thread.foldStore_eq t a n v) :)
@[simp] theorem Thread.foldStore_parked (t : Thread) (a : Word) (n v : Nat) : (t.foldStore a n v).parked = t.parked := (congrArg Thread.parked (Thread.foldStore_eq t a n v) :)
@[simp] theorem Thread.foldStore_reqs (t : Thread) (a : Word) (n v : Nat) : (t.foldStore a n v).reqs = t.reqs := (congrArg Thread.reqs (Thread.foldStore_eq t a n v) :)
@[simp] theorem Thread.foldStore_answers (t : Thread) (a : Word) (n v : Nat) : (t.foldStore a n v).answers = t.answers := (congrArg Thread.answers (Thread.foldStore_eq t a n v) :)
@[simp] theorem Thread.foldStore_sent (t : Thread) (a : Word) (n v : Nat) : (t.foldStore a n v).sent = t.sent := (congrArg Thread.sent (Thread.foldStore_eq t a n v) :)
@[simp] theorem Thread.foldStore_waiting (t : Thread) (a : Word) (n v : Nat) : (t.foldStore a n v).waiting = t.waiting := (congrArg Thread.waiting (Thread.foldStore_eq t a n v) :)
@[simp] theorem Thread.foldStore_bits (t : Thread) (a : Word) (n v : Nat) : (t.foldStore a n v).bits = t.bits := (congrArg Thread.bits (Thread.foldStore_eq t a n v) :)
@[simp] theorem Thread.foldStore_plan (t : Thread) (a : Word) (n v : Nat) : (t.foldStore a n v).plan = t.plan := (congrArg Thread.plan (Thread.foldStore_eq t a n v) :)
@[simp] theorem Thread.foldStore_got (t : Thread) (a : Word) (n v : Nat) : (t.foldStore a n v).got = t.got := (congrArg Thread.got (Thread.foldStore_eq t a n v) :)
@[simp] theorem Thread.foldStore_sending (t : Thread) (a : Word) (n v : Nat) : (t.foldStore a n v).sending = t.sending := (congrArg Thread.sending (Thread.foldStore_eq t a n v) :)
@[simp] theorem Thread.foldStore_popped (t : Thread) (a : Word) (n v : Nat) : (t.foldStore a n v).popped = t.popped := (congrArg Thread.popped (Thread.foldStore_eq t a n v) :)
@[simp] theorem Thread.foldStore_checkpoints (t : Thread) (a : Word) (n v : Nat) : (t.foldStore a n v).checkpoints = t.checkpoints := (congrArg Thread.checkpoints (Thread.foldStore_eq t a n v) :)
@[simp] theorem Thread.foldStore_looped (t : Thread) (a : Word) (n v : Nat) : (t.foldStore a n v).looped = t.looped := (congrArg Thread.looped (Thread.foldStore_eq t a n v) :)
@[simp] theorem Thread.foldStore_atVector (t : Thread) (a : Word) (n v : Nat) : (t.foldStore a n v).atVector = t.atVector := (congrArg Thread.atVector (Thread.foldStore_eq t a n v) :)
@[simp] theorem Thread.foldStore_shadow (t : Thread) (a : Word) (n v : Nat) : (t.foldStore a n v).shadow = t.shadow := (congrArg Thread.shadow (Thread.foldStore_eq t a n v) :)
@[simp] theorem Thread.foldStore_fetchAge (t : Thread) (a : Word) (n v : Nat) : (t.foldStore a n v).fetchAge = t.fetchAge := (congrArg Thread.fetchAge (Thread.foldStore_eq t a n v) :)
@[simp] theorem Thread.foldStore_decodeAge (t : Thread) (a : Word) (n v : Nat) : (t.foldStore a n v).decodeAge = t.decodeAge := (congrArg Thread.decodeAge (Thread.foldStore_eq t a n v) :)
@[simp] theorem Thread.foldStore_buffered (t : Thread) (a : Word) (n v : Nat) : (t.foldStore a n v).buffered = t.buffered := (congrArg Thread.buffered (Thread.foldStore_eq t a n v) :)
@[simp] theorem Thread.foldStore_ahead (t : Thread) (a : Word) (n v : Nat) : (t.foldStore a n v).ahead = t.ahead := (congrArg Thread.ahead (Thread.foldStore_eq t a n v) :)
@[simp] theorem Thread.foldStore_unissued (t : Thread) (a : Word) (n v : Nat) : (t.foldStore a n v).unissued = t.unissued := (congrArg Thread.unissued (Thread.foldStore_eq t a n v) :)
@[simp] theorem Thread.foldStore_sinceExchange (t : Thread) (a : Word) (n v : Nat) : (t.foldStore a n v).sinceExchange = t.sinceExchange := (congrArg Thread.sinceExchange (Thread.foldStore_eq t a n v) :)
@[simp] theorem Thread.foldStore_exchangeDue (t : Thread) (a : Word) (n v : Nat) : (t.foldStore a n v).exchangeDue = t.exchangeDue := (congrArg Thread.exchangeDue (Thread.foldStore_eq t a n v) :)
@[simp] theorem Thread.foldStore_entered (t : Thread) (a : Word) (n v : Nat) : (t.foldStore a n v).entered = t.entered := (congrArg Thread.entered (Thread.foldStore_eq t a n v) :)
@[simp] theorem Thread.foldStore_tdup (t : Thread) (a : Word) (n v : Nat) : (t.foldStore a n v).tdup = t.tdup := (congrArg Thread.tdup (Thread.foldStore_eq t a n v) :)
@[simp] theorem Thread.foldStore_poisoned (t : Thread) (a : Word) (n v : Nat) : (t.foldStore a n v).poisoned = t.poisoned := (congrArg Thread.poisoned (Thread.foldStore_eq t a n v) :)
@[simp] theorem Thread.foldStore_te (t : Thread) (a : Word) (n v : Nat) : (t.foldStore a n v).te = t.te := (congrArg Thread.te (Thread.foldStore_eq t a n v) :)
@[simp] theorem Thread.foldStore_pairs (t : Thread) (a : Word) (n v : Nat) : (t.foldStore a n v).pairs = t.pairs := (congrArg Thread.pairs (Thread.foldStore_eq t a n v) :)
@[simp] theorem Thread.foldStore_plane0 (t : Thread) (a : Word) (n v : Nat) : (t.foldStore a n v).plane0 = t.plane0 := (congrArg Thread.plane0 (Thread.foldStore_eq t a n v) :)
@[simp] theorem Thread.foldStore_plane1 (t : Thread) (a : Word) (n v : Nat) : (t.foldStore a n v).plane1 = t.plane1 := (congrArg Thread.plane1 (Thread.foldStore_eq t a n v) :)
@[simp] theorem Thread.foldStore_teSeq (t : Thread) (a : Word) (n v : Nat) : (t.foldStore a n v).teSeq = t.teSeq := (congrArg Thread.teSeq (Thread.foldStore_eq t a n v) :)
theorem Thread.wx_eq (t : Thread) (r : Reg) (v : Word) : t.wx r v = { t with crc := (t.wx r v).crc, shadowCrc := (t.wx r v).shadowCrc, x := (t.wx r v).x } := by
  unfold Thread.wx
  split
  · rfl
  · dsimp only; rw [Thread.foldReg_eq] <;> try rfl
@[simp] theorem Thread.wx_resident (t : Thread) (r : Reg) (v : Word) : (t.wx r v).resident = t.resident := (congrArg Thread.resident (Thread.wx_eq t r v) :)
@[simp] theorem Thread.wx_who (t : Thread) (r : Reg) (v : Word) : (t.wx r v).who = t.who := (congrArg Thread.who (Thread.wx_eq t r v) :)
@[simp] theorem Thread.wx_pc (t : Thread) (r : Reg) (v : Word) : (t.wx r v).pc = t.pc := (congrArg Thread.pc (Thread.wx_eq t r v) :)
@[simp] theorem Thread.wx_f (t : Thread) (r : Reg) (v : Word) : (t.wx r v).f = t.f := (congrArg Thread.f (Thread.wx_eq t r v) :)
@[simp] theorem Thread.wx_v (t : Thread) (r : Reg) (v : Word) : (t.wx r v).v = t.v := (congrArg Thread.v (Thread.wx_eq t r v) :)
@[simp] theorem Thread.wx_k (t : Thread) (r : Reg) (v : Word) : (t.wx r v).k = t.k := (congrArg Thread.k (Thread.wx_eq t r v) :)
@[simp] theorem Thread.wx_t (t : Thread) (r : Reg) (v : Word) : (t.wx r v).t = t.t := (congrArg Thread.t (Thread.wx_eq t r v) :)
@[simp] theorem Thread.wx_a (t : Thread) (r : Reg) (v : Word) : (t.wx r v).a = t.a := (congrArg Thread.a (Thread.wx_eq t r v) :)
@[simp] theorem Thread.wx_wp0 (t : Thread) (r : Reg) (v : Word) : (t.wx r v).wp0 = t.wp0 := (congrArg Thread.wp0 (Thread.wx_eq t r v) :)
@[simp] theorem Thread.wx_wp1 (t : Thread) (r : Reg) (v : Word) : (t.wx r v).wp1 = t.wp1 := (congrArg Thread.wp1 (Thread.wx_eq t r v) :)
@[simp] theorem Thread.wx_spare0 (t : Thread) (r : Reg) (v : Word) : (t.wx r v).spare0 = t.spare0 := (congrArg Thread.spare0 (Thread.wx_eq t r v) :)
@[simp] theorem Thread.wx_spare1 (t : Thread) (r : Reg) (v : Word) : (t.wx r v).spare1 = t.spare1 := (congrArg Thread.spare1 (Thread.wx_eq t r v) :)
@[simp] theorem Thread.wx_lc0 (t : Thread) (r : Reg) (v : Word) : (t.wx r v).lc0 = t.lc0 := (congrArg Thread.lc0 (Thread.wx_eq t r v) :)
@[simp] theorem Thread.wx_lc1 (t : Thread) (r : Reg) (v : Word) : (t.wx r v).lc1 = t.lc1 := (congrArg Thread.lc1 (Thread.wx_eq t r v) :)
@[simp] theorem Thread.wx_lbeg0 (t : Thread) (r : Reg) (v : Word) : (t.wx r v).lbeg0 = t.lbeg0 := (congrArg Thread.lbeg0 (Thread.wx_eq t r v) :)
@[simp] theorem Thread.wx_lend0 (t : Thread) (r : Reg) (v : Word) : (t.wx r v).lend0 = t.lend0 := (congrArg Thread.lend0 (Thread.wx_eq t r v) :)
@[simp] theorem Thread.wx_lbeg1 (t : Thread) (r : Reg) (v : Word) : (t.wx r v).lbeg1 = t.lbeg1 := (congrArg Thread.lbeg1 (Thread.wx_eq t r v) :)
@[simp] theorem Thread.wx_lend1 (t : Thread) (r : Reg) (v : Word) : (t.wx r v).lend1 = t.lend1 := (congrArg Thread.lend1 (Thread.wx_eq t r v) :)
@[simp] theorem Thread.wx_cg (t : Thread) (r : Reg) (v : Word) : (t.wx r v).cg = t.cg := (congrArg Thread.cg (Thread.wx_eq t r v) :)
@[simp] theorem Thread.wx_psig (t : Thread) (r : Reg) (v : Word) : (t.wx r v).psig = t.psig := (congrArg Thread.psig (Thread.wx_eq t r v) :)
@[simp] theorem Thread.wx_ors (t : Thread) (r : Reg) (v : Word) : (t.wx r v).ors = t.ors := (congrArg Thread.ors (Thread.wx_eq t r v) :)
@[simp] theorem Thread.wx_prg (t : Thread) (r : Reg) (v : Word) : (t.wx r v).prg = t.prg := (congrArg Thread.prg (Thread.wx_eq t r v) :)
@[simp] theorem Thread.wx_fcsr (t : Thread) (r : Reg) (v : Word) : (t.wx r v).fcsr = t.fcsr := (congrArg Thread.fcsr (Thread.wx_eq t r v) :)
@[simp] theorem Thread.wx_tag (t : Thread) (r : Reg) (v : Word) : (t.wx r v).tag = t.tag := (congrArg Thread.tag (Thread.wx_eq t r v) :)
@[simp] theorem Thread.wx_instret (t : Thread) (r : Reg) (v : Word) : (t.wx r v).instret = t.instret := (congrArg Thread.instret (Thread.wx_eq t r v) :)
@[simp] theorem Thread.wx_step (t : Thread) (r : Reg) (v : Word) : (t.wx r v).step = t.step := (congrArg Thread.step (Thread.wx_eq t r v) :)
@[simp] theorem Thread.wx_fullAcq (t : Thread) (r : Reg) (v : Word) : (t.wx r v).fullAcq = t.fullAcq := (congrArg Thread.fullAcq (Thread.wx_eq t r v) :)
@[simp] theorem Thread.wx_selInv (t : Thread) (r : Reg) (v : Word) : (t.wx r v).selInv = t.selInv := (congrArg Thread.selInv (Thread.wx_eq t r v) :)
@[simp] theorem Thread.wx_status (t : Thread) (r : Reg) (v : Word) : (t.wx r v).status = t.status := (congrArg Thread.status (Thread.wx_eq t r v) :)
@[simp] theorem Thread.wx_epc (t : Thread) (r : Reg) (v : Word) : (t.wx r v).epc = t.epc := (congrArg Thread.epc (Thread.wx_eq t r v) :)
@[simp] theorem Thread.wx_ecause (t : Thread) (r : Reg) (v : Word) : (t.wx r v).ecause = t.ecause := (congrArg Thread.ecause (Thread.wx_eq t r v) :)
@[simp] theorem Thread.wx_eva (t : Thread) (r : Reg) (v : Word) : (t.wx r v).eva = t.eva := (congrArg Thread.eva (Thread.wx_eq t r v) :)
@[simp] theorem Thread.wx_einfo (t : Thread) (r : Reg) (v : Word) : (t.wx r v).einfo = t.einfo := (congrArg Thread.einfo (Thread.wx_eq t r v) :)
@[simp] theorem Thread.wx_evec (t : Thread) (r : Reg) (v : Word) : (t.wx r v).evec = t.evec := (congrArg Thread.evec (Thread.wx_eq t r v) :)
@[simp] theorem Thread.wx_kscratch (t : Thread) (r : Reg) (v : Word) : (t.wx r v).kscratch = t.kscratch := (congrArg Thread.kscratch (Thread.wx_eq t r v) :)
@[simp] theorem Thread.wx_slice (t : Thread) (r : Reg) (v : Word) : (t.wx r v).slice = t.slice := (congrArg Thread.slice (Thread.wx_eq t r v) :)
@[simp] theorem Thread.wx_sliceE (t : Thread) (r : Reg) (v : Word) : (t.wx r v).sliceE = t.sliceE := (congrArg Thread.sliceE (Thread.wx_eq t r v) :)
@[simp] theorem Thread.wx_sliceRun (t : Thread) (r : Reg) (v : Word) : (t.wx r v).sliceRun = t.sliceRun := (congrArg Thread.sliceRun (Thread.wx_eq t r v) :)
@[simp] theorem Thread.wx_saveCost (t : Thread) (r : Reg) (v : Word) : (t.wx r v).saveCost = t.saveCost := (congrArg Thread.saveCost (Thread.wx_eq t r v) :)
@[simp] theorem Thread.wx_switchCost (t : Thread) (r : Reg) (v : Word) : (t.wx r v).switchCost = t.switchCost := (congrArg Thread.switchCost (Thread.wx_eq t r v) :)
@[simp] theorem Thread.wx_clampCnt (t : Thread) (r : Reg) (v : Word) : (t.wx r v).clampCnt = t.clampCnt := (congrArg Thread.clampCnt (Thread.wx_eq t r v) :)
@[simp] theorem Thread.wx_region (t : Thread) (r : Reg) (v : Word) : (t.wx r v).region = t.region := (congrArg Thread.region (Thread.wx_eq t r v) :)
@[simp] theorem Thread.wx_regionCount (t : Thread) (r : Reg) (v : Word) : (t.wx r v).regionCount = t.regionCount := (congrArg Thread.regionCount (Thread.wx_eq t r v) :)
@[simp] theorem Thread.wx_irq16 (t : Thread) (r : Reg) (v : Word) : (t.wx r v).irq16 = t.irq16 := (congrArg Thread.irq16 (Thread.wx_eq t r v) :)
@[simp] theorem Thread.wx_irq17 (t : Thread) (r : Reg) (v : Word) : (t.wx r v).irq17 = t.irq17 := (congrArg Thread.irq17 (Thread.wx_eq t r v) :)
@[simp] theorem Thread.wx_copyRecs (t : Thread) (r : Reg) (v : Word) : (t.wx r v).copyRecs = t.copyRecs := (congrArg Thread.copyRecs (Thread.wx_eq t r v) :)
@[simp] theorem Thread.wx_denial (t : Thread) (r : Reg) (v : Word) : (t.wx r v).denial = t.denial := (congrArg Thread.denial (Thread.wx_eq t r v) :)
@[simp] theorem Thread.wx_flipped (t : Thread) (r : Reg) (v : Word) : (t.wx r v).flipped = t.flipped := (congrArg Thread.flipped (Thread.wx_eq t r v) :)
@[simp] theorem Thread.wx_parked (t : Thread) (r : Reg) (v : Word) : (t.wx r v).parked = t.parked := (congrArg Thread.parked (Thread.wx_eq t r v) :)
@[simp] theorem Thread.wx_reqs (t : Thread) (r : Reg) (v : Word) : (t.wx r v).reqs = t.reqs := (congrArg Thread.reqs (Thread.wx_eq t r v) :)
@[simp] theorem Thread.wx_answers (t : Thread) (r : Reg) (v : Word) : (t.wx r v).answers = t.answers := (congrArg Thread.answers (Thread.wx_eq t r v) :)
@[simp] theorem Thread.wx_sent (t : Thread) (r : Reg) (v : Word) : (t.wx r v).sent = t.sent := (congrArg Thread.sent (Thread.wx_eq t r v) :)
@[simp] theorem Thread.wx_waiting (t : Thread) (r : Reg) (v : Word) : (t.wx r v).waiting = t.waiting := (congrArg Thread.waiting (Thread.wx_eq t r v) :)
@[simp] theorem Thread.wx_bits (t : Thread) (r : Reg) (v : Word) : (t.wx r v).bits = t.bits := (congrArg Thread.bits (Thread.wx_eq t r v) :)
@[simp] theorem Thread.wx_plan (t : Thread) (r : Reg) (v : Word) : (t.wx r v).plan = t.plan := (congrArg Thread.plan (Thread.wx_eq t r v) :)
@[simp] theorem Thread.wx_got (t : Thread) (r : Reg) (v : Word) : (t.wx r v).got = t.got := (congrArg Thread.got (Thread.wx_eq t r v) :)
@[simp] theorem Thread.wx_sending (t : Thread) (r : Reg) (v : Word) : (t.wx r v).sending = t.sending := (congrArg Thread.sending (Thread.wx_eq t r v) :)
@[simp] theorem Thread.wx_popped (t : Thread) (r : Reg) (v : Word) : (t.wx r v).popped = t.popped := (congrArg Thread.popped (Thread.wx_eq t r v) :)
@[simp] theorem Thread.wx_checkpoints (t : Thread) (r : Reg) (v : Word) : (t.wx r v).checkpoints = t.checkpoints := (congrArg Thread.checkpoints (Thread.wx_eq t r v) :)
@[simp] theorem Thread.wx_looped (t : Thread) (r : Reg) (v : Word) : (t.wx r v).looped = t.looped := (congrArg Thread.looped (Thread.wx_eq t r v) :)
@[simp] theorem Thread.wx_atVector (t : Thread) (r : Reg) (v : Word) : (t.wx r v).atVector = t.atVector := (congrArg Thread.atVector (Thread.wx_eq t r v) :)
@[simp] theorem Thread.wx_shadow (t : Thread) (r : Reg) (v : Word) : (t.wx r v).shadow = t.shadow := (congrArg Thread.shadow (Thread.wx_eq t r v) :)
@[simp] theorem Thread.wx_fetchAge (t : Thread) (r : Reg) (v : Word) : (t.wx r v).fetchAge = t.fetchAge := (congrArg Thread.fetchAge (Thread.wx_eq t r v) :)
@[simp] theorem Thread.wx_decodeAge (t : Thread) (r : Reg) (v : Word) : (t.wx r v).decodeAge = t.decodeAge := (congrArg Thread.decodeAge (Thread.wx_eq t r v) :)
@[simp] theorem Thread.wx_buffered (t : Thread) (r : Reg) (v : Word) : (t.wx r v).buffered = t.buffered := (congrArg Thread.buffered (Thread.wx_eq t r v) :)
@[simp] theorem Thread.wx_ahead (t : Thread) (r : Reg) (v : Word) : (t.wx r v).ahead = t.ahead := (congrArg Thread.ahead (Thread.wx_eq t r v) :)
@[simp] theorem Thread.wx_unissued (t : Thread) (r : Reg) (v : Word) : (t.wx r v).unissued = t.unissued := (congrArg Thread.unissued (Thread.wx_eq t r v) :)
@[simp] theorem Thread.wx_sinceExchange (t : Thread) (r : Reg) (v : Word) : (t.wx r v).sinceExchange = t.sinceExchange := (congrArg Thread.sinceExchange (Thread.wx_eq t r v) :)
@[simp] theorem Thread.wx_exchangeDue (t : Thread) (r : Reg) (v : Word) : (t.wx r v).exchangeDue = t.exchangeDue := (congrArg Thread.exchangeDue (Thread.wx_eq t r v) :)
@[simp] theorem Thread.wx_entered (t : Thread) (r : Reg) (v : Word) : (t.wx r v).entered = t.entered := (congrArg Thread.entered (Thread.wx_eq t r v) :)
@[simp] theorem Thread.wx_tdup (t : Thread) (r : Reg) (v : Word) : (t.wx r v).tdup = t.tdup := (congrArg Thread.tdup (Thread.wx_eq t r v) :)
@[simp] theorem Thread.wx_poisoned (t : Thread) (r : Reg) (v : Word) : (t.wx r v).poisoned = t.poisoned := (congrArg Thread.poisoned (Thread.wx_eq t r v) :)
@[simp] theorem Thread.wx_te (t : Thread) (r : Reg) (v : Word) : (t.wx r v).te = t.te := (congrArg Thread.te (Thread.wx_eq t r v) :)
@[simp] theorem Thread.wx_pairs (t : Thread) (r : Reg) (v : Word) : (t.wx r v).pairs = t.pairs := (congrArg Thread.pairs (Thread.wx_eq t r v) :)
@[simp] theorem Thread.wx_plane0 (t : Thread) (r : Reg) (v : Word) : (t.wx r v).plane0 = t.plane0 := (congrArg Thread.plane0 (Thread.wx_eq t r v) :)
@[simp] theorem Thread.wx_plane1 (t : Thread) (r : Reg) (v : Word) : (t.wx r v).plane1 = t.plane1 := (congrArg Thread.plane1 (Thread.wx_eq t r v) :)
@[simp] theorem Thread.wx_teSeq (t : Thread) (r : Reg) (v : Word) : (t.wx r v).teSeq = t.teSeq := (congrArg Thread.teSeq (Thread.wx_eq t r v) :)
theorem Thread.wf_eq (t : Thread) (r : Reg) (v : Word) : t.wf r v = { t with crc := (t.wf r v).crc, shadowCrc := (t.wf r v).shadowCrc, status := (t.wf r v).status, f := (t.wf r v).f } := by
  unfold Thread.wf
  dsimp only; rw [Thread.foldReg_eq] <;> try rfl
@[simp] theorem Thread.wf_resident (t : Thread) (r : Reg) (v : Word) : (t.wf r v).resident = t.resident := (congrArg Thread.resident (Thread.wf_eq t r v) :)
@[simp] theorem Thread.wf_who (t : Thread) (r : Reg) (v : Word) : (t.wf r v).who = t.who := (congrArg Thread.who (Thread.wf_eq t r v) :)
@[simp] theorem Thread.wf_pc (t : Thread) (r : Reg) (v : Word) : (t.wf r v).pc = t.pc := (congrArg Thread.pc (Thread.wf_eq t r v) :)
@[simp] theorem Thread.wf_x (t : Thread) (r : Reg) (v : Word) : (t.wf r v).x = t.x := (congrArg Thread.x (Thread.wf_eq t r v) :)
@[simp] theorem Thread.wf_v (t : Thread) (r : Reg) (v : Word) : (t.wf r v).v = t.v := (congrArg Thread.v (Thread.wf_eq t r v) :)
@[simp] theorem Thread.wf_k (t : Thread) (r : Reg) (v : Word) : (t.wf r v).k = t.k := (congrArg Thread.k (Thread.wf_eq t r v) :)
@[simp] theorem Thread.wf_t (t : Thread) (r : Reg) (v : Word) : (t.wf r v).t = t.t := (congrArg Thread.t (Thread.wf_eq t r v) :)
@[simp] theorem Thread.wf_a (t : Thread) (r : Reg) (v : Word) : (t.wf r v).a = t.a := (congrArg Thread.a (Thread.wf_eq t r v) :)
@[simp] theorem Thread.wf_wp0 (t : Thread) (r : Reg) (v : Word) : (t.wf r v).wp0 = t.wp0 := (congrArg Thread.wp0 (Thread.wf_eq t r v) :)
@[simp] theorem Thread.wf_wp1 (t : Thread) (r : Reg) (v : Word) : (t.wf r v).wp1 = t.wp1 := (congrArg Thread.wp1 (Thread.wf_eq t r v) :)
@[simp] theorem Thread.wf_spare0 (t : Thread) (r : Reg) (v : Word) : (t.wf r v).spare0 = t.spare0 := (congrArg Thread.spare0 (Thread.wf_eq t r v) :)
@[simp] theorem Thread.wf_spare1 (t : Thread) (r : Reg) (v : Word) : (t.wf r v).spare1 = t.spare1 := (congrArg Thread.spare1 (Thread.wf_eq t r v) :)
@[simp] theorem Thread.wf_lc0 (t : Thread) (r : Reg) (v : Word) : (t.wf r v).lc0 = t.lc0 := (congrArg Thread.lc0 (Thread.wf_eq t r v) :)
@[simp] theorem Thread.wf_lc1 (t : Thread) (r : Reg) (v : Word) : (t.wf r v).lc1 = t.lc1 := (congrArg Thread.lc1 (Thread.wf_eq t r v) :)
@[simp] theorem Thread.wf_lbeg0 (t : Thread) (r : Reg) (v : Word) : (t.wf r v).lbeg0 = t.lbeg0 := (congrArg Thread.lbeg0 (Thread.wf_eq t r v) :)
@[simp] theorem Thread.wf_lend0 (t : Thread) (r : Reg) (v : Word) : (t.wf r v).lend0 = t.lend0 := (congrArg Thread.lend0 (Thread.wf_eq t r v) :)
@[simp] theorem Thread.wf_lbeg1 (t : Thread) (r : Reg) (v : Word) : (t.wf r v).lbeg1 = t.lbeg1 := (congrArg Thread.lbeg1 (Thread.wf_eq t r v) :)
@[simp] theorem Thread.wf_lend1 (t : Thread) (r : Reg) (v : Word) : (t.wf r v).lend1 = t.lend1 := (congrArg Thread.lend1 (Thread.wf_eq t r v) :)
@[simp] theorem Thread.wf_cg (t : Thread) (r : Reg) (v : Word) : (t.wf r v).cg = t.cg := (congrArg Thread.cg (Thread.wf_eq t r v) :)
@[simp] theorem Thread.wf_psig (t : Thread) (r : Reg) (v : Word) : (t.wf r v).psig = t.psig := (congrArg Thread.psig (Thread.wf_eq t r v) :)
@[simp] theorem Thread.wf_ors (t : Thread) (r : Reg) (v : Word) : (t.wf r v).ors = t.ors := (congrArg Thread.ors (Thread.wf_eq t r v) :)
@[simp] theorem Thread.wf_prg (t : Thread) (r : Reg) (v : Word) : (t.wf r v).prg = t.prg := (congrArg Thread.prg (Thread.wf_eq t r v) :)
@[simp] theorem Thread.wf_fcsr (t : Thread) (r : Reg) (v : Word) : (t.wf r v).fcsr = t.fcsr := (congrArg Thread.fcsr (Thread.wf_eq t r v) :)
@[simp] theorem Thread.wf_tag (t : Thread) (r : Reg) (v : Word) : (t.wf r v).tag = t.tag := (congrArg Thread.tag (Thread.wf_eq t r v) :)
@[simp] theorem Thread.wf_instret (t : Thread) (r : Reg) (v : Word) : (t.wf r v).instret = t.instret := (congrArg Thread.instret (Thread.wf_eq t r v) :)
@[simp] theorem Thread.wf_step (t : Thread) (r : Reg) (v : Word) : (t.wf r v).step = t.step := (congrArg Thread.step (Thread.wf_eq t r v) :)
@[simp] theorem Thread.wf_fullAcq (t : Thread) (r : Reg) (v : Word) : (t.wf r v).fullAcq = t.fullAcq := (congrArg Thread.fullAcq (Thread.wf_eq t r v) :)
@[simp] theorem Thread.wf_selInv (t : Thread) (r : Reg) (v : Word) : (t.wf r v).selInv = t.selInv := (congrArg Thread.selInv (Thread.wf_eq t r v) :)
@[simp] theorem Thread.wf_epc (t : Thread) (r : Reg) (v : Word) : (t.wf r v).epc = t.epc := (congrArg Thread.epc (Thread.wf_eq t r v) :)
@[simp] theorem Thread.wf_ecause (t : Thread) (r : Reg) (v : Word) : (t.wf r v).ecause = t.ecause := (congrArg Thread.ecause (Thread.wf_eq t r v) :)
@[simp] theorem Thread.wf_eva (t : Thread) (r : Reg) (v : Word) : (t.wf r v).eva = t.eva := (congrArg Thread.eva (Thread.wf_eq t r v) :)
@[simp] theorem Thread.wf_einfo (t : Thread) (r : Reg) (v : Word) : (t.wf r v).einfo = t.einfo := (congrArg Thread.einfo (Thread.wf_eq t r v) :)
@[simp] theorem Thread.wf_evec (t : Thread) (r : Reg) (v : Word) : (t.wf r v).evec = t.evec := (congrArg Thread.evec (Thread.wf_eq t r v) :)
@[simp] theorem Thread.wf_kscratch (t : Thread) (r : Reg) (v : Word) : (t.wf r v).kscratch = t.kscratch := (congrArg Thread.kscratch (Thread.wf_eq t r v) :)
@[simp] theorem Thread.wf_slice (t : Thread) (r : Reg) (v : Word) : (t.wf r v).slice = t.slice := (congrArg Thread.slice (Thread.wf_eq t r v) :)
@[simp] theorem Thread.wf_sliceE (t : Thread) (r : Reg) (v : Word) : (t.wf r v).sliceE = t.sliceE := (congrArg Thread.sliceE (Thread.wf_eq t r v) :)
@[simp] theorem Thread.wf_sliceRun (t : Thread) (r : Reg) (v : Word) : (t.wf r v).sliceRun = t.sliceRun := (congrArg Thread.sliceRun (Thread.wf_eq t r v) :)
@[simp] theorem Thread.wf_saveCost (t : Thread) (r : Reg) (v : Word) : (t.wf r v).saveCost = t.saveCost := (congrArg Thread.saveCost (Thread.wf_eq t r v) :)
@[simp] theorem Thread.wf_switchCost (t : Thread) (r : Reg) (v : Word) : (t.wf r v).switchCost = t.switchCost := (congrArg Thread.switchCost (Thread.wf_eq t r v) :)
@[simp] theorem Thread.wf_clampCnt (t : Thread) (r : Reg) (v : Word) : (t.wf r v).clampCnt = t.clampCnt := (congrArg Thread.clampCnt (Thread.wf_eq t r v) :)
@[simp] theorem Thread.wf_region (t : Thread) (r : Reg) (v : Word) : (t.wf r v).region = t.region := (congrArg Thread.region (Thread.wf_eq t r v) :)
@[simp] theorem Thread.wf_regionCount (t : Thread) (r : Reg) (v : Word) : (t.wf r v).regionCount = t.regionCount := (congrArg Thread.regionCount (Thread.wf_eq t r v) :)
@[simp] theorem Thread.wf_irq16 (t : Thread) (r : Reg) (v : Word) : (t.wf r v).irq16 = t.irq16 := (congrArg Thread.irq16 (Thread.wf_eq t r v) :)
@[simp] theorem Thread.wf_irq17 (t : Thread) (r : Reg) (v : Word) : (t.wf r v).irq17 = t.irq17 := (congrArg Thread.irq17 (Thread.wf_eq t r v) :)
@[simp] theorem Thread.wf_copyRecs (t : Thread) (r : Reg) (v : Word) : (t.wf r v).copyRecs = t.copyRecs := (congrArg Thread.copyRecs (Thread.wf_eq t r v) :)
@[simp] theorem Thread.wf_denial (t : Thread) (r : Reg) (v : Word) : (t.wf r v).denial = t.denial := (congrArg Thread.denial (Thread.wf_eq t r v) :)
@[simp] theorem Thread.wf_flipped (t : Thread) (r : Reg) (v : Word) : (t.wf r v).flipped = t.flipped := (congrArg Thread.flipped (Thread.wf_eq t r v) :)
@[simp] theorem Thread.wf_parked (t : Thread) (r : Reg) (v : Word) : (t.wf r v).parked = t.parked := (congrArg Thread.parked (Thread.wf_eq t r v) :)
@[simp] theorem Thread.wf_reqs (t : Thread) (r : Reg) (v : Word) : (t.wf r v).reqs = t.reqs := (congrArg Thread.reqs (Thread.wf_eq t r v) :)
@[simp] theorem Thread.wf_answers (t : Thread) (r : Reg) (v : Word) : (t.wf r v).answers = t.answers := (congrArg Thread.answers (Thread.wf_eq t r v) :)
@[simp] theorem Thread.wf_sent (t : Thread) (r : Reg) (v : Word) : (t.wf r v).sent = t.sent := (congrArg Thread.sent (Thread.wf_eq t r v) :)
@[simp] theorem Thread.wf_waiting (t : Thread) (r : Reg) (v : Word) : (t.wf r v).waiting = t.waiting := (congrArg Thread.waiting (Thread.wf_eq t r v) :)
@[simp] theorem Thread.wf_bits (t : Thread) (r : Reg) (v : Word) : (t.wf r v).bits = t.bits := (congrArg Thread.bits (Thread.wf_eq t r v) :)
@[simp] theorem Thread.wf_plan (t : Thread) (r : Reg) (v : Word) : (t.wf r v).plan = t.plan := (congrArg Thread.plan (Thread.wf_eq t r v) :)
@[simp] theorem Thread.wf_got (t : Thread) (r : Reg) (v : Word) : (t.wf r v).got = t.got := (congrArg Thread.got (Thread.wf_eq t r v) :)
@[simp] theorem Thread.wf_sending (t : Thread) (r : Reg) (v : Word) : (t.wf r v).sending = t.sending := (congrArg Thread.sending (Thread.wf_eq t r v) :)
@[simp] theorem Thread.wf_popped (t : Thread) (r : Reg) (v : Word) : (t.wf r v).popped = t.popped := (congrArg Thread.popped (Thread.wf_eq t r v) :)
@[simp] theorem Thread.wf_checkpoints (t : Thread) (r : Reg) (v : Word) : (t.wf r v).checkpoints = t.checkpoints := (congrArg Thread.checkpoints (Thread.wf_eq t r v) :)
@[simp] theorem Thread.wf_looped (t : Thread) (r : Reg) (v : Word) : (t.wf r v).looped = t.looped := (congrArg Thread.looped (Thread.wf_eq t r v) :)
@[simp] theorem Thread.wf_atVector (t : Thread) (r : Reg) (v : Word) : (t.wf r v).atVector = t.atVector := (congrArg Thread.atVector (Thread.wf_eq t r v) :)
@[simp] theorem Thread.wf_shadow (t : Thread) (r : Reg) (v : Word) : (t.wf r v).shadow = t.shadow := (congrArg Thread.shadow (Thread.wf_eq t r v) :)
@[simp] theorem Thread.wf_fetchAge (t : Thread) (r : Reg) (v : Word) : (t.wf r v).fetchAge = t.fetchAge := (congrArg Thread.fetchAge (Thread.wf_eq t r v) :)
@[simp] theorem Thread.wf_decodeAge (t : Thread) (r : Reg) (v : Word) : (t.wf r v).decodeAge = t.decodeAge := (congrArg Thread.decodeAge (Thread.wf_eq t r v) :)
@[simp] theorem Thread.wf_buffered (t : Thread) (r : Reg) (v : Word) : (t.wf r v).buffered = t.buffered := (congrArg Thread.buffered (Thread.wf_eq t r v) :)
@[simp] theorem Thread.wf_ahead (t : Thread) (r : Reg) (v : Word) : (t.wf r v).ahead = t.ahead := (congrArg Thread.ahead (Thread.wf_eq t r v) :)
@[simp] theorem Thread.wf_unissued (t : Thread) (r : Reg) (v : Word) : (t.wf r v).unissued = t.unissued := (congrArg Thread.unissued (Thread.wf_eq t r v) :)
@[simp] theorem Thread.wf_sinceExchange (t : Thread) (r : Reg) (v : Word) : (t.wf r v).sinceExchange = t.sinceExchange := (congrArg Thread.sinceExchange (Thread.wf_eq t r v) :)
@[simp] theorem Thread.wf_exchangeDue (t : Thread) (r : Reg) (v : Word) : (t.wf r v).exchangeDue = t.exchangeDue := (congrArg Thread.exchangeDue (Thread.wf_eq t r v) :)
@[simp] theorem Thread.wf_entered (t : Thread) (r : Reg) (v : Word) : (t.wf r v).entered = t.entered := (congrArg Thread.entered (Thread.wf_eq t r v) :)
@[simp] theorem Thread.wf_tdup (t : Thread) (r : Reg) (v : Word) : (t.wf r v).tdup = t.tdup := (congrArg Thread.tdup (Thread.wf_eq t r v) :)
@[simp] theorem Thread.wf_poisoned (t : Thread) (r : Reg) (v : Word) : (t.wf r v).poisoned = t.poisoned := (congrArg Thread.poisoned (Thread.wf_eq t r v) :)
@[simp] theorem Thread.wf_te (t : Thread) (r : Reg) (v : Word) : (t.wf r v).te = t.te := (congrArg Thread.te (Thread.wf_eq t r v) :)
@[simp] theorem Thread.wf_pairs (t : Thread) (r : Reg) (v : Word) : (t.wf r v).pairs = t.pairs := (congrArg Thread.pairs (Thread.wf_eq t r v) :)
@[simp] theorem Thread.wf_plane0 (t : Thread) (r : Reg) (v : Word) : (t.wf r v).plane0 = t.plane0 := (congrArg Thread.plane0 (Thread.wf_eq t r v) :)
@[simp] theorem Thread.wf_plane1 (t : Thread) (r : Reg) (v : Word) : (t.wf r v).plane1 = t.plane1 := (congrArg Thread.plane1 (Thread.wf_eq t r v) :)
@[simp] theorem Thread.wf_teSeq (t : Thread) (r : Reg) (v : Word) : (t.wf r v).teSeq = t.teSeq := (congrArg Thread.teSeq (Thread.wf_eq t r v) :)
theorem Thread.wv_eq (t : Thread) (r : Reg) (v : Line) : t.wv r v = { t with crc := (t.wv r v).crc, shadowCrc := (t.wv r v).shadowCrc, status := (t.wv r v).status, v := (t.wv r v).v } := by
  unfold Thread.wv
  dsimp only; rw [Thread.foldReg_eq] <;> try rfl
@[simp] theorem Thread.wv_resident (t : Thread) (r : Reg) (v : Line) : (t.wv r v).resident = t.resident := (congrArg Thread.resident (Thread.wv_eq t r v) :)
@[simp] theorem Thread.wv_who (t : Thread) (r : Reg) (v : Line) : (t.wv r v).who = t.who := (congrArg Thread.who (Thread.wv_eq t r v) :)
@[simp] theorem Thread.wv_pc (t : Thread) (r : Reg) (v : Line) : (t.wv r v).pc = t.pc := (congrArg Thread.pc (Thread.wv_eq t r v) :)
@[simp] theorem Thread.wv_x (t : Thread) (r : Reg) (v : Line) : (t.wv r v).x = t.x := (congrArg Thread.x (Thread.wv_eq t r v) :)
@[simp] theorem Thread.wv_f (t : Thread) (r : Reg) (v : Line) : (t.wv r v).f = t.f := (congrArg Thread.f (Thread.wv_eq t r v) :)
@[simp] theorem Thread.wv_k (t : Thread) (r : Reg) (v : Line) : (t.wv r v).k = t.k := (congrArg Thread.k (Thread.wv_eq t r v) :)
@[simp] theorem Thread.wv_t (t : Thread) (r : Reg) (v : Line) : (t.wv r v).t = t.t := (congrArg Thread.t (Thread.wv_eq t r v) :)
@[simp] theorem Thread.wv_a (t : Thread) (r : Reg) (v : Line) : (t.wv r v).a = t.a := (congrArg Thread.a (Thread.wv_eq t r v) :)
@[simp] theorem Thread.wv_wp0 (t : Thread) (r : Reg) (v : Line) : (t.wv r v).wp0 = t.wp0 := (congrArg Thread.wp0 (Thread.wv_eq t r v) :)
@[simp] theorem Thread.wv_wp1 (t : Thread) (r : Reg) (v : Line) : (t.wv r v).wp1 = t.wp1 := (congrArg Thread.wp1 (Thread.wv_eq t r v) :)
@[simp] theorem Thread.wv_spare0 (t : Thread) (r : Reg) (v : Line) : (t.wv r v).spare0 = t.spare0 := (congrArg Thread.spare0 (Thread.wv_eq t r v) :)
@[simp] theorem Thread.wv_spare1 (t : Thread) (r : Reg) (v : Line) : (t.wv r v).spare1 = t.spare1 := (congrArg Thread.spare1 (Thread.wv_eq t r v) :)
@[simp] theorem Thread.wv_lc0 (t : Thread) (r : Reg) (v : Line) : (t.wv r v).lc0 = t.lc0 := (congrArg Thread.lc0 (Thread.wv_eq t r v) :)
@[simp] theorem Thread.wv_lc1 (t : Thread) (r : Reg) (v : Line) : (t.wv r v).lc1 = t.lc1 := (congrArg Thread.lc1 (Thread.wv_eq t r v) :)
@[simp] theorem Thread.wv_lbeg0 (t : Thread) (r : Reg) (v : Line) : (t.wv r v).lbeg0 = t.lbeg0 := (congrArg Thread.lbeg0 (Thread.wv_eq t r v) :)
@[simp] theorem Thread.wv_lend0 (t : Thread) (r : Reg) (v : Line) : (t.wv r v).lend0 = t.lend0 := (congrArg Thread.lend0 (Thread.wv_eq t r v) :)
@[simp] theorem Thread.wv_lbeg1 (t : Thread) (r : Reg) (v : Line) : (t.wv r v).lbeg1 = t.lbeg1 := (congrArg Thread.lbeg1 (Thread.wv_eq t r v) :)
@[simp] theorem Thread.wv_lend1 (t : Thread) (r : Reg) (v : Line) : (t.wv r v).lend1 = t.lend1 := (congrArg Thread.lend1 (Thread.wv_eq t r v) :)
@[simp] theorem Thread.wv_cg (t : Thread) (r : Reg) (v : Line) : (t.wv r v).cg = t.cg := (congrArg Thread.cg (Thread.wv_eq t r v) :)
@[simp] theorem Thread.wv_psig (t : Thread) (r : Reg) (v : Line) : (t.wv r v).psig = t.psig := (congrArg Thread.psig (Thread.wv_eq t r v) :)
@[simp] theorem Thread.wv_ors (t : Thread) (r : Reg) (v : Line) : (t.wv r v).ors = t.ors := (congrArg Thread.ors (Thread.wv_eq t r v) :)
@[simp] theorem Thread.wv_prg (t : Thread) (r : Reg) (v : Line) : (t.wv r v).prg = t.prg := (congrArg Thread.prg (Thread.wv_eq t r v) :)
@[simp] theorem Thread.wv_fcsr (t : Thread) (r : Reg) (v : Line) : (t.wv r v).fcsr = t.fcsr := (congrArg Thread.fcsr (Thread.wv_eq t r v) :)
@[simp] theorem Thread.wv_tag (t : Thread) (r : Reg) (v : Line) : (t.wv r v).tag = t.tag := (congrArg Thread.tag (Thread.wv_eq t r v) :)
@[simp] theorem Thread.wv_instret (t : Thread) (r : Reg) (v : Line) : (t.wv r v).instret = t.instret := (congrArg Thread.instret (Thread.wv_eq t r v) :)
@[simp] theorem Thread.wv_step (t : Thread) (r : Reg) (v : Line) : (t.wv r v).step = t.step := (congrArg Thread.step (Thread.wv_eq t r v) :)
@[simp] theorem Thread.wv_fullAcq (t : Thread) (r : Reg) (v : Line) : (t.wv r v).fullAcq = t.fullAcq := (congrArg Thread.fullAcq (Thread.wv_eq t r v) :)
@[simp] theorem Thread.wv_selInv (t : Thread) (r : Reg) (v : Line) : (t.wv r v).selInv = t.selInv := (congrArg Thread.selInv (Thread.wv_eq t r v) :)
@[simp] theorem Thread.wv_epc (t : Thread) (r : Reg) (v : Line) : (t.wv r v).epc = t.epc := (congrArg Thread.epc (Thread.wv_eq t r v) :)
@[simp] theorem Thread.wv_ecause (t : Thread) (r : Reg) (v : Line) : (t.wv r v).ecause = t.ecause := (congrArg Thread.ecause (Thread.wv_eq t r v) :)
@[simp] theorem Thread.wv_eva (t : Thread) (r : Reg) (v : Line) : (t.wv r v).eva = t.eva := (congrArg Thread.eva (Thread.wv_eq t r v) :)
@[simp] theorem Thread.wv_einfo (t : Thread) (r : Reg) (v : Line) : (t.wv r v).einfo = t.einfo := (congrArg Thread.einfo (Thread.wv_eq t r v) :)
@[simp] theorem Thread.wv_evec (t : Thread) (r : Reg) (v : Line) : (t.wv r v).evec = t.evec := (congrArg Thread.evec (Thread.wv_eq t r v) :)
@[simp] theorem Thread.wv_kscratch (t : Thread) (r : Reg) (v : Line) : (t.wv r v).kscratch = t.kscratch := (congrArg Thread.kscratch (Thread.wv_eq t r v) :)
@[simp] theorem Thread.wv_slice (t : Thread) (r : Reg) (v : Line) : (t.wv r v).slice = t.slice := (congrArg Thread.slice (Thread.wv_eq t r v) :)
@[simp] theorem Thread.wv_sliceE (t : Thread) (r : Reg) (v : Line) : (t.wv r v).sliceE = t.sliceE := (congrArg Thread.sliceE (Thread.wv_eq t r v) :)
@[simp] theorem Thread.wv_sliceRun (t : Thread) (r : Reg) (v : Line) : (t.wv r v).sliceRun = t.sliceRun := (congrArg Thread.sliceRun (Thread.wv_eq t r v) :)
@[simp] theorem Thread.wv_saveCost (t : Thread) (r : Reg) (v : Line) : (t.wv r v).saveCost = t.saveCost := (congrArg Thread.saveCost (Thread.wv_eq t r v) :)
@[simp] theorem Thread.wv_switchCost (t : Thread) (r : Reg) (v : Line) : (t.wv r v).switchCost = t.switchCost := (congrArg Thread.switchCost (Thread.wv_eq t r v) :)
@[simp] theorem Thread.wv_clampCnt (t : Thread) (r : Reg) (v : Line) : (t.wv r v).clampCnt = t.clampCnt := (congrArg Thread.clampCnt (Thread.wv_eq t r v) :)
@[simp] theorem Thread.wv_region (t : Thread) (r : Reg) (v : Line) : (t.wv r v).region = t.region := (congrArg Thread.region (Thread.wv_eq t r v) :)
@[simp] theorem Thread.wv_regionCount (t : Thread) (r : Reg) (v : Line) : (t.wv r v).regionCount = t.regionCount := (congrArg Thread.regionCount (Thread.wv_eq t r v) :)
@[simp] theorem Thread.wv_irq16 (t : Thread) (r : Reg) (v : Line) : (t.wv r v).irq16 = t.irq16 := (congrArg Thread.irq16 (Thread.wv_eq t r v) :)
@[simp] theorem Thread.wv_irq17 (t : Thread) (r : Reg) (v : Line) : (t.wv r v).irq17 = t.irq17 := (congrArg Thread.irq17 (Thread.wv_eq t r v) :)
@[simp] theorem Thread.wv_copyRecs (t : Thread) (r : Reg) (v : Line) : (t.wv r v).copyRecs = t.copyRecs := (congrArg Thread.copyRecs (Thread.wv_eq t r v) :)
@[simp] theorem Thread.wv_denial (t : Thread) (r : Reg) (v : Line) : (t.wv r v).denial = t.denial := (congrArg Thread.denial (Thread.wv_eq t r v) :)
@[simp] theorem Thread.wv_flipped (t : Thread) (r : Reg) (v : Line) : (t.wv r v).flipped = t.flipped := (congrArg Thread.flipped (Thread.wv_eq t r v) :)
@[simp] theorem Thread.wv_parked (t : Thread) (r : Reg) (v : Line) : (t.wv r v).parked = t.parked := (congrArg Thread.parked (Thread.wv_eq t r v) :)
@[simp] theorem Thread.wv_reqs (t : Thread) (r : Reg) (v : Line) : (t.wv r v).reqs = t.reqs := (congrArg Thread.reqs (Thread.wv_eq t r v) :)
@[simp] theorem Thread.wv_answers (t : Thread) (r : Reg) (v : Line) : (t.wv r v).answers = t.answers := (congrArg Thread.answers (Thread.wv_eq t r v) :)
@[simp] theorem Thread.wv_sent (t : Thread) (r : Reg) (v : Line) : (t.wv r v).sent = t.sent := (congrArg Thread.sent (Thread.wv_eq t r v) :)
@[simp] theorem Thread.wv_waiting (t : Thread) (r : Reg) (v : Line) : (t.wv r v).waiting = t.waiting := (congrArg Thread.waiting (Thread.wv_eq t r v) :)
@[simp] theorem Thread.wv_bits (t : Thread) (r : Reg) (v : Line) : (t.wv r v).bits = t.bits := (congrArg Thread.bits (Thread.wv_eq t r v) :)
@[simp] theorem Thread.wv_plan (t : Thread) (r : Reg) (v : Line) : (t.wv r v).plan = t.plan := (congrArg Thread.plan (Thread.wv_eq t r v) :)
@[simp] theorem Thread.wv_got (t : Thread) (r : Reg) (v : Line) : (t.wv r v).got = t.got := (congrArg Thread.got (Thread.wv_eq t r v) :)
@[simp] theorem Thread.wv_sending (t : Thread) (r : Reg) (v : Line) : (t.wv r v).sending = t.sending := (congrArg Thread.sending (Thread.wv_eq t r v) :)
@[simp] theorem Thread.wv_popped (t : Thread) (r : Reg) (v : Line) : (t.wv r v).popped = t.popped := (congrArg Thread.popped (Thread.wv_eq t r v) :)
@[simp] theorem Thread.wv_checkpoints (t : Thread) (r : Reg) (v : Line) : (t.wv r v).checkpoints = t.checkpoints := (congrArg Thread.checkpoints (Thread.wv_eq t r v) :)
@[simp] theorem Thread.wv_looped (t : Thread) (r : Reg) (v : Line) : (t.wv r v).looped = t.looped := (congrArg Thread.looped (Thread.wv_eq t r v) :)
@[simp] theorem Thread.wv_atVector (t : Thread) (r : Reg) (v : Line) : (t.wv r v).atVector = t.atVector := (congrArg Thread.atVector (Thread.wv_eq t r v) :)
@[simp] theorem Thread.wv_shadow (t : Thread) (r : Reg) (v : Line) : (t.wv r v).shadow = t.shadow := (congrArg Thread.shadow (Thread.wv_eq t r v) :)
@[simp] theorem Thread.wv_fetchAge (t : Thread) (r : Reg) (v : Line) : (t.wv r v).fetchAge = t.fetchAge := (congrArg Thread.fetchAge (Thread.wv_eq t r v) :)
@[simp] theorem Thread.wv_decodeAge (t : Thread) (r : Reg) (v : Line) : (t.wv r v).decodeAge = t.decodeAge := (congrArg Thread.decodeAge (Thread.wv_eq t r v) :)
@[simp] theorem Thread.wv_buffered (t : Thread) (r : Reg) (v : Line) : (t.wv r v).buffered = t.buffered := (congrArg Thread.buffered (Thread.wv_eq t r v) :)
@[simp] theorem Thread.wv_ahead (t : Thread) (r : Reg) (v : Line) : (t.wv r v).ahead = t.ahead := (congrArg Thread.ahead (Thread.wv_eq t r v) :)
@[simp] theorem Thread.wv_unissued (t : Thread) (r : Reg) (v : Line) : (t.wv r v).unissued = t.unissued := (congrArg Thread.unissued (Thread.wv_eq t r v) :)
@[simp] theorem Thread.wv_sinceExchange (t : Thread) (r : Reg) (v : Line) : (t.wv r v).sinceExchange = t.sinceExchange := (congrArg Thread.sinceExchange (Thread.wv_eq t r v) :)
@[simp] theorem Thread.wv_exchangeDue (t : Thread) (r : Reg) (v : Line) : (t.wv r v).exchangeDue = t.exchangeDue := (congrArg Thread.exchangeDue (Thread.wv_eq t r v) :)
@[simp] theorem Thread.wv_entered (t : Thread) (r : Reg) (v : Line) : (t.wv r v).entered = t.entered := (congrArg Thread.entered (Thread.wv_eq t r v) :)
@[simp] theorem Thread.wv_tdup (t : Thread) (r : Reg) (v : Line) : (t.wv r v).tdup = t.tdup := (congrArg Thread.tdup (Thread.wv_eq t r v) :)
@[simp] theorem Thread.wv_poisoned (t : Thread) (r : Reg) (v : Line) : (t.wv r v).poisoned = t.poisoned := (congrArg Thread.poisoned (Thread.wv_eq t r v) :)
@[simp] theorem Thread.wv_te (t : Thread) (r : Reg) (v : Line) : (t.wv r v).te = t.te := (congrArg Thread.te (Thread.wv_eq t r v) :)
@[simp] theorem Thread.wv_pairs (t : Thread) (r : Reg) (v : Line) : (t.wv r v).pairs = t.pairs := (congrArg Thread.pairs (Thread.wv_eq t r v) :)
@[simp] theorem Thread.wv_plane0 (t : Thread) (r : Reg) (v : Line) : (t.wv r v).plane0 = t.plane0 := (congrArg Thread.plane0 (Thread.wv_eq t r v) :)
@[simp] theorem Thread.wv_plane1 (t : Thread) (r : Reg) (v : Line) : (t.wv r v).plane1 = t.plane1 := (congrArg Thread.plane1 (Thread.wv_eq t r v) :)
@[simp] theorem Thread.wv_teSeq (t : Thread) (r : Reg) (v : Line) : (t.wv r v).teSeq = t.teSeq := (congrArg Thread.teSeq (Thread.wv_eq t r v) :)
theorem Thread.wk_eq (t : Thread) (r : BitVec 3) (v : Word) : t.wk r v = { t with crc := (t.wk r v).crc, shadowCrc := (t.wk r v).shadowCrc, status := (t.wk r v).status, k := (t.wk r v).k } := by
  unfold Thread.wk
  split
  · rfl
  · dsimp only; rw [Thread.foldReg_eq] <;> try rfl
@[simp] theorem Thread.wk_resident (t : Thread) (r : BitVec 3) (v : Word) : (t.wk r v).resident = t.resident := (congrArg Thread.resident (Thread.wk_eq t r v) :)
@[simp] theorem Thread.wk_who (t : Thread) (r : BitVec 3) (v : Word) : (t.wk r v).who = t.who := (congrArg Thread.who (Thread.wk_eq t r v) :)
@[simp] theorem Thread.wk_pc (t : Thread) (r : BitVec 3) (v : Word) : (t.wk r v).pc = t.pc := (congrArg Thread.pc (Thread.wk_eq t r v) :)
@[simp] theorem Thread.wk_x (t : Thread) (r : BitVec 3) (v : Word) : (t.wk r v).x = t.x := (congrArg Thread.x (Thread.wk_eq t r v) :)
@[simp] theorem Thread.wk_f (t : Thread) (r : BitVec 3) (v : Word) : (t.wk r v).f = t.f := (congrArg Thread.f (Thread.wk_eq t r v) :)
@[simp] theorem Thread.wk_v (t : Thread) (r : BitVec 3) (v : Word) : (t.wk r v).v = t.v := (congrArg Thread.v (Thread.wk_eq t r v) :)
@[simp] theorem Thread.wk_t (t : Thread) (r : BitVec 3) (v : Word) : (t.wk r v).t = t.t := (congrArg Thread.t (Thread.wk_eq t r v) :)
@[simp] theorem Thread.wk_a (t : Thread) (r : BitVec 3) (v : Word) : (t.wk r v).a = t.a := (congrArg Thread.a (Thread.wk_eq t r v) :)
@[simp] theorem Thread.wk_wp0 (t : Thread) (r : BitVec 3) (v : Word) : (t.wk r v).wp0 = t.wp0 := (congrArg Thread.wp0 (Thread.wk_eq t r v) :)
@[simp] theorem Thread.wk_wp1 (t : Thread) (r : BitVec 3) (v : Word) : (t.wk r v).wp1 = t.wp1 := (congrArg Thread.wp1 (Thread.wk_eq t r v) :)
@[simp] theorem Thread.wk_spare0 (t : Thread) (r : BitVec 3) (v : Word) : (t.wk r v).spare0 = t.spare0 := (congrArg Thread.spare0 (Thread.wk_eq t r v) :)
@[simp] theorem Thread.wk_spare1 (t : Thread) (r : BitVec 3) (v : Word) : (t.wk r v).spare1 = t.spare1 := (congrArg Thread.spare1 (Thread.wk_eq t r v) :)
@[simp] theorem Thread.wk_lc0 (t : Thread) (r : BitVec 3) (v : Word) : (t.wk r v).lc0 = t.lc0 := (congrArg Thread.lc0 (Thread.wk_eq t r v) :)
@[simp] theorem Thread.wk_lc1 (t : Thread) (r : BitVec 3) (v : Word) : (t.wk r v).lc1 = t.lc1 := (congrArg Thread.lc1 (Thread.wk_eq t r v) :)
@[simp] theorem Thread.wk_lbeg0 (t : Thread) (r : BitVec 3) (v : Word) : (t.wk r v).lbeg0 = t.lbeg0 := (congrArg Thread.lbeg0 (Thread.wk_eq t r v) :)
@[simp] theorem Thread.wk_lend0 (t : Thread) (r : BitVec 3) (v : Word) : (t.wk r v).lend0 = t.lend0 := (congrArg Thread.lend0 (Thread.wk_eq t r v) :)
@[simp] theorem Thread.wk_lbeg1 (t : Thread) (r : BitVec 3) (v : Word) : (t.wk r v).lbeg1 = t.lbeg1 := (congrArg Thread.lbeg1 (Thread.wk_eq t r v) :)
@[simp] theorem Thread.wk_lend1 (t : Thread) (r : BitVec 3) (v : Word) : (t.wk r v).lend1 = t.lend1 := (congrArg Thread.lend1 (Thread.wk_eq t r v) :)
@[simp] theorem Thread.wk_cg (t : Thread) (r : BitVec 3) (v : Word) : (t.wk r v).cg = t.cg := (congrArg Thread.cg (Thread.wk_eq t r v) :)
@[simp] theorem Thread.wk_psig (t : Thread) (r : BitVec 3) (v : Word) : (t.wk r v).psig = t.psig := (congrArg Thread.psig (Thread.wk_eq t r v) :)
@[simp] theorem Thread.wk_ors (t : Thread) (r : BitVec 3) (v : Word) : (t.wk r v).ors = t.ors := (congrArg Thread.ors (Thread.wk_eq t r v) :)
@[simp] theorem Thread.wk_prg (t : Thread) (r : BitVec 3) (v : Word) : (t.wk r v).prg = t.prg := (congrArg Thread.prg (Thread.wk_eq t r v) :)
@[simp] theorem Thread.wk_fcsr (t : Thread) (r : BitVec 3) (v : Word) : (t.wk r v).fcsr = t.fcsr := (congrArg Thread.fcsr (Thread.wk_eq t r v) :)
@[simp] theorem Thread.wk_tag (t : Thread) (r : BitVec 3) (v : Word) : (t.wk r v).tag = t.tag := (congrArg Thread.tag (Thread.wk_eq t r v) :)
@[simp] theorem Thread.wk_instret (t : Thread) (r : BitVec 3) (v : Word) : (t.wk r v).instret = t.instret := (congrArg Thread.instret (Thread.wk_eq t r v) :)
@[simp] theorem Thread.wk_step (t : Thread) (r : BitVec 3) (v : Word) : (t.wk r v).step = t.step := (congrArg Thread.step (Thread.wk_eq t r v) :)
@[simp] theorem Thread.wk_fullAcq (t : Thread) (r : BitVec 3) (v : Word) : (t.wk r v).fullAcq = t.fullAcq := (congrArg Thread.fullAcq (Thread.wk_eq t r v) :)
@[simp] theorem Thread.wk_selInv (t : Thread) (r : BitVec 3) (v : Word) : (t.wk r v).selInv = t.selInv := (congrArg Thread.selInv (Thread.wk_eq t r v) :)
@[simp] theorem Thread.wk_epc (t : Thread) (r : BitVec 3) (v : Word) : (t.wk r v).epc = t.epc := (congrArg Thread.epc (Thread.wk_eq t r v) :)
@[simp] theorem Thread.wk_ecause (t : Thread) (r : BitVec 3) (v : Word) : (t.wk r v).ecause = t.ecause := (congrArg Thread.ecause (Thread.wk_eq t r v) :)
@[simp] theorem Thread.wk_eva (t : Thread) (r : BitVec 3) (v : Word) : (t.wk r v).eva = t.eva := (congrArg Thread.eva (Thread.wk_eq t r v) :)
@[simp] theorem Thread.wk_einfo (t : Thread) (r : BitVec 3) (v : Word) : (t.wk r v).einfo = t.einfo := (congrArg Thread.einfo (Thread.wk_eq t r v) :)
@[simp] theorem Thread.wk_evec (t : Thread) (r : BitVec 3) (v : Word) : (t.wk r v).evec = t.evec := (congrArg Thread.evec (Thread.wk_eq t r v) :)
@[simp] theorem Thread.wk_kscratch (t : Thread) (r : BitVec 3) (v : Word) : (t.wk r v).kscratch = t.kscratch := (congrArg Thread.kscratch (Thread.wk_eq t r v) :)
@[simp] theorem Thread.wk_slice (t : Thread) (r : BitVec 3) (v : Word) : (t.wk r v).slice = t.slice := (congrArg Thread.slice (Thread.wk_eq t r v) :)
@[simp] theorem Thread.wk_sliceE (t : Thread) (r : BitVec 3) (v : Word) : (t.wk r v).sliceE = t.sliceE := (congrArg Thread.sliceE (Thread.wk_eq t r v) :)
@[simp] theorem Thread.wk_sliceRun (t : Thread) (r : BitVec 3) (v : Word) : (t.wk r v).sliceRun = t.sliceRun := (congrArg Thread.sliceRun (Thread.wk_eq t r v) :)
@[simp] theorem Thread.wk_saveCost (t : Thread) (r : BitVec 3) (v : Word) : (t.wk r v).saveCost = t.saveCost := (congrArg Thread.saveCost (Thread.wk_eq t r v) :)
@[simp] theorem Thread.wk_switchCost (t : Thread) (r : BitVec 3) (v : Word) : (t.wk r v).switchCost = t.switchCost := (congrArg Thread.switchCost (Thread.wk_eq t r v) :)
@[simp] theorem Thread.wk_clampCnt (t : Thread) (r : BitVec 3) (v : Word) : (t.wk r v).clampCnt = t.clampCnt := (congrArg Thread.clampCnt (Thread.wk_eq t r v) :)
@[simp] theorem Thread.wk_region (t : Thread) (r : BitVec 3) (v : Word) : (t.wk r v).region = t.region := (congrArg Thread.region (Thread.wk_eq t r v) :)
@[simp] theorem Thread.wk_regionCount (t : Thread) (r : BitVec 3) (v : Word) : (t.wk r v).regionCount = t.regionCount := (congrArg Thread.regionCount (Thread.wk_eq t r v) :)
@[simp] theorem Thread.wk_irq16 (t : Thread) (r : BitVec 3) (v : Word) : (t.wk r v).irq16 = t.irq16 := (congrArg Thread.irq16 (Thread.wk_eq t r v) :)
@[simp] theorem Thread.wk_irq17 (t : Thread) (r : BitVec 3) (v : Word) : (t.wk r v).irq17 = t.irq17 := (congrArg Thread.irq17 (Thread.wk_eq t r v) :)
@[simp] theorem Thread.wk_copyRecs (t : Thread) (r : BitVec 3) (v : Word) : (t.wk r v).copyRecs = t.copyRecs := (congrArg Thread.copyRecs (Thread.wk_eq t r v) :)
@[simp] theorem Thread.wk_denial (t : Thread) (r : BitVec 3) (v : Word) : (t.wk r v).denial = t.denial := (congrArg Thread.denial (Thread.wk_eq t r v) :)
@[simp] theorem Thread.wk_flipped (t : Thread) (r : BitVec 3) (v : Word) : (t.wk r v).flipped = t.flipped := (congrArg Thread.flipped (Thread.wk_eq t r v) :)
@[simp] theorem Thread.wk_parked (t : Thread) (r : BitVec 3) (v : Word) : (t.wk r v).parked = t.parked := (congrArg Thread.parked (Thread.wk_eq t r v) :)
@[simp] theorem Thread.wk_reqs (t : Thread) (r : BitVec 3) (v : Word) : (t.wk r v).reqs = t.reqs := (congrArg Thread.reqs (Thread.wk_eq t r v) :)
@[simp] theorem Thread.wk_answers (t : Thread) (r : BitVec 3) (v : Word) : (t.wk r v).answers = t.answers := (congrArg Thread.answers (Thread.wk_eq t r v) :)
@[simp] theorem Thread.wk_sent (t : Thread) (r : BitVec 3) (v : Word) : (t.wk r v).sent = t.sent := (congrArg Thread.sent (Thread.wk_eq t r v) :)
@[simp] theorem Thread.wk_waiting (t : Thread) (r : BitVec 3) (v : Word) : (t.wk r v).waiting = t.waiting := (congrArg Thread.waiting (Thread.wk_eq t r v) :)
@[simp] theorem Thread.wk_bits (t : Thread) (r : BitVec 3) (v : Word) : (t.wk r v).bits = t.bits := (congrArg Thread.bits (Thread.wk_eq t r v) :)
@[simp] theorem Thread.wk_plan (t : Thread) (r : BitVec 3) (v : Word) : (t.wk r v).plan = t.plan := (congrArg Thread.plan (Thread.wk_eq t r v) :)
@[simp] theorem Thread.wk_got (t : Thread) (r : BitVec 3) (v : Word) : (t.wk r v).got = t.got := (congrArg Thread.got (Thread.wk_eq t r v) :)
@[simp] theorem Thread.wk_sending (t : Thread) (r : BitVec 3) (v : Word) : (t.wk r v).sending = t.sending := (congrArg Thread.sending (Thread.wk_eq t r v) :)
@[simp] theorem Thread.wk_popped (t : Thread) (r : BitVec 3) (v : Word) : (t.wk r v).popped = t.popped := (congrArg Thread.popped (Thread.wk_eq t r v) :)
@[simp] theorem Thread.wk_checkpoints (t : Thread) (r : BitVec 3) (v : Word) : (t.wk r v).checkpoints = t.checkpoints := (congrArg Thread.checkpoints (Thread.wk_eq t r v) :)
@[simp] theorem Thread.wk_looped (t : Thread) (r : BitVec 3) (v : Word) : (t.wk r v).looped = t.looped := (congrArg Thread.looped (Thread.wk_eq t r v) :)
@[simp] theorem Thread.wk_atVector (t : Thread) (r : BitVec 3) (v : Word) : (t.wk r v).atVector = t.atVector := (congrArg Thread.atVector (Thread.wk_eq t r v) :)
@[simp] theorem Thread.wk_shadow (t : Thread) (r : BitVec 3) (v : Word) : (t.wk r v).shadow = t.shadow := (congrArg Thread.shadow (Thread.wk_eq t r v) :)
@[simp] theorem Thread.wk_fetchAge (t : Thread) (r : BitVec 3) (v : Word) : (t.wk r v).fetchAge = t.fetchAge := (congrArg Thread.fetchAge (Thread.wk_eq t r v) :)
@[simp] theorem Thread.wk_decodeAge (t : Thread) (r : BitVec 3) (v : Word) : (t.wk r v).decodeAge = t.decodeAge := (congrArg Thread.decodeAge (Thread.wk_eq t r v) :)
@[simp] theorem Thread.wk_buffered (t : Thread) (r : BitVec 3) (v : Word) : (t.wk r v).buffered = t.buffered := (congrArg Thread.buffered (Thread.wk_eq t r v) :)
@[simp] theorem Thread.wk_ahead (t : Thread) (r : BitVec 3) (v : Word) : (t.wk r v).ahead = t.ahead := (congrArg Thread.ahead (Thread.wk_eq t r v) :)
@[simp] theorem Thread.wk_unissued (t : Thread) (r : BitVec 3) (v : Word) : (t.wk r v).unissued = t.unissued := (congrArg Thread.unissued (Thread.wk_eq t r v) :)
@[simp] theorem Thread.wk_sinceExchange (t : Thread) (r : BitVec 3) (v : Word) : (t.wk r v).sinceExchange = t.sinceExchange := (congrArg Thread.sinceExchange (Thread.wk_eq t r v) :)
@[simp] theorem Thread.wk_exchangeDue (t : Thread) (r : BitVec 3) (v : Word) : (t.wk r v).exchangeDue = t.exchangeDue := (congrArg Thread.exchangeDue (Thread.wk_eq t r v) :)
@[simp] theorem Thread.wk_entered (t : Thread) (r : BitVec 3) (v : Word) : (t.wk r v).entered = t.entered := (congrArg Thread.entered (Thread.wk_eq t r v) :)
@[simp] theorem Thread.wk_tdup (t : Thread) (r : BitVec 3) (v : Word) : (t.wk r v).tdup = t.tdup := (congrArg Thread.tdup (Thread.wk_eq t r v) :)
@[simp] theorem Thread.wk_poisoned (t : Thread) (r : BitVec 3) (v : Word) : (t.wk r v).poisoned = t.poisoned := (congrArg Thread.poisoned (Thread.wk_eq t r v) :)
@[simp] theorem Thread.wk_te (t : Thread) (r : BitVec 3) (v : Word) : (t.wk r v).te = t.te := (congrArg Thread.te (Thread.wk_eq t r v) :)
@[simp] theorem Thread.wk_pairs (t : Thread) (r : BitVec 3) (v : Word) : (t.wk r v).pairs = t.pairs := (congrArg Thread.pairs (Thread.wk_eq t r v) :)
@[simp] theorem Thread.wk_plane0 (t : Thread) (r : BitVec 3) (v : Word) : (t.wk r v).plane0 = t.plane0 := (congrArg Thread.plane0 (Thread.wk_eq t r v) :)
@[simp] theorem Thread.wk_plane1 (t : Thread) (r : BitVec 3) (v : Word) : (t.wk r v).plane1 = t.plane1 := (congrArg Thread.plane1 (Thread.wk_eq t r v) :)
@[simp] theorem Thread.wk_teSeq (t : Thread) (r : BitVec 3) (v : Word) : (t.wk r v).teSeq = t.teSeq := (congrArg Thread.teSeq (Thread.wk_eq t r v) :)
theorem Thread.flags_eq (t : Thread) (g : Nat) : t.flags g = { t with status := (t.flags g).status, fcsr := (t.flags g).fcsr } := by
  unfold Thread.flags; split <;> rfl
@[simp] theorem Thread.flags_resident (t : Thread) (g : Nat) : (t.flags g).resident = t.resident := (congrArg Thread.resident (Thread.flags_eq t g) :)
@[simp] theorem Thread.flags_who (t : Thread) (g : Nat) : (t.flags g).who = t.who := (congrArg Thread.who (Thread.flags_eq t g) :)
@[simp] theorem Thread.flags_pc (t : Thread) (g : Nat) : (t.flags g).pc = t.pc := (congrArg Thread.pc (Thread.flags_eq t g) :)
@[simp] theorem Thread.flags_x (t : Thread) (g : Nat) : (t.flags g).x = t.x := (congrArg Thread.x (Thread.flags_eq t g) :)
@[simp] theorem Thread.flags_f (t : Thread) (g : Nat) : (t.flags g).f = t.f := (congrArg Thread.f (Thread.flags_eq t g) :)
@[simp] theorem Thread.flags_v (t : Thread) (g : Nat) : (t.flags g).v = t.v := (congrArg Thread.v (Thread.flags_eq t g) :)
@[simp] theorem Thread.flags_k (t : Thread) (g : Nat) : (t.flags g).k = t.k := (congrArg Thread.k (Thread.flags_eq t g) :)
@[simp] theorem Thread.flags_t (t : Thread) (g : Nat) : (t.flags g).t = t.t := (congrArg Thread.t (Thread.flags_eq t g) :)
@[simp] theorem Thread.flags_a (t : Thread) (g : Nat) : (t.flags g).a = t.a := (congrArg Thread.a (Thread.flags_eq t g) :)
@[simp] theorem Thread.flags_wp0 (t : Thread) (g : Nat) : (t.flags g).wp0 = t.wp0 := (congrArg Thread.wp0 (Thread.flags_eq t g) :)
@[simp] theorem Thread.flags_wp1 (t : Thread) (g : Nat) : (t.flags g).wp1 = t.wp1 := (congrArg Thread.wp1 (Thread.flags_eq t g) :)
@[simp] theorem Thread.flags_spare0 (t : Thread) (g : Nat) : (t.flags g).spare0 = t.spare0 := (congrArg Thread.spare0 (Thread.flags_eq t g) :)
@[simp] theorem Thread.flags_spare1 (t : Thread) (g : Nat) : (t.flags g).spare1 = t.spare1 := (congrArg Thread.spare1 (Thread.flags_eq t g) :)
@[simp] theorem Thread.flags_lc0 (t : Thread) (g : Nat) : (t.flags g).lc0 = t.lc0 := (congrArg Thread.lc0 (Thread.flags_eq t g) :)
@[simp] theorem Thread.flags_lc1 (t : Thread) (g : Nat) : (t.flags g).lc1 = t.lc1 := (congrArg Thread.lc1 (Thread.flags_eq t g) :)
@[simp] theorem Thread.flags_lbeg0 (t : Thread) (g : Nat) : (t.flags g).lbeg0 = t.lbeg0 := (congrArg Thread.lbeg0 (Thread.flags_eq t g) :)
@[simp] theorem Thread.flags_lend0 (t : Thread) (g : Nat) : (t.flags g).lend0 = t.lend0 := (congrArg Thread.lend0 (Thread.flags_eq t g) :)
@[simp] theorem Thread.flags_lbeg1 (t : Thread) (g : Nat) : (t.flags g).lbeg1 = t.lbeg1 := (congrArg Thread.lbeg1 (Thread.flags_eq t g) :)
@[simp] theorem Thread.flags_lend1 (t : Thread) (g : Nat) : (t.flags g).lend1 = t.lend1 := (congrArg Thread.lend1 (Thread.flags_eq t g) :)
@[simp] theorem Thread.flags_cg (t : Thread) (g : Nat) : (t.flags g).cg = t.cg := (congrArg Thread.cg (Thread.flags_eq t g) :)
@[simp] theorem Thread.flags_psig (t : Thread) (g : Nat) : (t.flags g).psig = t.psig := (congrArg Thread.psig (Thread.flags_eq t g) :)
@[simp] theorem Thread.flags_ors (t : Thread) (g : Nat) : (t.flags g).ors = t.ors := (congrArg Thread.ors (Thread.flags_eq t g) :)
@[simp] theorem Thread.flags_prg (t : Thread) (g : Nat) : (t.flags g).prg = t.prg := (congrArg Thread.prg (Thread.flags_eq t g) :)
@[simp] theorem Thread.flags_tag (t : Thread) (g : Nat) : (t.flags g).tag = t.tag := (congrArg Thread.tag (Thread.flags_eq t g) :)
@[simp] theorem Thread.flags_instret (t : Thread) (g : Nat) : (t.flags g).instret = t.instret := (congrArg Thread.instret (Thread.flags_eq t g) :)
@[simp] theorem Thread.flags_step (t : Thread) (g : Nat) : (t.flags g).step = t.step := (congrArg Thread.step (Thread.flags_eq t g) :)
@[simp] theorem Thread.flags_fullAcq (t : Thread) (g : Nat) : (t.flags g).fullAcq = t.fullAcq := (congrArg Thread.fullAcq (Thread.flags_eq t g) :)
@[simp] theorem Thread.flags_selInv (t : Thread) (g : Nat) : (t.flags g).selInv = t.selInv := (congrArg Thread.selInv (Thread.flags_eq t g) :)
@[simp] theorem Thread.flags_epc (t : Thread) (g : Nat) : (t.flags g).epc = t.epc := (congrArg Thread.epc (Thread.flags_eq t g) :)
@[simp] theorem Thread.flags_ecause (t : Thread) (g : Nat) : (t.flags g).ecause = t.ecause := (congrArg Thread.ecause (Thread.flags_eq t g) :)
@[simp] theorem Thread.flags_eva (t : Thread) (g : Nat) : (t.flags g).eva = t.eva := (congrArg Thread.eva (Thread.flags_eq t g) :)
@[simp] theorem Thread.flags_einfo (t : Thread) (g : Nat) : (t.flags g).einfo = t.einfo := (congrArg Thread.einfo (Thread.flags_eq t g) :)
@[simp] theorem Thread.flags_evec (t : Thread) (g : Nat) : (t.flags g).evec = t.evec := (congrArg Thread.evec (Thread.flags_eq t g) :)
@[simp] theorem Thread.flags_kscratch (t : Thread) (g : Nat) : (t.flags g).kscratch = t.kscratch := (congrArg Thread.kscratch (Thread.flags_eq t g) :)
@[simp] theorem Thread.flags_slice (t : Thread) (g : Nat) : (t.flags g).slice = t.slice := (congrArg Thread.slice (Thread.flags_eq t g) :)
@[simp] theorem Thread.flags_sliceE (t : Thread) (g : Nat) : (t.flags g).sliceE = t.sliceE := (congrArg Thread.sliceE (Thread.flags_eq t g) :)
@[simp] theorem Thread.flags_sliceRun (t : Thread) (g : Nat) : (t.flags g).sliceRun = t.sliceRun := (congrArg Thread.sliceRun (Thread.flags_eq t g) :)
@[simp] theorem Thread.flags_saveCost (t : Thread) (g : Nat) : (t.flags g).saveCost = t.saveCost := (congrArg Thread.saveCost (Thread.flags_eq t g) :)
@[simp] theorem Thread.flags_switchCost (t : Thread) (g : Nat) : (t.flags g).switchCost = t.switchCost := (congrArg Thread.switchCost (Thread.flags_eq t g) :)
@[simp] theorem Thread.flags_clampCnt (t : Thread) (g : Nat) : (t.flags g).clampCnt = t.clampCnt := (congrArg Thread.clampCnt (Thread.flags_eq t g) :)
@[simp] theorem Thread.flags_region (t : Thread) (g : Nat) : (t.flags g).region = t.region := (congrArg Thread.region (Thread.flags_eq t g) :)
@[simp] theorem Thread.flags_regionCount (t : Thread) (g : Nat) : (t.flags g).regionCount = t.regionCount := (congrArg Thread.regionCount (Thread.flags_eq t g) :)
@[simp] theorem Thread.flags_irq16 (t : Thread) (g : Nat) : (t.flags g).irq16 = t.irq16 := (congrArg Thread.irq16 (Thread.flags_eq t g) :)
@[simp] theorem Thread.flags_irq17 (t : Thread) (g : Nat) : (t.flags g).irq17 = t.irq17 := (congrArg Thread.irq17 (Thread.flags_eq t g) :)
@[simp] theorem Thread.flags_copyRecs (t : Thread) (g : Nat) : (t.flags g).copyRecs = t.copyRecs := (congrArg Thread.copyRecs (Thread.flags_eq t g) :)
@[simp] theorem Thread.flags_denial (t : Thread) (g : Nat) : (t.flags g).denial = t.denial := (congrArg Thread.denial (Thread.flags_eq t g) :)
@[simp] theorem Thread.flags_flipped (t : Thread) (g : Nat) : (t.flags g).flipped = t.flipped := (congrArg Thread.flipped (Thread.flags_eq t g) :)
@[simp] theorem Thread.flags_parked (t : Thread) (g : Nat) : (t.flags g).parked = t.parked := (congrArg Thread.parked (Thread.flags_eq t g) :)
@[simp] theorem Thread.flags_reqs (t : Thread) (g : Nat) : (t.flags g).reqs = t.reqs := (congrArg Thread.reqs (Thread.flags_eq t g) :)
@[simp] theorem Thread.flags_answers (t : Thread) (g : Nat) : (t.flags g).answers = t.answers := (congrArg Thread.answers (Thread.flags_eq t g) :)
@[simp] theorem Thread.flags_sent (t : Thread) (g : Nat) : (t.flags g).sent = t.sent := (congrArg Thread.sent (Thread.flags_eq t g) :)
@[simp] theorem Thread.flags_waiting (t : Thread) (g : Nat) : (t.flags g).waiting = t.waiting := (congrArg Thread.waiting (Thread.flags_eq t g) :)
@[simp] theorem Thread.flags_bits (t : Thread) (g : Nat) : (t.flags g).bits = t.bits := (congrArg Thread.bits (Thread.flags_eq t g) :)
@[simp] theorem Thread.flags_plan (t : Thread) (g : Nat) : (t.flags g).plan = t.plan := (congrArg Thread.plan (Thread.flags_eq t g) :)
@[simp] theorem Thread.flags_got (t : Thread) (g : Nat) : (t.flags g).got = t.got := (congrArg Thread.got (Thread.flags_eq t g) :)
@[simp] theorem Thread.flags_sending (t : Thread) (g : Nat) : (t.flags g).sending = t.sending := (congrArg Thread.sending (Thread.flags_eq t g) :)
@[simp] theorem Thread.flags_popped (t : Thread) (g : Nat) : (t.flags g).popped = t.popped := (congrArg Thread.popped (Thread.flags_eq t g) :)
@[simp] theorem Thread.flags_checkpoints (t : Thread) (g : Nat) : (t.flags g).checkpoints = t.checkpoints := (congrArg Thread.checkpoints (Thread.flags_eq t g) :)
@[simp] theorem Thread.flags_looped (t : Thread) (g : Nat) : (t.flags g).looped = t.looped := (congrArg Thread.looped (Thread.flags_eq t g) :)
@[simp] theorem Thread.flags_atVector (t : Thread) (g : Nat) : (t.flags g).atVector = t.atVector := (congrArg Thread.atVector (Thread.flags_eq t g) :)
@[simp] theorem Thread.flags_shadow (t : Thread) (g : Nat) : (t.flags g).shadow = t.shadow := (congrArg Thread.shadow (Thread.flags_eq t g) :)
@[simp] theorem Thread.flags_fetchAge (t : Thread) (g : Nat) : (t.flags g).fetchAge = t.fetchAge := (congrArg Thread.fetchAge (Thread.flags_eq t g) :)
@[simp] theorem Thread.flags_decodeAge (t : Thread) (g : Nat) : (t.flags g).decodeAge = t.decodeAge := (congrArg Thread.decodeAge (Thread.flags_eq t g) :)
@[simp] theorem Thread.flags_buffered (t : Thread) (g : Nat) : (t.flags g).buffered = t.buffered := (congrArg Thread.buffered (Thread.flags_eq t g) :)
@[simp] theorem Thread.flags_ahead (t : Thread) (g : Nat) : (t.flags g).ahead = t.ahead := (congrArg Thread.ahead (Thread.flags_eq t g) :)
@[simp] theorem Thread.flags_unissued (t : Thread) (g : Nat) : (t.flags g).unissued = t.unissued := (congrArg Thread.unissued (Thread.flags_eq t g) :)
@[simp] theorem Thread.flags_crc (t : Thread) (g : Nat) : (t.flags g).crc = t.crc := (congrArg Thread.crc (Thread.flags_eq t g) :)
@[simp] theorem Thread.flags_shadowCrc (t : Thread) (g : Nat) : (t.flags g).shadowCrc = t.shadowCrc := (congrArg Thread.shadowCrc (Thread.flags_eq t g) :)
@[simp] theorem Thread.flags_sinceExchange (t : Thread) (g : Nat) : (t.flags g).sinceExchange = t.sinceExchange := (congrArg Thread.sinceExchange (Thread.flags_eq t g) :)
@[simp] theorem Thread.flags_exchangeDue (t : Thread) (g : Nat) : (t.flags g).exchangeDue = t.exchangeDue := (congrArg Thread.exchangeDue (Thread.flags_eq t g) :)
@[simp] theorem Thread.flags_entered (t : Thread) (g : Nat) : (t.flags g).entered = t.entered := (congrArg Thread.entered (Thread.flags_eq t g) :)
@[simp] theorem Thread.flags_tdup (t : Thread) (g : Nat) : (t.flags g).tdup = t.tdup := (congrArg Thread.tdup (Thread.flags_eq t g) :)
@[simp] theorem Thread.flags_poisoned (t : Thread) (g : Nat) : (t.flags g).poisoned = t.poisoned := (congrArg Thread.poisoned (Thread.flags_eq t g) :)
@[simp] theorem Thread.flags_te (t : Thread) (g : Nat) : (t.flags g).te = t.te := (congrArg Thread.te (Thread.flags_eq t g) :)
@[simp] theorem Thread.flags_pairs (t : Thread) (g : Nat) : (t.flags g).pairs = t.pairs := (congrArg Thread.pairs (Thread.flags_eq t g) :)
@[simp] theorem Thread.flags_plane0 (t : Thread) (g : Nat) : (t.flags g).plane0 = t.plane0 := (congrArg Thread.plane0 (Thread.flags_eq t g) :)
@[simp] theorem Thread.flags_plane1 (t : Thread) (g : Nat) : (t.flags g).plane1 = t.plane1 := (congrArg Thread.plane1 (Thread.flags_eq t g) :)
@[simp] theorem Thread.flags_teSeq (t : Thread) (g : Nat) : (t.flags g).teSeq = t.teSeq := (congrArg Thread.teSeq (Thread.flags_eq t g) :)
theorem Thread.sign_eq (t : Thread) (a : Word) : t.sign a = { t with psig := (t.sign a).psig } := by
  unfold Thread.sign; split <;> rfl
@[simp] theorem Thread.sign_resident (t : Thread) (a : Word) : (t.sign a).resident = t.resident := (congrArg Thread.resident (Thread.sign_eq t a) :)
@[simp] theorem Thread.sign_who (t : Thread) (a : Word) : (t.sign a).who = t.who := (congrArg Thread.who (Thread.sign_eq t a) :)
@[simp] theorem Thread.sign_pc (t : Thread) (a : Word) : (t.sign a).pc = t.pc := (congrArg Thread.pc (Thread.sign_eq t a) :)
@[simp] theorem Thread.sign_x (t : Thread) (a : Word) : (t.sign a).x = t.x := (congrArg Thread.x (Thread.sign_eq t a) :)
@[simp] theorem Thread.sign_f (t : Thread) (a : Word) : (t.sign a).f = t.f := (congrArg Thread.f (Thread.sign_eq t a) :)
@[simp] theorem Thread.sign_v (t : Thread) (a : Word) : (t.sign a).v = t.v := (congrArg Thread.v (Thread.sign_eq t a) :)
@[simp] theorem Thread.sign_k (t : Thread) (a : Word) : (t.sign a).k = t.k := (congrArg Thread.k (Thread.sign_eq t a) :)
@[simp] theorem Thread.sign_t (t : Thread) (a : Word) : (t.sign a).t = t.t := (congrArg Thread.t (Thread.sign_eq t a) :)
@[simp] theorem Thread.sign_a (t : Thread) (a : Word) : (t.sign a).a = t.a := (congrArg Thread.a (Thread.sign_eq t a) :)
@[simp] theorem Thread.sign_wp0 (t : Thread) (a : Word) : (t.sign a).wp0 = t.wp0 := (congrArg Thread.wp0 (Thread.sign_eq t a) :)
@[simp] theorem Thread.sign_wp1 (t : Thread) (a : Word) : (t.sign a).wp1 = t.wp1 := (congrArg Thread.wp1 (Thread.sign_eq t a) :)
@[simp] theorem Thread.sign_spare0 (t : Thread) (a : Word) : (t.sign a).spare0 = t.spare0 := (congrArg Thread.spare0 (Thread.sign_eq t a) :)
@[simp] theorem Thread.sign_spare1 (t : Thread) (a : Word) : (t.sign a).spare1 = t.spare1 := (congrArg Thread.spare1 (Thread.sign_eq t a) :)
@[simp] theorem Thread.sign_lc0 (t : Thread) (a : Word) : (t.sign a).lc0 = t.lc0 := (congrArg Thread.lc0 (Thread.sign_eq t a) :)
@[simp] theorem Thread.sign_lc1 (t : Thread) (a : Word) : (t.sign a).lc1 = t.lc1 := (congrArg Thread.lc1 (Thread.sign_eq t a) :)
@[simp] theorem Thread.sign_lbeg0 (t : Thread) (a : Word) : (t.sign a).lbeg0 = t.lbeg0 := (congrArg Thread.lbeg0 (Thread.sign_eq t a) :)
@[simp] theorem Thread.sign_lend0 (t : Thread) (a : Word) : (t.sign a).lend0 = t.lend0 := (congrArg Thread.lend0 (Thread.sign_eq t a) :)
@[simp] theorem Thread.sign_lbeg1 (t : Thread) (a : Word) : (t.sign a).lbeg1 = t.lbeg1 := (congrArg Thread.lbeg1 (Thread.sign_eq t a) :)
@[simp] theorem Thread.sign_lend1 (t : Thread) (a : Word) : (t.sign a).lend1 = t.lend1 := (congrArg Thread.lend1 (Thread.sign_eq t a) :)
@[simp] theorem Thread.sign_cg (t : Thread) (a : Word) : (t.sign a).cg = t.cg := (congrArg Thread.cg (Thread.sign_eq t a) :)
@[simp] theorem Thread.sign_ors (t : Thread) (a : Word) : (t.sign a).ors = t.ors := (congrArg Thread.ors (Thread.sign_eq t a) :)
@[simp] theorem Thread.sign_prg (t : Thread) (a : Word) : (t.sign a).prg = t.prg := (congrArg Thread.prg (Thread.sign_eq t a) :)
@[simp] theorem Thread.sign_fcsr (t : Thread) (a : Word) : (t.sign a).fcsr = t.fcsr := (congrArg Thread.fcsr (Thread.sign_eq t a) :)
@[simp] theorem Thread.sign_tag (t : Thread) (a : Word) : (t.sign a).tag = t.tag := (congrArg Thread.tag (Thread.sign_eq t a) :)
@[simp] theorem Thread.sign_instret (t : Thread) (a : Word) : (t.sign a).instret = t.instret := (congrArg Thread.instret (Thread.sign_eq t a) :)
@[simp] theorem Thread.sign_step (t : Thread) (a : Word) : (t.sign a).step = t.step := (congrArg Thread.step (Thread.sign_eq t a) :)
@[simp] theorem Thread.sign_fullAcq (t : Thread) (a : Word) : (t.sign a).fullAcq = t.fullAcq := (congrArg Thread.fullAcq (Thread.sign_eq t a) :)
@[simp] theorem Thread.sign_selInv (t : Thread) (a : Word) : (t.sign a).selInv = t.selInv := (congrArg Thread.selInv (Thread.sign_eq t a) :)
@[simp] theorem Thread.sign_status (t : Thread) (a : Word) : (t.sign a).status = t.status := (congrArg Thread.status (Thread.sign_eq t a) :)
@[simp] theorem Thread.sign_epc (t : Thread) (a : Word) : (t.sign a).epc = t.epc := (congrArg Thread.epc (Thread.sign_eq t a) :)
@[simp] theorem Thread.sign_ecause (t : Thread) (a : Word) : (t.sign a).ecause = t.ecause := (congrArg Thread.ecause (Thread.sign_eq t a) :)
@[simp] theorem Thread.sign_eva (t : Thread) (a : Word) : (t.sign a).eva = t.eva := (congrArg Thread.eva (Thread.sign_eq t a) :)
@[simp] theorem Thread.sign_einfo (t : Thread) (a : Word) : (t.sign a).einfo = t.einfo := (congrArg Thread.einfo (Thread.sign_eq t a) :)
@[simp] theorem Thread.sign_evec (t : Thread) (a : Word) : (t.sign a).evec = t.evec := (congrArg Thread.evec (Thread.sign_eq t a) :)
@[simp] theorem Thread.sign_kscratch (t : Thread) (a : Word) : (t.sign a).kscratch = t.kscratch := (congrArg Thread.kscratch (Thread.sign_eq t a) :)
@[simp] theorem Thread.sign_slice (t : Thread) (a : Word) : (t.sign a).slice = t.slice := (congrArg Thread.slice (Thread.sign_eq t a) :)
@[simp] theorem Thread.sign_sliceE (t : Thread) (a : Word) : (t.sign a).sliceE = t.sliceE := (congrArg Thread.sliceE (Thread.sign_eq t a) :)
@[simp] theorem Thread.sign_sliceRun (t : Thread) (a : Word) : (t.sign a).sliceRun = t.sliceRun := (congrArg Thread.sliceRun (Thread.sign_eq t a) :)
@[simp] theorem Thread.sign_saveCost (t : Thread) (a : Word) : (t.sign a).saveCost = t.saveCost := (congrArg Thread.saveCost (Thread.sign_eq t a) :)
@[simp] theorem Thread.sign_switchCost (t : Thread) (a : Word) : (t.sign a).switchCost = t.switchCost := (congrArg Thread.switchCost (Thread.sign_eq t a) :)
@[simp] theorem Thread.sign_clampCnt (t : Thread) (a : Word) : (t.sign a).clampCnt = t.clampCnt := (congrArg Thread.clampCnt (Thread.sign_eq t a) :)
@[simp] theorem Thread.sign_region (t : Thread) (a : Word) : (t.sign a).region = t.region := (congrArg Thread.region (Thread.sign_eq t a) :)
@[simp] theorem Thread.sign_regionCount (t : Thread) (a : Word) : (t.sign a).regionCount = t.regionCount := (congrArg Thread.regionCount (Thread.sign_eq t a) :)
@[simp] theorem Thread.sign_irq16 (t : Thread) (a : Word) : (t.sign a).irq16 = t.irq16 := (congrArg Thread.irq16 (Thread.sign_eq t a) :)
@[simp] theorem Thread.sign_irq17 (t : Thread) (a : Word) : (t.sign a).irq17 = t.irq17 := (congrArg Thread.irq17 (Thread.sign_eq t a) :)
@[simp] theorem Thread.sign_copyRecs (t : Thread) (a : Word) : (t.sign a).copyRecs = t.copyRecs := (congrArg Thread.copyRecs (Thread.sign_eq t a) :)
@[simp] theorem Thread.sign_denial (t : Thread) (a : Word) : (t.sign a).denial = t.denial := (congrArg Thread.denial (Thread.sign_eq t a) :)
@[simp] theorem Thread.sign_flipped (t : Thread) (a : Word) : (t.sign a).flipped = t.flipped := (congrArg Thread.flipped (Thread.sign_eq t a) :)
@[simp] theorem Thread.sign_parked (t : Thread) (a : Word) : (t.sign a).parked = t.parked := (congrArg Thread.parked (Thread.sign_eq t a) :)
@[simp] theorem Thread.sign_reqs (t : Thread) (a : Word) : (t.sign a).reqs = t.reqs := (congrArg Thread.reqs (Thread.sign_eq t a) :)
@[simp] theorem Thread.sign_answers (t : Thread) (a : Word) : (t.sign a).answers = t.answers := (congrArg Thread.answers (Thread.sign_eq t a) :)
@[simp] theorem Thread.sign_sent (t : Thread) (a : Word) : (t.sign a).sent = t.sent := (congrArg Thread.sent (Thread.sign_eq t a) :)
@[simp] theorem Thread.sign_waiting (t : Thread) (a : Word) : (t.sign a).waiting = t.waiting := (congrArg Thread.waiting (Thread.sign_eq t a) :)
@[simp] theorem Thread.sign_bits (t : Thread) (a : Word) : (t.sign a).bits = t.bits := (congrArg Thread.bits (Thread.sign_eq t a) :)
@[simp] theorem Thread.sign_plan (t : Thread) (a : Word) : (t.sign a).plan = t.plan := (congrArg Thread.plan (Thread.sign_eq t a) :)
@[simp] theorem Thread.sign_got (t : Thread) (a : Word) : (t.sign a).got = t.got := (congrArg Thread.got (Thread.sign_eq t a) :)
@[simp] theorem Thread.sign_sending (t : Thread) (a : Word) : (t.sign a).sending = t.sending := (congrArg Thread.sending (Thread.sign_eq t a) :)
@[simp] theorem Thread.sign_popped (t : Thread) (a : Word) : (t.sign a).popped = t.popped := (congrArg Thread.popped (Thread.sign_eq t a) :)
@[simp] theorem Thread.sign_checkpoints (t : Thread) (a : Word) : (t.sign a).checkpoints = t.checkpoints := (congrArg Thread.checkpoints (Thread.sign_eq t a) :)
@[simp] theorem Thread.sign_looped (t : Thread) (a : Word) : (t.sign a).looped = t.looped := (congrArg Thread.looped (Thread.sign_eq t a) :)
@[simp] theorem Thread.sign_atVector (t : Thread) (a : Word) : (t.sign a).atVector = t.atVector := (congrArg Thread.atVector (Thread.sign_eq t a) :)
@[simp] theorem Thread.sign_shadow (t : Thread) (a : Word) : (t.sign a).shadow = t.shadow := (congrArg Thread.shadow (Thread.sign_eq t a) :)
@[simp] theorem Thread.sign_fetchAge (t : Thread) (a : Word) : (t.sign a).fetchAge = t.fetchAge := (congrArg Thread.fetchAge (Thread.sign_eq t a) :)
@[simp] theorem Thread.sign_decodeAge (t : Thread) (a : Word) : (t.sign a).decodeAge = t.decodeAge := (congrArg Thread.decodeAge (Thread.sign_eq t a) :)
@[simp] theorem Thread.sign_buffered (t : Thread) (a : Word) : (t.sign a).buffered = t.buffered := (congrArg Thread.buffered (Thread.sign_eq t a) :)
@[simp] theorem Thread.sign_ahead (t : Thread) (a : Word) : (t.sign a).ahead = t.ahead := (congrArg Thread.ahead (Thread.sign_eq t a) :)
@[simp] theorem Thread.sign_unissued (t : Thread) (a : Word) : (t.sign a).unissued = t.unissued := (congrArg Thread.unissued (Thread.sign_eq t a) :)
@[simp] theorem Thread.sign_crc (t : Thread) (a : Word) : (t.sign a).crc = t.crc := (congrArg Thread.crc (Thread.sign_eq t a) :)
@[simp] theorem Thread.sign_shadowCrc (t : Thread) (a : Word) : (t.sign a).shadowCrc = t.shadowCrc := (congrArg Thread.shadowCrc (Thread.sign_eq t a) :)
@[simp] theorem Thread.sign_sinceExchange (t : Thread) (a : Word) : (t.sign a).sinceExchange = t.sinceExchange := (congrArg Thread.sinceExchange (Thread.sign_eq t a) :)
@[simp] theorem Thread.sign_exchangeDue (t : Thread) (a : Word) : (t.sign a).exchangeDue = t.exchangeDue := (congrArg Thread.exchangeDue (Thread.sign_eq t a) :)
@[simp] theorem Thread.sign_entered (t : Thread) (a : Word) : (t.sign a).entered = t.entered := (congrArg Thread.entered (Thread.sign_eq t a) :)
@[simp] theorem Thread.sign_tdup (t : Thread) (a : Word) : (t.sign a).tdup = t.tdup := (congrArg Thread.tdup (Thread.sign_eq t a) :)
@[simp] theorem Thread.sign_poisoned (t : Thread) (a : Word) : (t.sign a).poisoned = t.poisoned := (congrArg Thread.poisoned (Thread.sign_eq t a) :)
@[simp] theorem Thread.sign_te (t : Thread) (a : Word) : (t.sign a).te = t.te := (congrArg Thread.te (Thread.sign_eq t a) :)
@[simp] theorem Thread.sign_pairs (t : Thread) (a : Word) : (t.sign a).pairs = t.pairs := (congrArg Thread.pairs (Thread.sign_eq t a) :)
@[simp] theorem Thread.sign_plane0 (t : Thread) (a : Word) : (t.sign a).plane0 = t.plane0 := (congrArg Thread.plane0 (Thread.sign_eq t a) :)
@[simp] theorem Thread.sign_plane1 (t : Thread) (a : Word) : (t.sign a).plane1 = t.plane1 := (congrArg Thread.plane1 (Thread.sign_eq t a) :)
@[simp] theorem Thread.sign_teSeq (t : Thread) (a : Word) : (t.sign a).teSeq = t.teSeq := (congrArg Thread.teSeq (Thread.sign_eq t a) :)
@[simp] theorem Thread.complete_resident (t : Thread) (n : Nat) : (t.complete n).resident = t.resident := Thread.loopEnd_resident t.retire _
@[simp] theorem Thread.complete_who (t : Thread) (n : Nat) : (t.complete n).who = t.who := Thread.loopEnd_who t.retire _
@[simp] theorem Thread.complete_x (t : Thread) (n : Nat) : (t.complete n).x = t.x := Thread.loopEnd_x t.retire _
@[simp] theorem Thread.complete_f (t : Thread) (n : Nat) : (t.complete n).f = t.f := Thread.loopEnd_f t.retire _
@[simp] theorem Thread.complete_v (t : Thread) (n : Nat) : (t.complete n).v = t.v := Thread.loopEnd_v t.retire _
@[simp] theorem Thread.complete_k (t : Thread) (n : Nat) : (t.complete n).k = t.k := Thread.loopEnd_k t.retire _
@[simp] theorem Thread.complete_t (t : Thread) (n : Nat) : (t.complete n).t = t.t := Thread.loopEnd_t t.retire _
@[simp] theorem Thread.complete_a (t : Thread) (n : Nat) : (t.complete n).a = t.a := Thread.loopEnd_a t.retire _
@[simp] theorem Thread.complete_wp0 (t : Thread) (n : Nat) : (t.complete n).wp0 = t.wp0 := Thread.loopEnd_wp0 t.retire _
@[simp] theorem Thread.complete_wp1 (t : Thread) (n : Nat) : (t.complete n).wp1 = t.wp1 := Thread.loopEnd_wp1 t.retire _
@[simp] theorem Thread.complete_spare0 (t : Thread) (n : Nat) : (t.complete n).spare0 = t.spare0 := Thread.loopEnd_spare0 t.retire _
@[simp] theorem Thread.complete_spare1 (t : Thread) (n : Nat) : (t.complete n).spare1 = t.spare1 := Thread.loopEnd_spare1 t.retire _
@[simp] theorem Thread.complete_lbeg0 (t : Thread) (n : Nat) : (t.complete n).lbeg0 = t.lbeg0 := Thread.loopEnd_lbeg0 t.retire _
@[simp] theorem Thread.complete_lend0 (t : Thread) (n : Nat) : (t.complete n).lend0 = t.lend0 := Thread.loopEnd_lend0 t.retire _
@[simp] theorem Thread.complete_lbeg1 (t : Thread) (n : Nat) : (t.complete n).lbeg1 = t.lbeg1 := Thread.loopEnd_lbeg1 t.retire _
@[simp] theorem Thread.complete_lend1 (t : Thread) (n : Nat) : (t.complete n).lend1 = t.lend1 := Thread.loopEnd_lend1 t.retire _
@[simp] theorem Thread.complete_cg (t : Thread) (n : Nat) : (t.complete n).cg = t.cg := Thread.loopEnd_cg t.retire _
@[simp] theorem Thread.complete_psig (t : Thread) (n : Nat) : (t.complete n).psig = t.psig := Thread.loopEnd_psig t.retire _
@[simp] theorem Thread.complete_ors (t : Thread) (n : Nat) : (t.complete n).ors = t.ors := Thread.loopEnd_ors t.retire _
@[simp] theorem Thread.complete_prg (t : Thread) (n : Nat) : (t.complete n).prg = t.prg := Thread.loopEnd_prg t.retire _
@[simp] theorem Thread.complete_fcsr (t : Thread) (n : Nat) : (t.complete n).fcsr = t.fcsr := Thread.loopEnd_fcsr t.retire _
@[simp] theorem Thread.complete_tag (t : Thread) (n : Nat) : (t.complete n).tag = t.tag := Thread.loopEnd_tag t.retire _
@[simp] theorem Thread.complete_instret (t : Thread) (n : Nat) : (t.complete n).instret = t.instret + 1 := Thread.loopEnd_instret t.retire _
@[simp] theorem Thread.complete_step (t : Thread) (n : Nat) : (t.complete n).step = t.step := Thread.loopEnd_step t.retire _
@[simp] theorem Thread.complete_fullAcq (t : Thread) (n : Nat) : (t.complete n).fullAcq = t.fullAcq := Thread.loopEnd_fullAcq t.retire _
@[simp] theorem Thread.complete_selInv (t : Thread) (n : Nat) : (t.complete n).selInv = t.selInv := Thread.loopEnd_selInv t.retire _
@[simp] theorem Thread.complete_status (t : Thread) (n : Nat) : (t.complete n).status = t.status := Thread.loopEnd_status t.retire _
@[simp] theorem Thread.complete_epc (t : Thread) (n : Nat) : (t.complete n).epc = t.epc := Thread.loopEnd_epc t.retire _
@[simp] theorem Thread.complete_ecause (t : Thread) (n : Nat) : (t.complete n).ecause = t.ecause := Thread.loopEnd_ecause t.retire _
@[simp] theorem Thread.complete_eva (t : Thread) (n : Nat) : (t.complete n).eva = t.eva := Thread.loopEnd_eva t.retire _
@[simp] theorem Thread.complete_einfo (t : Thread) (n : Nat) : (t.complete n).einfo = t.einfo := Thread.loopEnd_einfo t.retire _
@[simp] theorem Thread.complete_evec (t : Thread) (n : Nat) : (t.complete n).evec = t.evec := Thread.loopEnd_evec t.retire _
@[simp] theorem Thread.complete_kscratch (t : Thread) (n : Nat) : (t.complete n).kscratch = t.kscratch := Thread.loopEnd_kscratch t.retire _
@[simp] theorem Thread.complete_slice (t : Thread) (n : Nat) : (t.complete n).slice = t.slice := Thread.loopEnd_slice t.retire _
@[simp] theorem Thread.complete_sliceE (t : Thread) (n : Nat) : (t.complete n).sliceE = t.sliceE := Thread.loopEnd_sliceE t.retire _
@[simp] theorem Thread.complete_sliceRun (t : Thread) (n : Nat) : (t.complete n).sliceRun = t.sliceRun := Thread.loopEnd_sliceRun t.retire _
@[simp] theorem Thread.complete_saveCost (t : Thread) (n : Nat) : (t.complete n).saveCost = t.saveCost := Thread.loopEnd_saveCost t.retire _
@[simp] theorem Thread.complete_switchCost (t : Thread) (n : Nat) : (t.complete n).switchCost = t.switchCost := Thread.loopEnd_switchCost t.retire _
@[simp] theorem Thread.complete_clampCnt (t : Thread) (n : Nat) : (t.complete n).clampCnt = t.clampCnt := Thread.loopEnd_clampCnt t.retire _
@[simp] theorem Thread.complete_region (t : Thread) (n : Nat) : (t.complete n).region = t.region := Thread.loopEnd_region t.retire _
@[simp] theorem Thread.complete_regionCount (t : Thread) (n : Nat) : (t.complete n).regionCount = t.regionCount + 1 := Thread.loopEnd_regionCount t.retire _
@[simp] theorem Thread.complete_irq16 (t : Thread) (n : Nat) : (t.complete n).irq16 = t.irq16 := Thread.loopEnd_irq16 t.retire _
@[simp] theorem Thread.complete_irq17 (t : Thread) (n : Nat) : (t.complete n).irq17 = t.irq17 := Thread.loopEnd_irq17 t.retire _
@[simp] theorem Thread.complete_copyRecs (t : Thread) (n : Nat) : (t.complete n).copyRecs = t.copyRecs := Thread.loopEnd_copyRecs t.retire _
@[simp] theorem Thread.complete_denial (t : Thread) (n : Nat) : (t.complete n).denial = t.denial := Thread.loopEnd_denial t.retire _
@[simp] theorem Thread.complete_flipped (t : Thread) (n : Nat) : (t.complete n).flipped = t.flipped := Thread.loopEnd_flipped t.retire _
@[simp] theorem Thread.complete_parked (t : Thread) (n : Nat) : (t.complete n).parked = none := Thread.loopEnd_parked t.retire _
@[simp] theorem Thread.complete_reqs (t : Thread) (n : Nat) : (t.complete n).reqs = [] := Thread.loopEnd_reqs t.retire _
@[simp] theorem Thread.complete_answers (t : Thread) (n : Nat) : (t.complete n).answers = [] := Thread.loopEnd_answers t.retire _
@[simp] theorem Thread.complete_sent (t : Thread) (n : Nat) : (t.complete n).sent = false := Thread.loopEnd_sent t.retire _
@[simp] theorem Thread.complete_waiting (t : Thread) (n : Nat) : (t.complete n).waiting = false := Thread.loopEnd_waiting t.retire _
@[simp] theorem Thread.complete_bits (t : Thread) (n : Nat) : (t.complete n).bits = t.bits := Thread.loopEnd_bits t.retire _
@[simp] theorem Thread.complete_plan (t : Thread) (n : Nat) : (t.complete n).plan = [] := Thread.loopEnd_plan t.retire _
@[simp] theorem Thread.complete_got (t : Thread) (n : Nat) : (t.complete n).got = [] := Thread.loopEnd_got t.retire _
@[simp] theorem Thread.complete_sending (t : Thread) (n : Nat) : (t.complete n).sending = false := Thread.loopEnd_sending t.retire _
@[simp] theorem Thread.complete_popped (t : Thread) (n : Nat) : (t.complete n).popped = none := Thread.loopEnd_popped t.retire _
@[simp] theorem Thread.complete_checkpoints (t : Thread) (n : Nat) : (t.complete n).checkpoints = t.checkpoints := Thread.loopEnd_checkpoints t.retire _
@[simp] theorem Thread.complete_looped (t : Thread) (n : Nat) : (t.complete n).looped = t.looped := Thread.loopEnd_looped t.retire _
@[simp] theorem Thread.complete_atVector (t : Thread) (n : Nat) : (t.complete n).atVector = false := Thread.loopEnd_atVector t.retire _
@[simp] theorem Thread.complete_shadow (t : Thread) (n : Nat) : (t.complete n).shadow = t.shadow := Thread.loopEnd_shadow t.retire _
@[simp] theorem Thread.complete_fetchAge (t : Thread) (n : Nat) : (t.complete n).fetchAge = t.fetchAge := Thread.loopEnd_fetchAge t.retire _
@[simp] theorem Thread.complete_decodeAge (t : Thread) (n : Nat) : (t.complete n).decodeAge = t.decodeAge := Thread.loopEnd_decodeAge t.retire _
@[simp] theorem Thread.complete_buffered (t : Thread) (n : Nat) : (t.complete n).buffered = (if t.ahead = 0 then t.buffered - 1 else t.buffered) := Thread.loopEnd_buffered t.retire _
@[simp] theorem Thread.complete_ahead (t : Thread) (n : Nat) : (t.complete n).ahead = t.ahead - 1 := Thread.loopEnd_ahead t.retire _
@[simp] theorem Thread.complete_unissued (t : Thread) (n : Nat) : (t.complete n).unissued = (min t.unissued (t.ahead - 1)) := Thread.loopEnd_unissued t.retire _
@[simp] theorem Thread.complete_crc (t : Thread) (n : Nat) : (t.complete n).crc = t.crc := Thread.loopEnd_crc t.retire _
@[simp] theorem Thread.complete_shadowCrc (t : Thread) (n : Nat) : (t.complete n).shadowCrc = t.shadowCrc := Thread.loopEnd_shadowCrc t.retire _
@[simp] theorem Thread.complete_sinceExchange (t : Thread) (n : Nat) : (t.complete n).sinceExchange = t.sinceExchange + 1 := Thread.loopEnd_sinceExchange t.retire _
@[simp] theorem Thread.complete_exchangeDue (t : Thread) (n : Nat) : (t.complete n).exchangeDue = (t.exchangeDue || (t.paired && (t.sinceExchange + 1) % 4096 == 0)) := Thread.loopEnd_exchangeDue t.retire _
@[simp] theorem Thread.complete_entered (t : Thread) (n : Nat) : (t.complete n).entered = t.entered := Thread.loopEnd_entered t.retire _
@[simp] theorem Thread.complete_tdup (t : Thread) (n : Nat) : (t.complete n).tdup = t.tdup := Thread.loopEnd_tdup t.retire _
@[simp] theorem Thread.complete_poisoned (t : Thread) (n : Nat) : (t.complete n).poisoned = t.poisoned := Thread.loopEnd_poisoned t.retire _
@[simp] theorem Thread.complete_te (t : Thread) (n : Nat) : (t.complete n).te = t.te := Thread.loopEnd_te t.retire _
@[simp] theorem Thread.complete_pairs (t : Thread) (n : Nat) : (t.complete n).pairs = t.pairs := Thread.loopEnd_pairs t.retire _
@[simp] theorem Thread.complete_plane0 (t : Thread) (n : Nat) : (t.complete n).plane0 = t.plane0 := Thread.loopEnd_plane0 t.retire _
@[simp] theorem Thread.complete_plane1 (t : Thread) (n : Nat) : (t.complete n).plane1 = t.plane1 := Thread.loopEnd_plane1 t.retire _
@[simp] theorem Thread.complete_teSeq (t : Thread) (n : Nat) : (t.complete n).teSeq = t.teSeq := Thread.loopEnd_teSeq t.retire _
@[simp] theorem Thread.wf_status (t : Thread) (r : Reg) (v : Word) : (t.wf r v).status = t.status ||| oneBit fdirtyBit := by
  simp [Thread.wf]
@[simp] theorem Thread.wf_f (t : Thread) (r : Reg) (v : Word) : (t.wf r v).f = Table.put t.f r.toNat v := by
  simp [Thread.wf]
@[simp] theorem Thread.wv_status (t : Thread) (r : Reg) (v : Line) : (t.wv r v).status = t.status ||| oneBit vdirtyBit := by
  simp [Thread.wv]
@[simp] theorem Thread.wv_v (t : Thread) (r : Reg) (v : Line) : (t.wv r v).v = Table.put t.v r.toNat v := by
  simp [Thread.wv]

end Sys2Proof.Machine
end

