-- ==== Sys2Proof/Laws/Ops.lean ====
section
/-!
SUPPORT. Laws of the shared operations: threads and registers, completion, taking an exception, and how a meaning ends.
-/

namespace Sys2Proof.Machine

/-! ### Threads -/

theorem State.thread_setThread (s : State) (p q : Nat) (t : Thread) :
    (s.setThread p t).thread q = if q = p then t else s.thread q := Table.at_put _ _ _ _ _

@[simp] theorem State.thread_setThread_same (s : State) (p : Nat) (t : Thread) : (s.setThread p t).thread p = t :=
  Table.at_put_same _ _ _ _

theorem State.thread_setThread_other (s : State) (p q : Nat) (t : Thread) (h : q ≠ p) :
    (s.setThread p t).thread q = s.thread q := Table.at_put_other _ _ _ _ _ h

@[simp] theorem State.th_setTh (s : State) (t : Thread) : (s.setTh t).th = t := State.thread_setThread_same s s.cur t

theorem State.thread_setTh_other (s : State) (q : Nat) (t : Thread) (h : q ≠ s.cur) : (s.setTh t).thread q = s.thread q :=
  State.thread_setThread_other s s.cur q t h

theorem State.setThread_setThread (s : State) (p : Nat) (t u : Thread) : (s.setThread p t).setThread p u = s.setThread p u := by
  simp only [State.setThread, Table.put_put]

@[simp] theorem State.setTh_setTh (s : State) (t u : Thread) : (s.setTh t).setTh u = s.setTh u :=
  State.setThread_setThread s s.cur t u

@[simp] theorem State.peek_setTh (s : State) (t : Thread) (a : Nat) : (s.setTh t).peek a = s.peek a := rfl

theorem State.layer_setLayer (s : State) (l m : Nat) (v : Layer) : (s.setLayer l v).layer m = if m = l then v else s.layer m :=
  Table.at_put _ _ _ _ _
theorem State.cluster_setCluster (s : State) (l m : Nat) (v : Cluster) :
    (s.setCluster l v).cluster m = if m = l then v else s.cluster m := Table.at_put _ _ _ _ _
theorem State.core_setCore (s : State) (l m : Nat) (v : Core) : (s.setCore l v).core m = if m = l then v else s.core m :=
  Table.at_put _ _ _ _ _

/-! ### Registers -/

theorem reg_toNat_ne {w : Nat} {a b : BitVec w} (h : a ≠ b) : a.toNat ≠ b.toNat := fun e => h (BitVec.eq_of_toNat_eq e)

/-- x0 reads 0 after any write; another register reads as written, or as before (R19, R76). -/
theorem Thread.rx_wx (t : Thread) (d r : Reg) (v : Word) :
    (t.wx d v).rx r = if r = 0#5 then 0#64 else if r = d then v else t.rx r := by
  unfold Thread.rx Thread.wx
  by_cases hr : r = 0#5
  · simp [hr]
  · by_cases hd : d = 0#5
    · have : r ≠ d := fun e => hr (e.trans hd)
      simp [hr, hd]
    · by_cases he : r = d
      · simp [hd, he, Table.at_put_same]
      · simp [hr, hd, he, Table.at_put_other _ _ _ _ _ (reg_toNat_ne he)]

@[simp] theorem Thread.rx_zero (t : Thread) : t.rx 0#5 = 0#64 := rfl

theorem Thread.rf_wf (t : Thread) (d r : Reg) (v : Word) : (t.wf d v).rf r = if r = d then v else t.rf r := by
  unfold Thread.rf
  rw [Thread.wf_f, Table.at_put]
  by_cases h : r = d
  · simp [h]
  · simp [h, reg_toNat_ne h]

theorem Thread.rv_wv (t : Thread) (d r : Reg) (v : Line) : (t.wv d v).rv r = if r = d then v else t.rv r := by
  unfold Thread.rv
  rw [Thread.wv_v, Table.at_put]
  by_cases h : r = d
  · simp [h]
  · simp [h, reg_toNat_ne h]

/-- k0 reads all ones after any write (R19). -/
theorem Thread.rk_wk (t : Thread) (d r : BitVec 3) (v : Word) :
    (t.wk d v).rk r = if r = 0#3 then BitVec.allOnes 64 else if r = d then v else t.rk r := by
  unfold Thread.rk Thread.wk
  by_cases hr : r = 0#3
  · simp [hr]
  · by_cases hd : d = 0#3
    · have : r ≠ d := fun e => hr (e.trans hd)
      simp [hr, hd]
    · by_cases he : r = d
      · simp [hd, he, Table.at_put_same]
      · simp [hr, hd, he, Table.at_put_other _ _ _ _ _ (reg_toNat_ne he)]

/-! Registers are read from their tables alone. -/

theorem Thread.rx_congr {t u : Thread} (h : t.x = u.x) (r : Reg) : t.rx r = u.rx r := by simp only [Thread.rx, h]
theorem Thread.rf_congr {t u : Thread} (h : t.f = u.f) (r : Reg) : t.rf r = u.rf r := by simp only [Thread.rf, h]
theorem Thread.rv_congr {t u : Thread} (h : t.v = u.v) (r : Reg) : t.rv r = u.rv r := by simp only [Thread.rv, h]
theorem Thread.rk_congr {t u : Thread} (h : t.k = u.k) (r : BitVec 3) : t.rk r = u.rk r := by simp only [Thread.rk, h]

@[simp] theorem Thread.rx_complete (t : Thread) (n : Nat) (r : Reg) : (t.complete n).rx r = t.rx r :=
  Thread.rx_congr (Thread.complete_x t n) r
@[simp] theorem Thread.rf_complete (t : Thread) (n : Nat) (r : Reg) : (t.complete n).rf r = t.rf r :=
  Thread.rf_congr (Thread.complete_f t n) r
@[simp] theorem Thread.rv_complete (t : Thread) (n : Nat) (r : Reg) : (t.complete n).rv r = t.rv r :=
  Thread.rv_congr (Thread.complete_v t n) r
@[simp] theorem Thread.rk_complete (t : Thread) (n : Nat) (r : BitVec 3) : (t.complete n).rk r = t.rk r :=
  Thread.rk_congr (Thread.complete_k t n) r

/-! ### How a meaning ends -/

@[simp] theorem Res.bind_ok {α β : Type} (a : α) (s : State) (k : α → State → Res β) : (Res.ok a s).bind k = k a s := rfl
@[simp] theorem Res.bind_stop {α β : Type} (s : State) (k : α → State → Res β) : (Res.stop s : Res α).bind k = .stop s := rfl
@[simp] theorem Res.out_ok {α : Type} (a : α) (s : State) : (Res.ok a s).out = .next s := rfl
@[simp] theorem Res.out_stop {α : Type} (s : State) : (Res.stop s : Res α).out = .next s := rfl

/-- A memory instruction always has a next state: it goes on, waits or takes a cause. -/
theorem Res.out_next {α : Type} (r : Res α) : r.out = .next r.state := by cases r <;> rfl

theorem needs_pos (m : BitVec 3) (b : Word) (s : State) (k : Out) (h : s.th.missing m = 0#3) : needs m b s k = k := by
  simp [needs, h]
theorem needs_neg (m : BitVec 3) (b : Word) (s : State) (k : Out) (h : s.th.missing m ≠ 0#3) :
    needs m b s k = .next (raise 0x07 b ((s.th.missing m).setWidth 64) s) := by simp [needs, h]
theorem priv_pos (b : Word) (s : State) (k : Out) (h : s.th.sv = true) : priv b s k = k := by simp [priv, h]
theorem priv_neg (b : Word) (s : State) (k : Out) (h : s.th.sv = false) : priv b s k = .next (raise 0x06 b 0#64 s) := by
  simp [priv, h]
theorem legal_pos (i : Instr) (s : State) (k : Out) (h : i.wf = true) : legal i s k = k := by simp [legal, h]

/-! ### Taking an exception (R296) -/

theorem raise_th (c : Nat) (a i : Word) (s : State) : (raise c a i s).th = s.th.trap c false s.th.pc a i := by
  simp [raise]

theorem raise_thread_other (c : Nat) (a i : Word) (s : State) (q : Nat) (h : q ≠ s.cur) :
    (raise c a i s).thread q = s.thread q := State.thread_setTh_other s q _ h

@[simp] theorem raise_peek (c : Nat) (a i : Word) (s : State) (k : Nat) : (raise c a i s).peek k = s.peek k := rfl

end Sys2Proof.Machine
end

