-- ==== Sys2Proof/Laws/Claims.lean ====
section
/-!
SUPPORT. What completion, register writes and trap entry are, in the words of Safety.
-/

namespace Sys2Proof.Machine

/-! ### Completion -/

theorem lc_two (c : BitVec 32) : 2 ≤ c.toNat ↔ 1#32 < c := by
  rw [BitVec.lt_def]; simp; omega

theorem succeeds_loopEnd (t : Thread) (next : Word) : Succeeds next { t with instret := t.instret - 1 } (t.loopEnd next) := by
  unfold Succeeds
  simp only [lc_two]
  have hi : t.instret - 1#64 + 1#64 = t.instret := BitVec.sub_add_cancel _ _
  unfold Thread.loopEnd
  by_cases h1 : t.lc1 ≠ 0#32 ∧ next = t.lend1
  · obtain ⟨h1, h1e⟩ := h1
    by_cases h2 : 1#32 < t.lc1
    · simp [hi, h1, h2, ← h1e]
    · by_cases h0 : t.lc0 ≠ 0#32 ∧ next = t.lend0
      · obtain ⟨h0, h0e⟩ := h0
        by_cases h3 : 1#32 < t.lc0 <;> simp [hi, h1, ← h1e, h2, h0, ← h0e, h3]
      · by_cases hz : t.lc0 = 0#32
        · simp [hi, h1, ← h1e, h2, hz]
        · have hn : next ≠ t.lend0 := fun e => h0 ⟨hz, e⟩
          simp [hi, h1, ← h1e, h2, hz, hn]
  · have e1 : (if next = t.lend1 then 0#32 else t.lc1) = t.lc1 := by
      by_cases hz : t.lc1 = 0#32
      · simp [hz]
      · simp [show next ≠ t.lend1 from fun e => h1 ⟨hz, e⟩]
    have e2 : ¬ (t.lc1 ≠ 0#32 ∧ next = t.lend1 ∧ 1#32 < t.lc1) := fun h => h1 ⟨h.1, h.2.1⟩
    simp only [ne_eq] at h1 e2
    simp only [ne_eq, BitVec.ofNat_eq_ofNat, e1, e2, h1, if_false, false_implies, true_and, not_false_eq_true, true_implies, hi]
    by_cases h0 : t.lc0 ≠ 0#32 ∧ next = t.lend0
    · obtain ⟨h0, h0e⟩ := h0
      by_cases h3 : 1#32 < t.lc0 <;> simp [h0, ← h0e, h3]
    · by_cases hz : t.lc0 = 0#32
      · simp [hz]
      · have hn : next ≠ t.lend0 := fun e => h0 ⟨hz, e⟩
        simp [hz, hn]

theorem succeeds_retire (t : Thread) (next : Word) : Succeeds next t (t.retire.loopEnd next) := by
  have h := succeeds_loopEnd t.retire next
  exact ⟨h.1.trans (BitVec.sub_add_cancel _ _), h.2⟩

theorem completes_complete (t : Thread) (n : Nat) : Completes n t (t.complete n) := succeeds_retire t _

/-- Completion only looks at pc, the loop registers and INSTRET. -/
theorem completes_congr {t t' u : Thread} {n : Nat} (h : Completes n t' u) (hp : t'.pc = t.pc) (h0 : t'.lc0 = t.lc0)
    (h1 : t'.lc1 = t.lc1) (hb0 : t'.lbeg0 = t.lbeg0) (hb1 : t'.lbeg1 = t.lbeg1) (he0 : t'.lend0 = t.lend0) (he1 : t'.lend1 = t.lend1)
    (hi : t'.instret = t.instret) : Completes n t u := by
  unfold Completes Succeeds at *
  rw [hp, h0, h1, hb0, hb1, he0, he1, hi] at h
  exact h

theorem bare_loopEnd (t : Thread) (n : Word) : (t.loopEnd n).bare = t.bare := by
  unfold Thread.loopEnd
  split
  · rfl
  · simp only []
    split <;> split <;> (try split) <;> rfl

@[simp] theorem bare_complete (t : Thread) (n : Nat) : (t.complete n).bare = t.bare := by
  rw [Thread.complete, bare_loopEnd]; rfl

@[simp] theorem bare_jump (t : Thread) (a : Word) : (t.jump a).bare = t.bare := rfl
@[simp] theorem bare_retire (t : Thread) : t.retire.bare = t.bare := rfl

theorem transfers_jump (t : Thread) (a : Word) : Transfers a t (t.jump a) := ⟨rfl, rfl, rfl, rfl⟩

/-! ### The thread that runs -/

theorem onlyThread_setTh (s : State) (t : Thread) : OnlyThread s (s.setTh t) :=
  ⟨rfl, fun p h => State.thread_setTh_other s p t h⟩

theorem onlyThread_peek {s t : State} (h : OnlyThread s t) (a : Nat) : t.peek a = s.peek a := by rw [h.1]; rfl

/-! ### Register writes -/

theorem foldReg_bare (t : Thread) (a n v : Nat) : (t.foldReg a n v).bare = t.bare := by
  unfold Thread.foldReg Thread.fold
  repeat' split
  all_goals rfl

/-- A paired thread's fold changes its fingerprints alone. -/
theorem foldReg_eq (t : Thread) (a n v : Nat) :
    t.foldReg a n v = { t with crc := (t.foldReg a n v).crc, shadowCrc := (t.foldReg a n v).shadowCrc } := by
  unfold Thread.foldReg Thread.fold
  repeat' split
  all_goals rfl

theorem wx_eq (t : Thread) (d : Reg) (v : Word) :
    t.wx d v = { t with x := (t.wx d v).x, crc := (t.wx d v).crc, shadowCrc := (t.wx d v).shadowCrc } := by
  unfold Thread.wx
  split
  · rfl
  · simp only []
    rw [foldReg_eq t]

theorem wf_eq (t : Thread) (d : Reg) (v : Word) :
    t.wf d v = { t with
      f := (t.wf d v).f, crc := (t.wf d v).crc, shadowCrc := (t.wf d v).shadowCrc, status := t.status ||| oneBit fdirtyBit } := by
  unfold Thread.wf Thread.dirty
  simp only []
  rw [foldReg_eq t]

theorem wv_eq (t : Thread) (d : Reg) (v : Line) :
    t.wv d v = { t with
      v := (t.wv d v).v, crc := (t.wv d v).crc, shadowCrc := (t.wv d v).shadowCrc, status := t.status ||| oneBit vdirtyBit } := by
  unfold Thread.wv Thread.dirty
  simp only []
  rw [foldReg_eq t]

theorem wk_eq (t : Thread) (d : BitVec 3) (v : Word) :
    t.wk d v = { t with
      k := (t.wk d v).k, crc := (t.wk d v).crc, shadowCrc := (t.wk d v).shadowCrc
      status := t.status ||| (if d = 0#3 then 0#64 else oneBit vdirtyBit) } := by
  unfold Thread.wk Thread.dirty
  split
  · simp
  · simp only []
    rw [foldReg_eq t]

theorem flags_eq (t : Thread) (fl : Nat) :
    t.flags fl = { t with fcsr := t.fcsr ||| BitVec.ofNat 64 fl, status := t.status ||| (if fl = 0 then 0#64 else oneBit fdirtyBit) } := by
  unfold Thread.flags Thread.dirty
  split
  · rename_i h
    subst h
    simp
  · simp

theorem writesX_wx (t : Thread) (d : Reg) (v : Word) : WritesX d v t (t.wx d v) := by
  refine ⟨?_, fun r => Thread.rx_wx t d r v⟩
  rw [congrArg Thread.bare (wx_eq t d v)]
  rfl

theorem WritesX.complete {d : Reg} {v : Word} {t u : Thread} (h : WritesX d v t u) (n : Nat) : WritesX d v t (u.complete n) :=
  ⟨by rw [bare_complete, h.1, Thread.complete_x], fun r => by rw [Thread.rx_complete, h.2]⟩

theorem WritesX.jump {d : Reg} {v : Word} {t u : Thread} (h : WritesX d v t u) (a : Word) : WritesX d v t (u.jump a) := h

/-- x[d] := v and completion, as integer instructions end. -/
theorem wx_complete (t : Thread) (d : Reg) (v : Word) (n : Nat) :
    Completes n t ((t.wx d v).complete n) ∧ WritesX d v t ((t.wx d v).complete n) := by
  refine ⟨completes_congr (completes_complete _ n) ?_ ?_ ?_ ?_ ?_ ?_ ?_ ?_, (writesX_wx t d v).complete n⟩ <;> simp

theorem wf_complete (t : Thread) (d : Reg) (v : Word) (fl n : Nat) :
    Completes n t (((t.flags fl).wf d v).complete n) ∧ WritesF d v fl t (((t.flags fl).wf d v).complete n) := by
  refine ⟨completes_congr (completes_complete _ n) ?_ ?_ ?_ ?_ ?_ ?_ ?_ ?_, ?_, fun r => ?_⟩
  iterate 8 simp
  · rw [bare_complete, Thread.complete_f]
    rw [congrArg Thread.bare (wf_eq (t.flags fl) d v)]
    generalize ((t.flags fl).wf d v).f = X
    generalize ((t.flags fl).wf d v).crc = Y
    generalize ((t.flags fl).wf d v).shadowCrc = Z
    rw [flags_eq t]
    by_cases h : fl = 0
    · simp [h, Thread.bare, Thread.calm]
    · simp only [h, if_false, BitVec.or_assoc, BitVec.or_self]
      rfl
  · rw [Thread.rf_complete, Thread.rf_wf]
    split
    · rfl
    · exact Thread.rf_congr (by simp) r

theorem wv_complete (t : Thread) (d : Reg) (v : Line) (fl n : Nat) :
    Completes n t (((t.flags fl).wv d v).complete n) ∧ WritesV d v fl t (((t.flags fl).wv d v).complete n) := by
  refine ⟨completes_congr (completes_complete _ n) ?_ ?_ ?_ ?_ ?_ ?_ ?_ ?_, ?_, fun r => ?_⟩
  iterate 8 simp
  · rw [bare_complete, Thread.complete_v]
    rw [congrArg Thread.bare (wv_eq (t.flags fl) d v)]
    generalize ((t.flags fl).wv d v).v = X
    generalize ((t.flags fl).wv d v).crc = Y
    generalize ((t.flags fl).wv d v).shadowCrc = Z
    rw [flags_eq t]
    simp only [BitVec.or_assoc, BitVec.or_comm (oneBit vdirtyBit)]
    rfl
  · rw [Thread.rv_complete, Thread.rv_wv]
    split
    · rfl
    · exact Thread.rv_congr (by simp) r

theorem wk_complete (t : Thread) (d : BitVec 3) (v : Word) (fl n : Nat) :
    Completes n t (((t.flags fl).wk d v).complete n) ∧ WritesK d v fl t (((t.flags fl).wk d v).complete n) := by
  refine ⟨completes_congr (completes_complete _ n) ?_ ?_ ?_ ?_ ?_ ?_ ?_ ?_, ?_, fun r => ?_⟩
  iterate 8 simp
  · rw [bare_complete, Thread.complete_k]
    rw [congrArg Thread.bare (wk_eq (t.flags fl) d v)]
    generalize ((t.flags fl).wk d v).k = X
    generalize ((t.flags fl).wk d v).crc = Y
    generalize ((t.flags fl).wk d v).shadowCrc = Z
    rw [flags_eq t]
    simp only [BitVec.or_assoc, BitVec.or_comm (if d = 0#3 then 0#64 else oneBit vdirtyBit)]
    rfl
  · rw [Thread.rk_complete, Thread.rk_wk]
    split
    · rfl
    · split
      · rfl
      · exact Thread.rk_congr (by simp) r

theorem none_complete (t : Thread) (n : Nat) : Completes n t (t.complete n) ∧ WritesNone t (t.complete n) :=
  ⟨completes_complete t n, bare_complete t n⟩

/-! ### Taking an exception -/

theorem getLsbD_oneBit (i j : Nat) (hi : i < 64) : (oneBit i).getLsbD j = decide (j = i) := by
  unfold oneBit
  rw [BitVec.getLsbD_shiftLeft, BitVec.getLsbD_one]
  by_cases h : j = i
  · subst h
    simp [hi]
  · by_cases hl : j < i
    · simp [h, hl]
    · have : j - i ≠ 0 := by omega
      simp [h, this]

/-- Bit `i` is written, and no other. -/
theorem getLsbD_putBit (w : Word) (i j : Nat) (b : Bool) (hi : i < 64) :
    (putBit w i b).getLsbD j = if j = i then b else w.getLsbD j := by
  unfold putBit
  cases b
  · simp only [Bool.false_eq_true, if_false, BitVec.getLsbD_and, BitVec.getLsbD_not, getLsbD_oneBit i j hi]
    by_cases h : j = i
    · simp [h]
    · by_cases hj : j < 64
      · simp [h, hj]
      · simp [h, BitVec.getLsbD_of_ge w j (by omega)]
  · simp only [if_true, BitVec.getLsbD_or, getLsbD_oneBit i j hi]
    by_cases h : j = i <;> simp [h]

theorem trapStatus_bit (w : Word) (i : Nat) (_h : i < 64) :
    (trapStatus w).getLsbD i =
      if i = 0 then true else if i = 1 then false else if i = 2 then w.getLsbD 1 else if i = 3 then w.getLsbD 0 else w.getLsbD i := by
  unfold trapStatus
  simp only [getLsbD_putBit _ _ _ _ (show ieBit < 64 by decide), getLsbD_putBit _ _ _ _ (show svBit < 64 by decide),
    getLsbD_putBit _ _ _ _ (show pieBit < 64 by decide), getLsbD_putBit _ _ _ _ (show psvBit < 64 by decide)]
  unfold svBit ieBit pieBit psvBit
  repeat' split
  all_goals first | rfl | omega

theorem enters_trap (t : Thread) (code : Nat) (intr : Bool) (epc eva einfo : Word) (hc : code < 2 ^ 63) :
    Enters code (causeClass code) intr epc eva einfo t (t.trap code intr epc eva einfo) := by
  refine ⟨rfl, ?_, rfl, rfl, rfl, fun i hi => trapStatus_bit t.status i hi, rfl⟩
  show putBit (BitVec.ofNat 64 code) 63 intr = _
  apply BitVec.eq_of_getLsbD_eq
  intro i hi
  rw [getLsbD_putBit _ _ _ _ (by decide), BitVec.getLsbD_or, BitVec.getLsbD_ofNat]
  have e : (if intr then 0x8000000000000000#64 else 0#64).getLsbD i = (intr && decide (i = 63)) := by
    cases intr
    · simp
    · exact getLsbD_oneBit 63 i (by decide)
  rw [e]
  by_cases h63 : i = 63
  · subst h63
    simp [Nat.testBit_lt_two_pow hc]
  · simp [h63]

theorem traps_raise (s : State) (code : Nat) (eva einfo : Word) (hc : code < 2 ^ 63) :
    Traps code (causeClass code) eva einfo s (raise code eva einfo s) := by
  refine ⟨onlyThread_setTh s _, ?_⟩
  rw [raise_th]
  exact enters_trap _ _ _ _ _ _ hc

/-! ### How a meaning ends -/

theorem finish_eq (n : Nat) (s : State) (f : Thread → Thread) : finish n s f = .next (s.setTh ((f s.th).complete n)) := rfl

end Sys2Proof.Machine
end

