-- ==== Sys2Proof/Laws/Exec.lean ====
section
/-!
SUPPORT. Each arm of `exec`.
-/

namespace Sys2Proof.Machine

set_option Elab.async false

theorem exec_add (d : Reg) (a : Reg) (b : Reg) (s : State) : exec (.add d a b) s = execAdd d a b s := rfl
theorem exec_sub (d : Reg) (a : Reg) (b : Reg) (s : State) : exec (.sub d a b) s = execSub d a b s := rfl
theorem exec_and (d : Reg) (a : Reg) (b : Reg) (s : State) : exec (.and d a b) s = execAnd d a b s := rfl
theorem exec_or (d : Reg) (a : Reg) (b : Reg) (s : State) : exec (.or d a b) s = execOr d a b s := rfl
theorem exec_xor (d : Reg) (a : Reg) (b : Reg) (s : State) : exec (.xor d a b) s = execXor d a b s := rfl
theorem exec_sll (d : Reg) (a : Reg) (b : Reg) (s : State) : exec (.sll d a b) s = execSll d a b s := rfl
theorem exec_srl (d : Reg) (a : Reg) (b : Reg) (s : State) : exec (.srl d a b) s = execSrl d a b s := rfl
theorem exec_sra (d : Reg) (a : Reg) (b : Reg) (s : State) : exec (.sra d a b) s = execSra d a b s := rfl
theorem exec_rol (d : Reg) (a : Reg) (b : Reg) (s : State) : exec (.rol d a b) s = execRol d a b s := rfl
theorem exec_ror (d : Reg) (a : Reg) (b : Reg) (s : State) : exec (.ror d a b) s = execRor d a b s := rfl
theorem exec_slt (d : Reg) (a : Reg) (b : Reg) (s : State) : exec (.slt d a b) s = execSlt d a b s := rfl
theorem exec_sltu (d : Reg) (a : Reg) (b : Reg) (s : State) : exec (.sltu d a b) s = execSltu d a b s := rfl
theorem exec_min (d : Reg) (a : Reg) (b : Reg) (s : State) : exec (.min d a b) s = execMin d a b s := rfl
theorem exec_max (d : Reg) (a : Reg) (b : Reg) (s : State) : exec (.max d a b) s = execMax d a b s := rfl
theorem exec_minu (d : Reg) (a : Reg) (b : Reg) (s : State) : exec (.minu d a b) s = execMinu d a b s := rfl
theorem exec_maxu (d : Reg) (a : Reg) (b : Reg) (s : State) : exec (.maxu d a b) s = execMaxu d a b s := rfl
theorem exec_addw (d : Reg) (a : Reg) (b : Reg) (s : State) : exec (.addw d a b) s = execAddw d a b s := rfl
theorem exec_subw (d : Reg) (a : Reg) (b : Reg) (s : State) : exec (.subw d a b) s = execSubw d a b s := rfl
theorem exec_sllw (d : Reg) (a : Reg) (b : Reg) (s : State) : exec (.sllw d a b) s = execSllw d a b s := rfl
theorem exec_srlw (d : Reg) (a : Reg) (b : Reg) (s : State) : exec (.srlw d a b) s = execSrlw d a b s := rfl
theorem exec_sraw (d : Reg) (a : Reg) (b : Reg) (s : State) : exec (.sraw d a b) s = execSraw d a b s := rfl
theorem exec_mul (d : Reg) (a : Reg) (b : Reg) (s : State) : exec (.mul d a b) s = execMul d a b s := rfl
theorem exec_mulh (d : Reg) (a : Reg) (b : Reg) (s : State) : exec (.mulh d a b) s = execMulh d a b s := rfl
theorem exec_mulhu (d : Reg) (a : Reg) (b : Reg) (s : State) : exec (.mulhu d a b) s = execMulhu d a b s := rfl
theorem exec_div (d : Reg) (a : Reg) (b : Reg) (s : State) : exec (.div d a b) s = execDiv d a b s := rfl
theorem exec_divu (d : Reg) (a : Reg) (b : Reg) (s : State) : exec (.divu d a b) s = execDivu d a b s := rfl
theorem exec_rem (d : Reg) (a : Reg) (b : Reg) (s : State) : exec (.rem d a b) s = execRem d a b s := rfl
theorem exec_remu (d : Reg) (a : Reg) (b : Reg) (s : State) : exec (.remu d a b) s = execRemu d a b s := rfl
theorem exec_mulw (d : Reg) (a : Reg) (b : Reg) (s : State) : exec (.mulw d a b) s = execMulw d a b s := rfl
theorem exec_divw (d : Reg) (a : Reg) (b : Reg) (s : State) : exec (.divw d a b) s = execDivw d a b s := rfl
theorem exec_divuw (d : Reg) (a : Reg) (b : Reg) (s : State) : exec (.divuw d a b) s = execDivuw d a b s := rfl
theorem exec_remw (d : Reg) (a : Reg) (b : Reg) (s : State) : exec (.remw d a b) s = execRemw d a b s := rfl
theorem exec_remuw (d : Reg) (a : Reg) (b : Reg) (s : State) : exec (.remuw d a b) s = execRemuw d a b s := rfl
theorem exec_addi (d : Reg) (a : Reg) (i : BitVec 12) (s : State) : exec (.addi d a i) s = execAddi d a i s := rfl
theorem exec_andi (d : Reg) (a : Reg) (i : BitVec 12) (s : State) : exec (.andi d a i) s = execAndi d a i s := rfl
theorem exec_ori (d : Reg) (a : Reg) (i : BitVec 12) (s : State) : exec (.ori d a i) s = execOri d a i s := rfl
theorem exec_xori (d : Reg) (a : Reg) (i : BitVec 12) (s : State) : exec (.xori d a i) s = execXori d a i s := rfl
theorem exec_slti (d : Reg) (a : Reg) (i : BitVec 12) (s : State) : exec (.slti d a i) s = execSlti d a i s := rfl
theorem exec_sltiu (d : Reg) (a : Reg) (i : BitVec 12) (s : State) : exec (.sltiu d a i) s = execSltiu d a i s := rfl
theorem exec_slli (d : Reg) (a : Reg) (h : BitVec 6) (s : State) : exec (.slli d a h) s = execSlli d a h s := rfl
theorem exec_srli (d : Reg) (a : Reg) (h : BitVec 6) (s : State) : exec (.srli d a h) s = execSrli d a h s := rfl
theorem exec_srai (d : Reg) (a : Reg) (h : BitVec 6) (s : State) : exec (.srai d a h) s = execSrai d a h s := rfl
theorem exec_rori (d : Reg) (a : Reg) (h : BitVec 6) (s : State) : exec (.rori d a h) s = execRori d a h s := rfl
theorem exec_addiw (d : Reg) (a : Reg) (i : BitVec 12) (s : State) : exec (.addiw d a i) s = execAddiw d a i s := rfl
theorem exec_slliw (d : Reg) (a : Reg) (h : BitVec 5) (s : State) : exec (.slliw d a h) s = execSlliw d a h s := rfl
theorem exec_srliw (d : Reg) (a : Reg) (h : BitVec 5) (s : State) : exec (.srliw d a h) s = execSrliw d a h s := rfl
theorem exec_sraiw (d : Reg) (a : Reg) (h : BitVec 5) (s : State) : exec (.sraiw d a h) s = execSraiw d a h s := rfl
theorem exec_phint (a : Reg) (i : BitVec 10) (t : BitVec 2) (s : State) : exec (.phint a i t) s = execPhint a i t s := rfl
theorem exec_lui (d : Reg) (i : BitVec 20) (s : State) : exec (.lui d i) s = execLui d i s := rfl
theorem exec_auipc (d : Reg) (i : BitVec 20) (s : State) : exec (.auipc d i) s = execAuipc d i s := rfl
theorem exec_clz (d : Reg) (a : Reg) (s : State) : exec (.clz d a) s = execClz d a s := rfl
theorem exec_ctz (d : Reg) (a : Reg) (s : State) : exec (.ctz d a) s = execCtz d a s := rfl
theorem exec_popc (d : Reg) (a : Reg) (s : State) : exec (.popc d a) s = execPopc d a s := rfl
theorem exec_bswap (d : Reg) (a : Reg) (s : State) : exec (.bswap d a) s = execBswap d a s := rfl
theorem exec_sextI8 (d : Reg) (a : Reg) (s : State) : exec (.sextI8 d a) s = execSextI8 d a s := rfl
theorem exec_sextI16 (d : Reg) (a : Reg) (s : State) : exec (.sextI16 d a) s = execSextI16 d a s := rfl
theorem exec_sextI32 (d : Reg) (a : Reg) (s : State) : exec (.sextI32 d a) s = execSextI32 d a s := rfl
theorem exec_zextN8 (d : Reg) (a : Reg) (s : State) : exec (.zextN8 d a) s = execZextN8 d a s := rfl
theorem exec_zextN16 (d : Reg) (a : Reg) (s : State) : exec (.zextN16 d a) s = execZextN16 d a s := rfl
theorem exec_zextN32 (d : Reg) (a : Reg) (s : State) : exec (.zextN32 d a) s = execZextN32 d a s := rfl
theorem exec_sel (d : Reg) (a : Reg) (b : Reg) (c : Reg) (s : State) : exec (.sel d a b c) s = execSel d a b c s := rfl
theorem exec_shadd (d : Reg) (a : Reg) (b : Reg) (h : BitVec 2) (s : State) : exec (.shadd d a b h) s = execShadd d a b h s := rfl
theorem exec_mkva (d : Reg) (a : Reg) (b : Reg) (s : State) : exec (.mkva d a b) s = execMkva d a b s := rfl
theorem exec_mkvai (d : Reg) (a : Reg) (i : BitVec 4) (s : State) : exec (.mkvai d a i) s = execMkvai d a i s := rfl
theorem exec_beq (a : Reg) (b : Reg) (i : BitVec 12) (s : State) : exec (.beq a b i) s = execBeq a b i s := rfl
theorem exec_bne (a : Reg) (b : Reg) (i : BitVec 12) (s : State) : exec (.bne a b i) s = execBne a b i s := rfl
theorem exec_blt (a : Reg) (b : Reg) (i : BitVec 12) (s : State) : exec (.blt a b i) s = execBlt a b i s := rfl
theorem exec_bge (a : Reg) (b : Reg) (i : BitVec 12) (s : State) : exec (.bge a b i) s = execBge a b i s := rfl
theorem exec_bltu (a : Reg) (b : Reg) (i : BitVec 12) (s : State) : exec (.bltu a b i) s = execBltu a b i s := rfl
theorem exec_bgeu (a : Reg) (b : Reg) (i : BitVec 12) (s : State) : exec (.bgeu a b i) s = execBgeu a b i s := rfl
theorem exec_jal (d : Reg) (i : BitVec 20) (s : State) : exec (.jal d i) s = execJal d i s := rfl
theorem exec_jalr (d : Reg) (a : Reg) (i : BitVec 12) (s : State) : exec (.jalr d a i) s = execJalr d a i s := rfl
theorem exec_loop (l : BitVec 1) (a : Reg) (i : BitVec 12) (s : State) : exec (.loop l a i) s = execLoop l a i s := rfl
theorem exec_loopi (l : BitVec 1) (n : BitVec 10) (i : BitVec 12) (s : State) : exec (.loopi l n i) s = execLoopi l n i s := rfl
theorem exec_fadd (z : BitVec 2) (r : BitVec 3) (d : Reg) (a : Reg) (b : Reg) (s : State) : exec (.fadd z r d a b) s = execFadd z r d a b s := rfl
theorem exec_fsub (z : BitVec 2) (r : BitVec 3) (d : Reg) (a : Reg) (b : Reg) (s : State) : exec (.fsub z r d a b) s = execFsub z r d a b s := rfl
theorem exec_fmul (z : BitVec 2) (r : BitVec 3) (d : Reg) (a : Reg) (b : Reg) (s : State) : exec (.fmul z r d a b) s = execFmul z r d a b s := rfl
theorem exec_fdiv (z : BitVec 2) (r : BitVec 3) (d : Reg) (a : Reg) (b : Reg) (s : State) : exec (.fdiv z r d a b) s = execFdiv z r d a b s := rfl
theorem exec_fsqrt (z : BitVec 2) (r : BitVec 3) (d : Reg) (a : Reg) (s : State) : exec (.fsqrt z r d a) s = execFsqrt z r d a s := rfl
theorem exec_fmin (z : BitVec 2) (d : Reg) (a : Reg) (b : Reg) (s : State) : exec (.fmin z d a b) s = execFmin z d a b s := rfl
theorem exec_fmax (z : BitVec 2) (d : Reg) (a : Reg) (b : Reg) (s : State) : exec (.fmax z d a b) s = execFmax z d a b s := rfl
theorem exec_fcpsgn (z : BitVec 2) (d : Reg) (a : Reg) (b : Reg) (s : State) : exec (.fcpsgn z d a b) s = execFcpsgn z d a b s := rfl
theorem exec_fxsgn (z : BitVec 2) (d : Reg) (a : Reg) (b : Reg) (s : State) : exec (.fxsgn z d a b) s = execFxsgn z d a b s := rfl
theorem exec_fneg (z : BitVec 2) (d : Reg) (a : Reg) (s : State) : exec (.fneg z d a) s = execFneg z d a s := rfl
theorem exec_fabs (z : BitVec 2) (d : Reg) (a : Reg) (s : State) : exec (.fabs z d a) s = execFabs z d a s := rfl
theorem exec_fmov (d : Reg) (a : Reg) (s : State) : exec (.fmov d a) s = execFmov d a s := rfl
theorem exec_fcvtFf (z : BitVec 2) (r : BitVec 3) (t : BitVec 2) (d : Reg) (a : Reg) (s : State) : exec (.fcvtFf z r t d a) s = execFcvtFf z r t d a s := rfl
theorem exec_fcvtFInt (z : BitVec 2) (r : BitVec 3) (n : BitVec 1) (g : BitVec 1) (d : Reg) (a : Reg) (s : State) : exec (.fcvtFInt z r n g d a) s = execFcvtFInt z r n g d a s := rfl
theorem exec_fcvtIntF (z : BitVec 2) (r : BitVec 3) (n : BitVec 1) (g : BitVec 1) (d : Reg) (a : Reg) (s : State) : exec (.fcvtIntF z r n g d a) s = execFcvtIntF z r n g d a s := rfl
theorem exec_fmvx (z : BitVec 2) (d : Reg) (a : Reg) (s : State) : exec (.fmvx z d a) s = execFmvx z d a s := rfl
theorem exec_fmvf (z : BitVec 2) (d : Reg) (a : Reg) (s : State) : exec (.fmvf z d a) s = execFmvf z d a s := rfl
theorem exec_feq (z : BitVec 2) (d : Reg) (a : Reg) (b : Reg) (s : State) : exec (.feq z d a b) s = execFeq z d a b s := rfl
theorem exec_flt (z : BitVec 2) (d : Reg) (a : Reg) (b : Reg) (s : State) : exec (.flt z d a b) s = execFlt z d a b s := rfl
theorem exec_fle (z : BitVec 2) (d : Reg) (a : Reg) (b : Reg) (s : State) : exec (.fle z d a b) s = execFle z d a b s := rfl
theorem exec_fclass (z : BitVec 2) (d : Reg) (a : Reg) (s : State) : exec (.fclass z d a) s = execFclass z d a s := rfl
theorem exec_fma (z : BitVec 2) (r : BitVec 1) (d : Reg) (a : Reg) (b : Reg) (c : Reg) (s : State) : exec (.fma z r d a b c) s = execFma z r d a b c s := rfl
theorem exec_fms (z : BitVec 2) (r : BitVec 1) (d : Reg) (a : Reg) (b : Reg) (c : Reg) (s : State) : exec (.fms z r d a b c) s = execFms z r d a b c s := rfl
theorem exec_fnma (z : BitVec 2) (r : BitVec 1) (d : Reg) (a : Reg) (b : Reg) (c : Reg) (s : State) : exec (.fnma z r d a b c) s = execFnma z r d a b c s := rfl
theorem exec_fnms (z : BitVec 2) (r : BitVec 1) (d : Reg) (a : Reg) (b : Reg) (c : Reg) (s : State) : exec (.fnms z r d a b c) s = execFnms z r d a b c s := rfl
theorem exec_ldI8 (d : Reg) (a : Reg) (i : BitVec 12) (s : State) : exec (.ldI8 d a i) s = execLdI8 d a i s := rfl
theorem exec_ldI16 (d : Reg) (a : Reg) (i : BitVec 12) (s : State) : exec (.ldI16 d a i) s = execLdI16 d a i s := rfl
theorem exec_ldI32 (d : Reg) (a : Reg) (i : BitVec 12) (s : State) : exec (.ldI32 d a i) s = execLdI32 d a i s := rfl
theorem exec_ldI64 (d : Reg) (a : Reg) (i : BitVec 12) (s : State) : exec (.ldI64 d a i) s = execLdI64 d a i s := rfl
theorem exec_ldN8 (d : Reg) (a : Reg) (i : BitVec 12) (s : State) : exec (.ldN8 d a i) s = execLdN8 d a i s := rfl
theorem exec_ldN16 (d : Reg) (a : Reg) (i : BitVec 12) (s : State) : exec (.ldN16 d a i) s = execLdN16 d a i s := rfl
theorem exec_ldN32 (d : Reg) (a : Reg) (i : BitVec 12) (s : State) : exec (.ldN32 d a i) s = execLdN32 d a i s := rfl
theorem exec_pref (k : BitVec 5) (a : Reg) (i : BitVec 12) (s : State) : exec (.pref k a i) s = execPref k a i s := rfl
theorem exec_stI8 (a : Reg) (b : Reg) (i : BitVec 12) (s : State) : exec (.stI8 a b i) s = execStI8 a b i s := rfl
theorem exec_stI16 (a : Reg) (b : Reg) (i : BitVec 12) (s : State) : exec (.stI16 a b i) s = execStI16 a b i s := rfl
theorem exec_stI32 (a : Reg) (b : Reg) (i : BitVec 12) (s : State) : exec (.stI32 a b i) s = execStI32 a b i s := rfl
theorem exec_stI64 (a : Reg) (b : Reg) (i : BitVec 12) (s : State) : exec (.stI64 a b i) s = execStI64 a b i s := rfl
theorem exec_fldF16 (d : Reg) (a : Reg) (i : BitVec 12) (s : State) : exec (.fldF16 d a i) s = execFldF16 d a i s := rfl
theorem exec_fldF32 (d : Reg) (a : Reg) (i : BitVec 12) (s : State) : exec (.fldF32 d a i) s = execFldF32 d a i s := rfl
theorem exec_fldF64 (d : Reg) (a : Reg) (i : BitVec 12) (s : State) : exec (.fldF64 d a i) s = execFldF64 d a i s := rfl
theorem exec_fstF16 (a : Reg) (b : Reg) (i : BitVec 12) (s : State) : exec (.fstF16 a b i) s = execFstF16 a b i s := rfl
theorem exec_fstF32 (a : Reg) (b : Reg) (i : BitVec 12) (s : State) : exec (.fstF32 a b i) s = execFstF32 a b i s := rfl
theorem exec_fstF64 (a : Reg) (b : Reg) (i : BitVec 12) (s : State) : exec (.fstF64 a b i) s = execFstF64 a b i s := rfl
theorem exec_amoadd (z : BitVec 1) (d : Reg) (a : Reg) (b : Reg) (s : State) : exec (.amoadd z d a b) s = execAmoadd z d a b s := rfl
theorem exec_amoswap (z : BitVec 1) (d : Reg) (a : Reg) (b : Reg) (s : State) : exec (.amoswap z d a b) s = execAmoswap z d a b s := rfl
theorem exec_amoand (z : BitVec 1) (d : Reg) (a : Reg) (b : Reg) (s : State) : exec (.amoand z d a b) s = execAmoand z d a b s := rfl
theorem exec_amoor (z : BitVec 1) (d : Reg) (a : Reg) (b : Reg) (s : State) : exec (.amoor z d a b) s = execAmoor z d a b s := rfl
theorem exec_amoxor (z : BitVec 1) (d : Reg) (a : Reg) (b : Reg) (s : State) : exec (.amoxor z d a b) s = execAmoxor z d a b s := rfl
theorem exec_amomin (z : BitVec 1) (d : Reg) (a : Reg) (b : Reg) (s : State) : exec (.amomin z d a b) s = execAmomin z d a b s := rfl
theorem exec_amomax (z : BitVec 1) (d : Reg) (a : Reg) (b : Reg) (s : State) : exec (.amomax z d a b) s = execAmomax z d a b s := rfl
theorem exec_amominu (z : BitVec 1) (d : Reg) (a : Reg) (b : Reg) (s : State) : exec (.amominu z d a b) s = execAmominu z d a b s := rfl
theorem exec_amomaxu (z : BitVec 1) (d : Reg) (a : Reg) (b : Reg) (s : State) : exec (.amomaxu z d a b) s = execAmomaxu z d a b s := rfl
theorem exec_cas (z : BitVec 1) (d : Reg) (a : Reg) (b : Reg) (s : State) : exec (.cas z d a b) s = execCas z d a b s := rfl
theorem exec_radd (z : BitVec 1) (a : Reg) (b : Reg) (s : State) : exec (.radd z a b) s = execRadd z a b s := rfl
theorem exec_raddF (z : BitVec 1) (a : Reg) (b : Reg) (s : State) : exec (.raddF z a b) s = execRaddF z a b s := rfl
theorem exec_ldAcq (z : BitVec 1) (p : BitVec 2) (d : Reg) (a : Reg) (s : State) : exec (.ldAcq z p d a) s = execLdAcq z p d a s := rfl
theorem exec_stRel (z : BitVec 1) (p : BitVec 2) (a : Reg) (b : Reg) (s : State) : exec (.stRel z p a b) s = execStRel z p a b s := rfl
theorem exec_fence (p : BitVec 2) (s : State) : exec (.fence p) s = execFence p s := rfl
theorem exec_bar (n : BitVec 4) (s : State) : exec (.bar n) s = execBar n s := rfl
theorem exec_barwait (n : BitVec 4) (s : State) : exec (.barwait n) s = execBarwait n s := rfl
theorem exec_waitne (z : BitVec 1) (a : Reg) (b : Reg) (s : State) : exec (.waitne z a b) s = execWaitne z a b s := rfl
theorem exec_sigrd (d : Reg) (s : State) : exec (.sigrd d) s = execSigrd d s := rfl
theorem exec_sigclr (a : Reg) (s : State) : exec (.sigclr a) s = execSigclr a s := rfl
theorem exec_rst (z : BitVec 1) (a : Reg) (b : Reg) (s : State) : exec (.rst z a b) s = execRst z a b s := rfl
theorem exec_rstRel (z : BitVec 1) (a : Reg) (b : Reg) (s : State) : exec (.rstRel z a b) s = execRstRel z a b s := rfl
theorem exec_ramo (z : BitVec 1) (o : BitVec 3) (d : Reg) (a : Reg) (b : Reg) (s : State) : exec (.ramo z o d a b) s = execRamo z o d a b s := rfl
theorem exec_rcas (z : BitVec 1) (d : Reg) (a : Reg) (b : Reg) (s : State) : exec (.rcas z d a b) s = execRcas z d a b s := rfl
theorem exec_vadd (w : BitVec 2) (k : BitVec 3) (d : Reg) (a : Reg) (b : Reg) (s : State) : exec (.vadd w k d a b) s = execVadd w k d a b s := rfl
theorem exec_vsub (w : BitVec 2) (k : BitVec 3) (d : Reg) (a : Reg) (b : Reg) (s : State) : exec (.vsub w k d a b) s = execVsub w k d a b s := rfl
theorem exec_vmul (w : BitVec 2) (k : BitVec 3) (d : Reg) (a : Reg) (b : Reg) (s : State) : exec (.vmul w k d a b) s = execVmul w k d a b s := rfl
theorem exec_vmulh (w : BitVec 2) (k : BitVec 3) (d : Reg) (a : Reg) (b : Reg) (s : State) : exec (.vmulh w k d a b) s = execVmulh w k d a b s := rfl
theorem exec_vmin (w : BitVec 2) (k : BitVec 3) (d : Reg) (a : Reg) (b : Reg) (s : State) : exec (.vmin w k d a b) s = execVmin w k d a b s := rfl
theorem exec_vmax (w : BitVec 2) (k : BitVec 3) (d : Reg) (a : Reg) (b : Reg) (s : State) : exec (.vmax w k d a b) s = execVmax w k d a b s := rfl
theorem exec_vminu (w : BitVec 2) (k : BitVec 3) (d : Reg) (a : Reg) (b : Reg) (s : State) : exec (.vminu w k d a b) s = execVminu w k d a b s := rfl
theorem exec_vmaxu (w : BitVec 2) (k : BitVec 3) (d : Reg) (a : Reg) (b : Reg) (s : State) : exec (.vmaxu w k d a b) s = execVmaxu w k d a b s := rfl
theorem exec_vand (w : BitVec 2) (k : BitVec 3) (d : Reg) (a : Reg) (b : Reg) (s : State) : exec (.vand w k d a b) s = execVand w k d a b s := rfl
theorem exec_vor (w : BitVec 2) (k : BitVec 3) (d : Reg) (a : Reg) (b : Reg) (s : State) : exec (.vor w k d a b) s = execVor w k d a b s := rfl
theorem exec_vxor (w : BitVec 2) (k : BitVec 3) (d : Reg) (a : Reg) (b : Reg) (s : State) : exec (.vxor w k d a b) s = execVxor w k d a b s := rfl
theorem exec_vsll (w : BitVec 2) (k : BitVec 3) (d : Reg) (a : Reg) (b : Reg) (s : State) : exec (.vsll w k d a b) s = execVsll w k d a b s := rfl
theorem exec_vsrl (w : BitVec 2) (k : BitVec 3) (d : Reg) (a : Reg) (b : Reg) (s : State) : exec (.vsrl w k d a b) s = execVsrl w k d a b s := rfl
theorem exec_vsra (w : BitVec 2) (k : BitVec 3) (d : Reg) (a : Reg) (b : Reg) (s : State) : exec (.vsra w k d a b) s = execVsra w k d a b s := rfl
theorem exec_vfadd (w : BitVec 2) (k : BitVec 3) (d : Reg) (a : Reg) (b : Reg) (s : State) : exec (.vfadd w k d a b) s = execVfadd w k d a b s := rfl
theorem exec_vfsub (w : BitVec 2) (k : BitVec 3) (d : Reg) (a : Reg) (b : Reg) (s : State) : exec (.vfsub w k d a b) s = execVfsub w k d a b s := rfl
theorem exec_vfmul (w : BitVec 2) (k : BitVec 3) (d : Reg) (a : Reg) (b : Reg) (s : State) : exec (.vfmul w k d a b) s = execVfmul w k d a b s := rfl
theorem exec_vfdiv (w : BitVec 2) (k : BitVec 3) (d : Reg) (a : Reg) (b : Reg) (s : State) : exec (.vfdiv w k d a b) s = execVfdiv w k d a b s := rfl
theorem exec_vfmin (w : BitVec 2) (k : BitVec 3) (d : Reg) (a : Reg) (b : Reg) (s : State) : exec (.vfmin w k d a b) s = execVfmin w k d a b s := rfl
theorem exec_vfmax (w : BitVec 2) (k : BitVec 3) (d : Reg) (a : Reg) (b : Reg) (s : State) : exec (.vfmax w k d a b) s = execVfmax w k d a b s := rfl
theorem exec_vfsqrt (w : BitVec 2) (k : BitVec 3) (d : Reg) (a : Reg) (s : State) : exec (.vfsqrt w k d a) s = execVfsqrt w k d a s := rfl
theorem exec_vfrcp (w : BitVec 2) (k : BitVec 3) (d : Reg) (a : Reg) (s : State) : exec (.vfrcp w k d a) s = execVfrcp w k d a s := rfl
theorem exec_vfrsq (w : BitVec 2) (k : BitVec 3) (d : Reg) (a : Reg) (s : State) : exec (.vfrsq w k d a) s = execVfrsq w k d a s := rfl
theorem exec_vfexp2 (w : BitVec 2) (k : BitVec 3) (d : Reg) (a : Reg) (s : State) : exec (.vfexp2 w k d a) s = execVfexp2 w k d a s := rfl
theorem exec_vfma (w : BitVec 2) (k : BitVec 3) (d : Reg) (a : Reg) (b : Reg) (s : State) : exec (.vfma w k d a b) s = execVfma w k d a b s := rfl
theorem exec_vfms (w : BitVec 2) (k : BitVec 3) (d : Reg) (a : Reg) (b : Reg) (s : State) : exec (.vfms w k d a b) s = execVfms w k d a b s := rfl
theorem exec_vfnma (w : BitVec 2) (k : BitVec 3) (d : Reg) (a : Reg) (b : Reg) (s : State) : exec (.vfnma w k d a b) s = execVfnma w k d a b s := rfl
theorem exec_vfnms (w : BitVec 2) (k : BitVec 3) (d : Reg) (a : Reg) (b : Reg) (s : State) : exec (.vfnms w k d a b) s = execVfnms w k d a b s := rfl
theorem exec_vcmpeq (w : BitVec 2) (k : BitVec 3) (d : BitVec 3) (a : Reg) (b : Reg) (s : State) : exec (.vcmpeq w k d a b) s = execVcmpeq w k d a b s := rfl
theorem exec_vcmpne (w : BitVec 2) (k : BitVec 3) (d : BitVec 3) (a : Reg) (b : Reg) (s : State) : exec (.vcmpne w k d a b) s = execVcmpne w k d a b s := rfl
theorem exec_vcmplt (w : BitVec 2) (k : BitVec 3) (d : BitVec 3) (a : Reg) (b : Reg) (s : State) : exec (.vcmplt w k d a b) s = execVcmplt w k d a b s := rfl
theorem exec_vcmple (w : BitVec 2) (k : BitVec 3) (d : BitVec 3) (a : Reg) (b : Reg) (s : State) : exec (.vcmple w k d a b) s = execVcmple w k d a b s := rfl
theorem exec_vcmpltu (w : BitVec 2) (k : BitVec 3) (d : BitVec 3) (a : Reg) (b : Reg) (s : State) : exec (.vcmpltu w k d a b) s = execVcmpltu w k d a b s := rfl
theorem exec_vcmpleu (w : BitVec 2) (k : BitVec 3) (d : BitVec 3) (a : Reg) (b : Reg) (s : State) : exec (.vcmpleu w k d a b) s = execVcmpleu w k d a b s := rfl
theorem exec_vfcmpeq (w : BitVec 2) (k : BitVec 3) (d : BitVec 3) (a : Reg) (b : Reg) (s : State) : exec (.vfcmpeq w k d a b) s = execVfcmpeq w k d a b s := rfl
theorem exec_vfcmplt (w : BitVec 2) (k : BitVec 3) (d : BitVec 3) (a : Reg) (b : Reg) (s : State) : exec (.vfcmplt w k d a b) s = execVfcmplt w k d a b s := rfl
theorem exec_vfcmple (w : BitVec 2) (k : BitVec 3) (d : BitVec 3) (a : Reg) (b : Reg) (s : State) : exec (.vfcmple w k d a b) s = execVfcmple w k d a b s := rfl
theorem exec_vsel (w : BitVec 2) (k : BitVec 3) (d : Reg) (a : Reg) (b : Reg) (s : State) : exec (.vsel w k d a b) s = execVsel w k d a b s := rfl
theorem exec_vbcast (w : BitVec 2) (k : BitVec 3) (d : Reg) (a : Reg) (s : State) : exec (.vbcast w k d a) s = execVbcast w k d a s := rfl
theorem exec_vextr (w : BitVec 2) (d : Reg) (a : Reg) (b : Reg) (s : State) : exec (.vextr w d a b) s = execVextr w d a b s := rfl
theorem exec_vinsr (w : BitVec 2) (d : Reg) (a : Reg) (b : Reg) (s : State) : exec (.vinsr w d a b) s = execVinsr w d a b s := rfl
theorem exec_vperm (w : BitVec 2) (k : BitVec 3) (d : Reg) (a : Reg) (b : Reg) (s : State) : exec (.vperm w k d a b) s = execVperm w k d a b s := rfl
theorem exec_vredAdd (w : BitVec 2) (k : BitVec 3) (d : Reg) (a : Reg) (s : State) : exec (.vredAdd w k d a) s = execVredAdd w k d a s := rfl
theorem exec_vredMin (w : BitVec 2) (k : BitVec 3) (d : Reg) (a : Reg) (s : State) : exec (.vredMin w k d a) s = execVredMin w k d a s := rfl
theorem exec_vredMax (w : BitVec 2) (k : BitVec 3) (d : Reg) (a : Reg) (s : State) : exec (.vredMax w k d a) s = execVredMax w k d a s := rfl
theorem exec_vredMinu (w : BitVec 2) (k : BitVec 3) (d : Reg) (a : Reg) (s : State) : exec (.vredMinu w k d a) s = execVredMinu w k d a s := rfl
theorem exec_vredMaxu (w : BitVec 2) (k : BitVec 3) (d : Reg) (a : Reg) (s : State) : exec (.vredMaxu w k d a) s = execVredMaxu w k d a s := rfl
theorem exec_vfredAdd (w : BitVec 2) (k : BitVec 3) (d : Reg) (a : Reg) (s : State) : exec (.vfredAdd w k d a) s = execVfredAdd w k d a s := rfl
theorem exec_vfredMin (w : BitVec 2) (k : BitVec 3) (d : Reg) (a : Reg) (s : State) : exec (.vfredMin w k d a) s = execVfredMin w k d a s := rfl
theorem exec_vfredMax (w : BitVec 2) (k : BitVec 3) (d : Reg) (a : Reg) (s : State) : exec (.vfredMax w k d a) s = execVfredMax w k d a s := rfl
theorem exec_vcvt (t : BitVec 4) (u : BitVec 4) (z : BitVec 1) (k : BitVec 3) (d : Reg) (a : Reg) (s : State) : exec (.vcvt t u z k d a) s = execVcvt t u z k d a s := rfl
theorem exec_vcvtF32I32 (k : BitVec 3) (d : Reg) (a : Reg) (s : State) : exec (.vcvtF32I32 k d a) s = execVcvtF32I32 k d a s := rfl
theorem exec_vcvtI32F32 (k : BitVec 3) (d : Reg) (a : Reg) (s : State) : exec (.vcvtI32F32 k d a) s = execVcvtI32F32 k d a s := rfl
theorem exec_vcvtF64I64 (k : BitVec 3) (d : Reg) (a : Reg) (s : State) : exec (.vcvtF64I64 k d a) s = execVcvtF64I64 k d a s := rfl
theorem exec_vcvtI64F64 (k : BitVec 3) (d : Reg) (a : Reg) (s : State) : exec (.vcvtI64F64 k d a) s = execVcvtI64F64 k d a s := rfl
theorem exec_vld (w : BitVec 2) (k : BitVec 3) (d : Reg) (a : Reg) (s : State) : exec (.vld w k d a) s = execVld w k d a s := rfl
theorem exec_vst (w : BitVec 2) (k : BitVec 3) (d : Reg) (a : Reg) (s : State) : exec (.vst w k d a) s = execVst w k d a s := rfl
theorem exec_vlds (w : BitVec 2) (k : BitVec 3) (d : Reg) (a : Reg) (b : Reg) (s : State) : exec (.vlds w k d a b) s = execVlds w k d a b s := rfl
theorem exec_vsts (w : BitVec 2) (k : BitVec 3) (d : Reg) (a : Reg) (b : Reg) (s : State) : exec (.vsts w k d a b) s = execVsts w k d a b s := rfl
theorem exec_vgather (w : BitVec 2) (k : BitVec 3) (d : Reg) (a : Reg) (b : Reg) (s : State) : exec (.vgather w k d a b) s = execVgather w k d a b s := rfl
theorem exec_vscatter (w : BitVec 2) (k : BitVec 3) (d : Reg) (a : Reg) (b : Reg) (s : State) : exec (.vscatter w k d a b) s = execVscatter w k d a b s := rfl
theorem exec_tld (d : BitVec 3) (a : Reg) (b : Reg) (s : State) : exec (.tld d a b) s = execTld d a b s := rfl
theorem exec_acld (d : BitVec 2) (a : Reg) (b : Reg) (s : State) : exec (.acld d a b) s = execAcld d a b s := rfl
theorem exec_aczero (d : BitVec 2) (s : State) : exec (.aczero d) s = execAczero d s := rfl
theorem exec_acst (z : BitVec 1) (f : BitVec 4) (d : BitVec 2) (a : Reg) (b : Reg) (s : State) : exec (.acst z f d a b) s = execAcst z f d a b s := rfl
theorem exec_twld (x : BitVec 1) (p : BitVec 1) (f : BitVec 4) (a : Reg) (b : Reg) (s : State) : exec (.twld x p f a b) s = execTwld x p f a b s := rfl
theorem exec_tmma (z : BitVec 1) (f : BitVec 4) (d : BitVec 2) (a : BitVec 3) (s : State) : exec (.tmma z f d a) s = execTmma z f d a s := rfl
theorem exec_tmmaSp (z : BitVec 1) (f : BitVec 4) (d : BitVec 2) (a : BitVec 3) (s : State) : exec (.tmmaSp z f d a) s = execTmmaSp z f d a s := rfl
theorem exec_tmmaMx (z : BitVec 1) (f : BitVec 4) (d : BitVec 2) (a : BitVec 3) (b : Reg) (s : State) : exec (.tmmaMx z f d a b) s = execTmmaMx z f d a b s := rfl
theorem exec_tmovTv (d : BitVec 3) (r : BitVec 4) (a : Reg) (s : State) : exec (.tmovTv d r a) s = execTmovTv d r a s := rfl
theorem exec_tmovVt (d : Reg) (a : BitVec 3) (r : BitVec 4) (s : State) : exec (.tmovVt d a r) s = execTmovVt d a r s := rfl
theorem exec_acscale (f : BitVec 1) (d : BitVec 2) (a : Reg) (s : State) : exec (.acscale f d a) s = execAcscale f d a s := rfl
theorem exec_accvt (f : BitVec 1) (d : BitVec 2) (s : State) : exec (.accvt f d) s = execAccvt f d s := rfl
theorem exec_cpy (g : BitVec 3) (d : Reg) (a : Reg) (b : Reg) (c : Reg) (s : State) : exec (.cpy g d a b c) s = execCpy g d a b c s := rfl
theorem exec_cpy2d (g : BitVec 3) (d : Reg) (a : Reg) (b : Reg) (c : Reg) (s : State) : exec (.cpy2d g d a b c) s = execCpy2d g d a b c s := rfl
theorem exec_cpyBc (g : BitVec 3) (d : Reg) (a : Reg) (b : Reg) (c : Reg) (s : State) : exec (.cpyBc g d a b c) s = execCpyBc g d a b c s := rfl
theorem exec_cwait (g : BitVec 3) (n : BitVec 7) (s : State) : exec (.cwait g n) s = execCwait g n s := rfl
theorem exec_cpoll (d : Reg) (g : BitVec 3) (s : State) : exec (.cpoll d g) s = execCpoll d g s := rfl
theorem exec_ccancel (g : BitVec 3) (s : State) : exec (.ccancel g) s = execCcancel g s := rfl
theorem exec_msend (p : BitVec 1) (d : Reg) (a : Reg) (b : Reg) (c : Reg) (s : State) : exec (.msend p d a b c) s = execMsend p d a b c s := rfl
theorem exec_mpost (d : Reg) (a : Reg) (b : Reg) (c : Reg) (s : State) : exec (.mpost d a b c) s = execMpost d a b c s := rfl
theorem exec_csrr (d : Reg) (i : BitVec 12) (s : State) : exec (.csrr d i) s = execCsrr d i s := rfl
theorem exec_csrw (d : Reg) (a : Reg) (i : BitVec 12) (s : State) : exec (.csrw d a i) s = execCsrw d a i s := rfl
theorem exec_csrs (d : Reg) (a : Reg) (i : BitVec 12) (s : State) : exec (.csrs d a i) s = execCsrs d a i s := rfl
theorem exec_csrc (d : Reg) (a : Reg) (i : BitVec 12) (s : State) : exec (.csrc d a i) s = execCsrc d a i s := rfl
theorem exec_tlbi (a : Reg) (b : Reg) (s : State) : exec (.tlbi a b) s = execTlbi a b s := rfl
theorem exec_tlbia (a : Reg) (s : State) : exec (.tlbia a) s = execTlbia a s := rfl
theorem exec_icinv (w : BitVec 1) (a : Reg) (s : State) : exec (.icinv w a) s = execIcinv w a s := rfl
theorem exec_dcwb (w : BitVec 1) (a : Reg) (s : State) : exec (.dcwb w a) s = execDcwb w a s := rfl
theorem exec_dcinv (w : BitVec 1) (a : Reg) (s : State) : exec (.dcinv w a) s = execDcinv w a s := rfl
theorem exec_dcflush (w : BitVec 1) (a : Reg) (s : State) : exec (.dcflush w a) s = execDcflush w a s := rfl
theorem exec_ctxsave (a : Reg) (s : State) : exec (.ctxsave a) s = execCtxsave a s := rfl
theorem exec_ctxload (a : Reg) (b : Reg) (s : State) : exec (.ctxload a b) s = execCtxload a b s := rfl
theorem exec_kill (d : Reg) (a : Reg) (s : State) : exec (.kill d a) s = execKill d a s := rfl
theorem exec_reclaim (d : Reg) (a : Reg) (b : Reg) (s : State) : exec (.reclaim d a b) s = execReclaim d a b s := rfl
theorem exec_fqpop (d : Reg) (a : Reg) (s : State) : exec (.fqpop d a) s = execFqpop d a s := rfl
theorem exec_replay (a : Reg) (s : State) : exec (.replay a) s = execReplay a s := rfl
theorem exec_pair (d : Reg) (s : State) : exec (.pair d) s = execPair d s := rfl
theorem exec_unpair (d : Reg) (s : State) : exec (.unpair d) s = execUnpair d s := rfl
theorem exec_snaparm (d : Reg) (a : Reg) (s : State) : exec (.snaparm d a) s = execSnaparm d a s := rfl
theorem exec_hVaddI32 (d : Reg) (b : Reg) (s : State) : exec (.hVaddI32 d b) s = execHVaddI32 d b s := rfl
theorem exec_hVsubI32 (d : Reg) (b : Reg) (s : State) : exec (.hVsubI32 d b) s = execHVsubI32 d b s := rfl
theorem exec_hVaddI64 (d : Reg) (b : Reg) (s : State) : exec (.hVaddI64 d b) s = execHVaddI64 d b s := rfl
theorem exec_hVandN64 (d : Reg) (b : Reg) (s : State) : exec (.hVandN64 d b) s = execHVandN64 d b s := rfl
theorem exec_hVorN64 (d : Reg) (b : Reg) (s : State) : exec (.hVorN64 d b) s = execHVorN64 d b s := rfl
theorem exec_hVxorN64 (d : Reg) (b : Reg) (s : State) : exec (.hVxorN64 d b) s = execHVxorN64 d b s := rfl
theorem exec_hVminI32 (d : Reg) (b : Reg) (s : State) : exec (.hVminI32 d b) s = execHVminI32 d b s := rfl
theorem exec_hVmaxI32 (d : Reg) (b : Reg) (s : State) : exec (.hVmaxI32 d b) s = execHVmaxI32 d b s := rfl
theorem exec_hVfaddF32 (d : Reg) (b : Reg) (s : State) : exec (.hVfaddF32 d b) s = execHVfaddF32 d b s := rfl
theorem exec_hVfsubF32 (d : Reg) (b : Reg) (s : State) : exec (.hVfsubF32 d b) s = execHVfsubF32 d b s := rfl
theorem exec_hVfmulF32 (d : Reg) (b : Reg) (s : State) : exec (.hVfmulF32 d b) s = execHVfmulF32 d b s := rfl
theorem exec_hVfminF32 (d : Reg) (b : Reg) (s : State) : exec (.hVfminF32 d b) s = execHVfminF32 d b s := rfl
theorem exec_hVfmaxF32 (d : Reg) (b : Reg) (s : State) : exec (.hVfmaxF32 d b) s = execHVfmaxF32 d b s := rfl
theorem exec_hVfaddBf16 (d : Reg) (b : Reg) (s : State) : exec (.hVfaddBf16 d b) s = execHVfaddBf16 d b s := rfl
theorem exec_hVfmulBf16 (d : Reg) (b : Reg) (s : State) : exec (.hVfmulBf16 d b) s = execHVfmulBf16 d b s := rfl
theorem exec_hVmov (d : Reg) (b : Reg) (s : State) : exec (.hVmov d b) s = execHVmov d b s := rfl
theorem exec_hAddi (d : Reg) (i : BitVec 6) (s : State) : exec (.hAddi d i) s = execHAddi d i s := rfl
theorem exec_hMove (d : Reg) (a : Reg) (s : State) : exec (.hMove d a) s = execHMove d a s := rfl
theorem exec_hLds (d : Reg) (i : BitVec 6) (s : State) : exec (.hLds d i) s = execHLds d i s := rfl
theorem exec_hSts (b : Reg) (i : BitVec 6) (s : State) : exec (.hSts b i) s = execHSts b i s := rfl
theorem exec_hBz (a : Reg) (i : BitVec 6) (s : State) : exec (.hBz a i) s = execHBz a i s := rfl
theorem exec_hBnz (a : Reg) (i : BitVec 6) (s : State) : exec (.hBnz a i) s = execHBnz a i s := rfl
theorem exec_hJmp (i : BitVec 11) (s : State) : exec (.hJmp i) s = execHJmp i s := rfl
theorem exec_hAdd (d : Reg) (a : Reg) (s : State) : exec (.hAdd d a) s = execHAdd d a s := rfl
theorem exec_tyield (s : State) : exec (.tyield) s = execTyield s := rfl
theorem exec_fetchb (s : State) : exec (.fetchb) s = execFetchb s := rfl
theorem exec_orswait (s : State) : exec (.orswait) s = execOrswait s := rfl
theorem exec_rfence (s : State) : exec (.rfence) s = execRfence s := rfl
theorem exec_twswap (s : State) : exec (.twswap) s = execTwswap s := rfl
theorem exec_tsync (s : State) : exec (.tsync) s = execTsync s := rfl
theorem exec_ecall (s : State) : exec (.ecall) s = execEcall s := rfl
theorem exec_ebreak (s : State) : exec (.ebreak) s = execEbreak s := rfl
theorem exec_eret (s : State) : exec (.eret) s = execEret s := rfl
theorem exec_wfi (s : State) : exec (.wfi) s = execWfi s := rfl
theorem exec_rgn (s : State) : exec (.rgn) s = execRgn s := rfl
theorem exec_cstep (s : State) : exec (.cstep) s = execCstep s := rfl
theorem exec_interruptEntry (p : Nat) (s : State) : exec (.interruptEntry p) s = execInterruptEntry p s := rfl
theorem exec_sliceTimerExpiry (p : Nat) (s : State) : exec (.sliceTimerExpiry p) s = execSliceTimerExpiry p s := rfl
theorem exec_waitneRecheck (p : Nat) (s : State) : exec (.waitneRecheck p) s = execWaitneRecheck p s := rfl
theorem exec_fetchCycle (core : Nat) (s : State) : exec (.fetchCycle core) s = execFetchCycle core s := rfl
theorem exec_branchMispredict (p : Nat) (seq : Nat) (s : State) : exec (.branchMispredict p seq) s = execBranchMispredict p seq s := rfl
theorem exec_teRetire (p : Nat) (seq : Nat) (s : State) : exec (.teRetire p seq) s = execTeRetire p seq s := rfl
theorem exec_arrayArbiterDecision (cl : Nat) (s : State) : exec (.arrayArbiterDecision cl) s = execArrayArbiterDecision cl s := rfl
theorem exec_planeLoadComplete (cl : Nat) (s : State) : exec (.planeLoadComplete cl) s = execPlaneLoadComplete cl s := rfl
theorem exec_arrayOpComplete (cl : Nat) (s : State) : exec (.arrayOpComplete cl) s = execArrayOpComplete cl s := rfl
theorem exec_twldPlaneComplete (p : Nat) (s : State) : exec (.twldPlaneComplete p) s = execTwldPlaneComplete p s := rfl
theorem exec_tileRowArrival (p : Nat) (s : State) : exec (.tileRowArrival p) s = execTileRowArrival p s := rfl
theorem exec_engweightWrite (cl : Nat) (v : BitVec 64) (s : State) : exec (.engweightWrite cl v) s = execEngweightWrite cl v s := rfl
theorem exec_bardescWrite (layer : Nat) (n : Nat) (v : BitVec 64) (s : State) : exec (.bardescWrite layer n v) s = execBardescWrite layer n v s := rfl
theorem exec_sliceWrite (p : Nat) (v : BitVec 64) (s : State) : exec (.sliceWrite p v) s = execSliceWrite p v s := rfl
theorem exec_ctxWrite (p : Nat) (v : BitVec 64) (s : State) : exec (.ctxWrite p v) s = execCtxWrite p v s := rfl
theorem exec_ropeslotWrite (layer : Nat) (n : Nat) (v : BitVec 64) (s : State) : exec (.ropeslotWrite layer n v) s = execRopeslotWrite layer n v s := rfl
theorem exec_snapctlAbort (s : State) : exec (.snapctlAbort) s = execSnapctlAbort s := rfl
theorem exec_remoteRequestArrival (id : Nat) (s : State) : exec (.remoteRequestArrival id) s = execRemoteRequestArrival id s := rfl
theorem exec_retryReissue (id : Nat) (s : State) : exec (.retryReissue id) s = execRetryReissue id s := rfl
theorem exec_faultDeferralExpiry (p : Nat) (s : State) : exec (.faultDeferralExpiry p) s = execFaultDeferralExpiry p s := rfl
theorem exec_remoteStoreAtHome (id : Nat) (s : State) : exec (.remoteStoreAtHome id) s = execRemoteStoreAtHome id s := rfl
theorem exec_remoteStoreAck (id : Nat) (s : State) : exec (.remoteStoreAck id) s = execRemoteStoreAck id s := rfl
theorem exec_remoteStoreDenial (id : Nat) (s : State) : exec (.remoteStoreDenial id) s = execRemoteStoreDenial id s := rfl
theorem exec_raddAtHome (id : Nat) (s : State) : exec (.raddAtHome id) s = execRaddAtHome id s := rfl
theorem exec_combineWindowExpiry (id : Nat) (s : State) : exec (.combineWindowExpiry id) s = execCombineWindowExpiry id s := rfl
theorem exec_mergedFillReturn (id : Nat) (data : BitVec 512) (s : State) : exec (.mergedFillReturn id data) s = execMergedFillReturn id data s := rfl
theorem exec_lineFillResponse (id : Nat) (data : BitVec 512) (s : State) : exec (.lineFillResponse id data) s = execLineFillResponse id data s := rfl
theorem exec_orphanTimeout (id : Nat) (s : State) : exec (.orphanTimeout id) s = execOrphanTimeout id s := rfl
theorem exec_die9Timeout (id : Nat) (s : State) : exec (.die9Timeout id) s = execDie9Timeout id s := rfl
theorem exec_copyPieceArrivalUpdate (id : Nat) (piece : Nat) (s : State) : exec (.copyPieceArrivalUpdate id piece) s = execCopyPieceArrivalUpdate id piece s := rfl
theorem exec_copyCompletion (id : Nat) (s : State) : exec (.copyCompletion id) s = execCopyCompletion id s := rfl
theorem exec_copyFaultStop (id : Nat) (s : State) : exec (.copyFaultStop id) s = execCopyFaultStop id s := rfl
theorem exec_messageArrival (queue : Nat) (sender : Nat) (data : List (BitVec 8)) (s : State) : exec (.messageArrival queue sender data) s = execMessageArrival queue sender data s := rfl
theorem exec_messagePlacementTimeout (id : Nat) (s : State) : exec (.messagePlacementTimeout id) s = execMessagePlacementTimeout id s := rfl
theorem exec_msendCompletion (id : Nat) (status : Nat) (detail : Nat) (len : Nat) (s : State) : exec (.msendCompletion id status detail len) s = execMsendCompletion id status detail len s := rfl
theorem exec_ropeSlotTransmit (s : State) : exec (.ropeSlotTransmit) s = execRopeSlotTransmit s := rfl
theorem exec_ropeVeto (layer : Nat) (s : State) : exec (.ropeVeto layer) s = execRopeVeto layer s := rfl
theorem exec_ropeOrderedApply (s : State) : exec (.ropeOrderedApply) s = execRopeOrderedApply s := rfl
theorem exec_ropeBeatReceive (s : State) : exec (.ropeBeatReceive) s = execRopeBeatReceive s := rfl
theorem exec_slotTableTakeForce (s : State) : exec (.slotTableTakeForce) s = execSlotTableTakeForce s := rfl
theorem exec_barrierSweepToken (layer : Nat) (n : Nat) (cl : Nat) (s : State) : exec (.barrierSweepToken layer n cl) s = execBarrierSweepToken layer n cl s := rfl
theorem exec_barrierRelease (layer : Nat) (n : Nat) (cl : Nat) (s : State) : exec (.barrierRelease layer n cl) s = execBarrierRelease layer n cl s := rfl
theorem exec_routerPowerGate (layer : Nat) (cl : Nat) (s : State) : exec (.routerPowerGate layer cl) s = execRouterPowerGate layer cl s := rfl
theorem exec_routerWake (layer : Nat) (cl : Nat) (s : State) : exec (.routerWake layer cl) s = execRouterWake layer cl s := rfl
theorem exec_layerWake (layer : Nat) (s : State) : exec (.layerWake layer) s = execLayerWake layer s := rfl
theorem exec_bdHeldRequest (id : Nat) (s : State) : exec (.bdHeldRequest id) s = execBdHeldRequest id s := rfl
theorem exec_layerFence (layer : Nat) (s : State) : exec (.layerFence layer) s = execLayerFence layer s := rfl
theorem exec_uncorrectableError (struct : Nat) (layer : Nat) (index : Nat) (dirty : Bool) (s : State) : exec (.uncorrectableError struct layer index dirty) s = execUncorrectableError struct layer index dirty s := rfl
theorem exec_correctedError (struct : Nat) (layer : Nat) (index : Nat) (s : State) : exec (.correctedError struct layer index) s = execCorrectedError struct layer index s := rfl
theorem exec_fingerprintExchange (core : Nat) (s : State) : exec (.fingerprintExchange core) s = execFingerprintExchange core s := rfl
theorem exec_lifetimeHistogramWrite (s : State) : exec (.lifetimeHistogramWrite) s = execLifetimeHistogramWrite s := rfl
theorem exec_powerSample (watts : Nat) (island : Nat) (s : State) : exec (.powerSample watts island) s = execPowerSample watts island s := rfl
theorem exec_temperatureSample (island : Nat) (celsius : Nat) (s : State) : exec (.temperatureSample island celsius) s = execTemperatureSample island celsius s := rfl
theorem exec_pointChangeComplete (island : Nat) (s : State) : exec (.pointChangeComplete island) s = execPointChangeComplete island s := rfl
theorem exec_cutCloseRound (s : State) : exec (.cutCloseRound) s = execCutCloseRound s := rfl
theorem exec_podClose (s : State) : exec (.podClose) s = execPodClose s := rfl
theorem exec_controllerWrite (layer : Nat) (sector : Nat) (s : State) : exec (.controllerWrite layer sector) s = execControllerWrite layer sector s := rfl
theorem exec_drainCompletion (seq : Nat) (status : Nat) (s : State) : exec (.drainCompletion seq status) s = execDrainCompletion seq status s := rfl
theorem exec_drainSend (s : State) : exec (.drainSend) s = execDrainSend s := rfl
theorem exec_hostReqtailWrite (v : BitVec 64) (s : State) : exec (.hostReqtailWrite v) s = execHostReqtailWrite v s := rfl
theorem exec_startCold (s : State) : exec (.startCold) s = execStartCold s := rfl
theorem exec_startWarm (keep : Bool) (s : State) : exec (.startWarm keep) s = execStartWarm keep s := rfl
theorem exec_hostInboundWrite (off : Nat) (data : List (BitVec 8)) (s : State) : exec (.hostInboundWrite off data) s = execHostInboundWrite off data s := rfl
theorem exec_hostInboundRead (off : Nat) (len : Nat) (s : State) : exec (.hostInboundRead off len) s = execHostInboundRead off len s := rfl
theorem exec_hostBar0Access (off : Nat) (size : Nat) (write : Bool) (v : BitVec 64) (s : State) : exec (.hostBar0Access off size write v) s = execHostBar0Access off size write v s := rfl
theorem exec_rpcCreateContext (c : BitVec 12) (s : State) : exec (.rpcCreateContext c) s = execRpcCreateContext c s := rfl
theorem exec_rpcLoadCodeObject (frame : Nat) (s : State) : exec (.rpcLoadCodeObject frame) s = execRpcLoadCodeObject frame s := rfl
theorem exec_rpcCreateThread (p : Nat) (sp : BitVec 64) (tp : BitVec 64) (s : State) : exec (.rpcCreateThread p sp tp) s = execRpcCreateThread p sp tp s := rfl
theorem exec_rpcEndContext (s : State) : exec (.rpcEndContext) s = execRpcEndContext s := rfl
theorem exec_rpcMapWindow (s : State) : exec (.rpcMapWindow) s = execRpcMapWindow s := rfl
theorem exec_rpcArmSnapshot (s : State) : exec (.rpcArmSnapshot) s = execRpcArmSnapshot s := rfl
theorem exec_rpcManagement (s : State) : exec (.rpcManagement) s = execRpcManagement s := rfl
theorem exec_readTableEntry (t : Nat) (i : Nat) (s : State) : exec (.readTableEntry t i) s = execReadTableEntry t i s := rfl
theorem exec_writeTableEntry (t : Nat) (i : Nat) (v : BitVec 64) (s : State) : exec (.writeTableEntry t i v) s = execWriteTableEntry t i v s := rfl
theorem exec_readLifetimeCounter (h : Nat) (u : Nat) (bin : Nat) (s : State) : exec (.readLifetimeCounter h u bin) s = execReadLifetimeCounter h u bin s := rfl
theorem exec_readDropCounts (layer : Nat) (cls : Nat) (s : State) : exec (.readDropCounts layer cls) s = execReadDropCounts layer cls s := rfl
theorem exec_basecampStart (v : BitVec 64) (s : State) : exec (.basecampStart v) s = execBasecampStart v s := rfl
theorem exec_sleepLayer (layer : Nat) (s : State) : exec (.sleepLayer layer) s = execSleepLayer layer s := rfl
theorem exec_wakeLayer (layer : Nat) (s : State) : exec (.wakeLayer layer) s = execWakeLayer layer s := rfl
theorem exec_writeBdSlot (slot : Nat) (v : BitVec 64) (s : State) : exec (.writeBdSlot slot v) s = execWriteBdSlot slot v s := rfl
theorem exec_registerLayerSet (c : Nat) (mask : BitVec 8) (s : State) : exec (.registerLayerSet c mask) s = execRegisterLayerSet c mask s := rfl
theorem exec_illegalOrReservedEncoding (w : BitVec 32) (s : State) : exec (.illegalOrReservedEncoding w) s = execIllegalOrReservedEncoding w s := rfl
theorem exec_packageReset (s : State) : exec (.packageReset) s = execPackageReset s := rfl
theorem exec_hostDevstateRead (s : State) : exec (.hostDevstateRead) s = execHostDevstateRead s := rfl
theorem exec_outboundReadTimeout (id : Nat) (s : State) : exec (.outboundReadTimeout id) s = execOutboundReadTimeout id s := rfl
theorem exec_hostInboundAtomicop (s : State) : exec (.hostInboundAtomicop) s = execHostInboundAtomicop s := rfl
theorem exec_layerRestart (layer : Nat) (s : State) : exec (.layerRestart layer) s = execLayerRestart layer s := rfl

end Sys2Proof.Machine
end

