-- ==== Sys2Proof/Laws/Fields.lean ====
section
/-!
SUPPORT. The fields of a word that the encoder has put together (R36 to R42), and how the decoder reads the bytes of a word or a
halfword.
-/

namespace Sys2Proof

set_option Elab.async false

theorem toNat_cat {v w : Nat} (a : BitVec v) (b : BitVec w) : (a ++ b).toNat = a.toNat * 2 ^ w + b.toNat := by
  rw [BitVec.toNat_append, Nat.shiftLeft_eq, Nat.mul_comm, ← Nat.two_pow_add_eq_or_of_lt b.isLt]

/-! ### Parts of a concatenation -/

@[simp] theorem cat_lo {v w : Nat} (a : BitVec v) (b : BitVec w) : (a ++ b).extractLsb' 0 w = b := by
  apply BitVec.eq_of_toNat_eq
  simp only [toNat_cat, BitVec.extractLsb'_toNat, Nat.shiftRight_zero]
  rw [Nat.mul_add_mod_self_right, Nat.mod_eq_of_lt b.isLt]

@[simp] theorem cat_hi {v w : Nat} (a : BitVec v) (b : BitVec w) : (a ++ b).extractLsb' w v = a := by
  apply BitVec.eq_of_toNat_eq
  simp only [toNat_cat, BitVec.extractLsb'_toNat, Nat.shiftRight_eq_div_pow]
  rw [Nat.add_comm, Nat.add_mul_div_right _ _ (Nat.two_pow_pos w), Nat.div_eq_of_lt b.isLt, Nat.zero_add, Nat.mod_eq_of_lt a.isLt]

/-! ### Fields -/

@[simp] theorem majF_packR (op : BitVec 5) (sub : BitVec 2) (ext : BitVec 3) (b : BitVec 5) (a : BitVec 5) (d : BitVec 5) (maj : BitVec 6) : majF (packR op sub ext b a d maj) = maj := by
  apply BitVec.eq_of_toNat_eq
  simp only [majF, packR, toNat_cat, BitVec.extractLsb'_toNat, Nat.shiftRight_eq_div_pow, BitVec.toNat_ofNat]
  have := maj.isLt
  omega

@[simp] theorem dF_packR (op : BitVec 5) (sub : BitVec 2) (ext : BitVec 3) (b : BitVec 5) (a : BitVec 5) (d : BitVec 5) (maj : BitVec 6) : dF (packR op sub ext b a d maj) = d := by
  apply BitVec.eq_of_toNat_eq
  simp only [dF, packR, toNat_cat, BitVec.extractLsb'_toNat, Nat.shiftRight_eq_div_pow, BitVec.toNat_ofNat]
  have := d.isLt; have := maj.isLt
  omega

@[simp] theorem aF_packR (op : BitVec 5) (sub : BitVec 2) (ext : BitVec 3) (b : BitVec 5) (a : BitVec 5) (d : BitVec 5) (maj : BitVec 6) : aF (packR op sub ext b a d maj) = a := by
  apply BitVec.eq_of_toNat_eq
  simp only [aF, packR, toNat_cat, BitVec.extractLsb'_toNat, Nat.shiftRight_eq_div_pow, BitVec.toNat_ofNat]
  have := a.isLt; have := d.isLt; have := maj.isLt
  omega

@[simp] theorem bF_packR (op : BitVec 5) (sub : BitVec 2) (ext : BitVec 3) (b : BitVec 5) (a : BitVec 5) (d : BitVec 5) (maj : BitVec 6) : bF (packR op sub ext b a d maj) = b := by
  apply BitVec.eq_of_toNat_eq
  simp only [bF, packR, toNat_cat, BitVec.extractLsb'_toNat, Nat.shiftRight_eq_div_pow, BitVec.toNat_ofNat]
  have := b.isLt; have := a.isLt; have := d.isLt; have := maj.isLt
  omega

@[simp] theorem extF_packR (op : BitVec 5) (sub : BitVec 2) (ext : BitVec 3) (b : BitVec 5) (a : BitVec 5) (d : BitVec 5) (maj : BitVec 6) : extF (packR op sub ext b a d maj) = ext := by
  apply BitVec.eq_of_toNat_eq
  simp only [extF, packR, toNat_cat, BitVec.extractLsb'_toNat, Nat.shiftRight_eq_div_pow, BitVec.toNat_ofNat]
  have := ext.isLt; have := b.isLt; have := a.isLt; have := d.isLt; have := maj.isLt
  omega

@[simp] theorem subF_packR (op : BitVec 5) (sub : BitVec 2) (ext : BitVec 3) (b : BitVec 5) (a : BitVec 5) (d : BitVec 5) (maj : BitVec 6) : subF (packR op sub ext b a d maj) = sub := by
  apply BitVec.eq_of_toNat_eq
  simp only [subF, packR, toNat_cat, BitVec.extractLsb'_toNat, Nat.shiftRight_eq_div_pow, BitVec.toNat_ofNat]
  have := sub.isLt; have := ext.isLt; have := b.isLt; have := a.isLt; have := d.isLt; have := maj.isLt
  omega

@[simp] theorem opF_packR (op : BitVec 5) (sub : BitVec 2) (ext : BitVec 3) (b : BitVec 5) (a : BitVec 5) (d : BitVec 5) (maj : BitVec 6) : opF (packR op sub ext b a d maj) = op := by
  apply BitVec.eq_of_toNat_eq
  simp only [opF, packR, toNat_cat, BitVec.extractLsb'_toNat, Nat.shiftRight_eq_div_pow, BitVec.toNat_ofNat]
  have := op.isLt; have := sub.isLt; have := ext.isLt; have := b.isLt; have := a.isLt; have := d.isLt; have := maj.isLt
  omega

@[simp] theorem isWord_packR (op : BitVec 5) (sub : BitVec 2) (ext : BitVec 3) (b : BitVec 5) (a : BitVec 5) (d : BitVec 5) (maj : BitVec 6) : (packR op sub ext b a d maj).extractLsb' 0 1 = 1#1 := by
  apply BitVec.eq_of_toNat_eq
  simp only [packR, toNat_cat, BitVec.extractLsb'_toNat, Nat.shiftRight_eq_div_pow, BitVec.toNat_ofNat]
  omega

@[simp] theorem majF_packI (i : BitVec 12) (f3 : BitVec 3) (a : BitVec 5) (d : BitVec 5) (maj : BitVec 6) : majF (packI i f3 a d maj) = maj := by
  apply BitVec.eq_of_toNat_eq
  simp only [majF, packI, toNat_cat, BitVec.extractLsb'_toNat, Nat.shiftRight_eq_div_pow, BitVec.toNat_ofNat]
  have := maj.isLt
  omega

@[simp] theorem dF_packI (i : BitVec 12) (f3 : BitVec 3) (a : BitVec 5) (d : BitVec 5) (maj : BitVec 6) : dF (packI i f3 a d maj) = d := by
  apply BitVec.eq_of_toNat_eq
  simp only [dF, packI, toNat_cat, BitVec.extractLsb'_toNat, Nat.shiftRight_eq_div_pow, BitVec.toNat_ofNat]
  have := d.isLt; have := maj.isLt
  omega

@[simp] theorem aF_packI (i : BitVec 12) (f3 : BitVec 3) (a : BitVec 5) (d : BitVec 5) (maj : BitVec 6) : aF (packI i f3 a d maj) = a := by
  apply BitVec.eq_of_toNat_eq
  simp only [aF, packI, toNat_cat, BitVec.extractLsb'_toNat, Nat.shiftRight_eq_div_pow, BitVec.toNat_ofNat]
  have := a.isLt; have := d.isLt; have := maj.isLt
  omega

@[simp] theorem f3I_packI (i : BitVec 12) (f3 : BitVec 3) (a : BitVec 5) (d : BitVec 5) (maj : BitVec 6) : f3I (packI i f3 a d maj) = f3 := by
  apply BitVec.eq_of_toNat_eq
  simp only [f3I, packI, toNat_cat, BitVec.extractLsb'_toNat, Nat.shiftRight_eq_div_pow, BitVec.toNat_ofNat]
  have := f3.isLt; have := a.isLt; have := d.isLt; have := maj.isLt
  omega

@[simp] theorem immI_packI (i : BitVec 12) (f3 : BitVec 3) (a : BitVec 5) (d : BitVec 5) (maj : BitVec 6) : immI (packI i f3 a d maj) = i := by
  apply BitVec.eq_of_toNat_eq
  simp only [immI, packI, toNat_cat, BitVec.extractLsb'_toNat, Nat.shiftRight_eq_div_pow, BitVec.toNat_ofNat]
  have := i.isLt; have := f3.isLt; have := a.isLt; have := d.isLt; have := maj.isLt
  omega

@[simp] theorem isWord_packI (i : BitVec 12) (f3 : BitVec 3) (a : BitVec 5) (d : BitVec 5) (maj : BitVec 6) : (packI i f3 a d maj).extractLsb' 0 1 = 1#1 := by
  apply BitVec.eq_of_toNat_eq
  simp only [packI, toNat_cat, BitVec.extractLsb'_toNat, Nat.shiftRight_eq_div_pow, BitVec.toNat_ofNat]
  omega

@[simp] theorem majF_packU (i : BitVec 20) (d : BitVec 5) (maj : BitVec 6) : majF (packU i d maj) = maj := by
  apply BitVec.eq_of_toNat_eq
  simp only [majF, packU, toNat_cat, BitVec.extractLsb'_toNat, Nat.shiftRight_eq_div_pow, BitVec.toNat_ofNat]
  have := maj.isLt
  omega

@[simp] theorem dF_packU (i : BitVec 20) (d : BitVec 5) (maj : BitVec 6) : dF (packU i d maj) = d := by
  apply BitVec.eq_of_toNat_eq
  simp only [dF, packU, toNat_cat, BitVec.extractLsb'_toNat, Nat.shiftRight_eq_div_pow, BitVec.toNat_ofNat]
  have := d.isLt; have := maj.isLt
  omega

@[simp] theorem immU_packU (i : BitVec 20) (d : BitVec 5) (maj : BitVec 6) : immU (packU i d maj) = i := by
  apply BitVec.eq_of_toNat_eq
  simp only [immU, packU, toNat_cat, BitVec.extractLsb'_toNat, Nat.shiftRight_eq_div_pow, BitVec.toNat_ofNat]
  have := i.isLt; have := d.isLt; have := maj.isLt
  omega

@[simp] theorem isWord_packU (i : BitVec 20) (d : BitVec 5) (maj : BitVec 6) : (packU i d maj).extractLsb' 0 1 = 1#1 := by
  apply BitVec.eq_of_toNat_eq
  simp only [packU, toNat_cat, BitVec.extractLsb'_toNat, Nat.shiftRight_eq_div_pow, BitVec.toNat_ofNat]
  omega

@[simp] theorem majF_packT (mod : BitVec 3) (f3 : BitVec 3) (fmt : BitVec 4) (b : BitVec 5) (a : BitVec 5) (d : BitVec 5) (maj : BitVec 6) : majF (packT mod f3 fmt b a d maj) = maj := by
  apply BitVec.eq_of_toNat_eq
  simp only [majF, packT, toNat_cat, BitVec.extractLsb'_toNat, Nat.shiftRight_eq_div_pow, BitVec.toNat_ofNat]
  have := maj.isLt
  omega

@[simp] theorem dF_packT (mod : BitVec 3) (f3 : BitVec 3) (fmt : BitVec 4) (b : BitVec 5) (a : BitVec 5) (d : BitVec 5) (maj : BitVec 6) : dF (packT mod f3 fmt b a d maj) = d := by
  apply BitVec.eq_of_toNat_eq
  simp only [dF, packT, toNat_cat, BitVec.extractLsb'_toNat, Nat.shiftRight_eq_div_pow, BitVec.toNat_ofNat]
  have := d.isLt; have := maj.isLt
  omega

@[simp] theorem aF_packT (mod : BitVec 3) (f3 : BitVec 3) (fmt : BitVec 4) (b : BitVec 5) (a : BitVec 5) (d : BitVec 5) (maj : BitVec 6) : aF (packT mod f3 fmt b a d maj) = a := by
  apply BitVec.eq_of_toNat_eq
  simp only [aF, packT, toNat_cat, BitVec.extractLsb'_toNat, Nat.shiftRight_eq_div_pow, BitVec.toNat_ofNat]
  have := a.isLt; have := d.isLt; have := maj.isLt
  omega

@[simp] theorem bF_packT (mod : BitVec 3) (f3 : BitVec 3) (fmt : BitVec 4) (b : BitVec 5) (a : BitVec 5) (d : BitVec 5) (maj : BitVec 6) : bF (packT mod f3 fmt b a d maj) = b := by
  apply BitVec.eq_of_toNat_eq
  simp only [bF, packT, toNat_cat, BitVec.extractLsb'_toNat, Nat.shiftRight_eq_div_pow, BitVec.toNat_ofNat]
  have := b.isLt; have := a.isLt; have := d.isLt; have := maj.isLt
  omega

@[simp] theorem modT_packT (mod : BitVec 3) (f3 : BitVec 3) (fmt : BitVec 4) (b : BitVec 5) (a : BitVec 5) (d : BitVec 5) (maj : BitVec 6) : modT (packT mod f3 fmt b a d maj) = mod := by
  apply BitVec.eq_of_toNat_eq
  simp only [modT, packT, toNat_cat, BitVec.extractLsb'_toNat, Nat.shiftRight_eq_div_pow, BitVec.toNat_ofNat]
  have := mod.isLt; have := f3.isLt; have := fmt.isLt; have := b.isLt; have := a.isLt; have := d.isLt; have := maj.isLt
  omega

@[simp] theorem f3T_packT (mod : BitVec 3) (f3 : BitVec 3) (fmt : BitVec 4) (b : BitVec 5) (a : BitVec 5) (d : BitVec 5) (maj : BitVec 6) : f3T (packT mod f3 fmt b a d maj) = f3 := by
  apply BitVec.eq_of_toNat_eq
  simp only [f3T, packT, toNat_cat, BitVec.extractLsb'_toNat, Nat.shiftRight_eq_div_pow, BitVec.toNat_ofNat]
  have := f3.isLt; have := fmt.isLt; have := b.isLt; have := a.isLt; have := d.isLt; have := maj.isLt
  omega

@[simp] theorem fmtT_packT (mod : BitVec 3) (f3 : BitVec 3) (fmt : BitVec 4) (b : BitVec 5) (a : BitVec 5) (d : BitVec 5) (maj : BitVec 6) : fmtT (packT mod f3 fmt b a d maj) = fmt := by
  apply BitVec.eq_of_toNat_eq
  simp only [fmtT, packT, toNat_cat, BitVec.extractLsb'_toNat, Nat.shiftRight_eq_div_pow, BitVec.toNat_ofNat]
  have := fmt.isLt; have := b.isLt; have := a.isLt; have := d.isLt; have := maj.isLt
  omega

@[simp] theorem isWord_packT (mod : BitVec 3) (f3 : BitVec 3) (fmt : BitVec 4) (b : BitVec 5) (a : BitVec 5) (d : BitVec 5) (maj : BitVec 6) : (packT mod f3 fmt b a d maj).extractLsb' 0 1 = 1#1 := by
  apply BitVec.eq_of_toNat_eq
  simp only [packT, toNat_cat, BitVec.extractLsb'_toNat, Nat.shiftRight_eq_div_pow, BitVec.toNat_ofNat]
  omega

@[simp] theorem majF_packQ (mod : BitVec 5) (c : BitVec 5) (b : BitVec 5) (a : BitVec 5) (d : BitVec 5) (maj : BitVec 6) : majF (packQ mod c b a d maj) = maj := by
  apply BitVec.eq_of_toNat_eq
  simp only [majF, packQ, toNat_cat, BitVec.extractLsb'_toNat, Nat.shiftRight_eq_div_pow, BitVec.toNat_ofNat]
  have := maj.isLt
  omega

@[simp] theorem dF_packQ (mod : BitVec 5) (c : BitVec 5) (b : BitVec 5) (a : BitVec 5) (d : BitVec 5) (maj : BitVec 6) : dF (packQ mod c b a d maj) = d := by
  apply BitVec.eq_of_toNat_eq
  simp only [dF, packQ, toNat_cat, BitVec.extractLsb'_toNat, Nat.shiftRight_eq_div_pow, BitVec.toNat_ofNat]
  have := d.isLt; have := maj.isLt
  omega

@[simp] theorem aF_packQ (mod : BitVec 5) (c : BitVec 5) (b : BitVec 5) (a : BitVec 5) (d : BitVec 5) (maj : BitVec 6) : aF (packQ mod c b a d maj) = a := by
  apply BitVec.eq_of_toNat_eq
  simp only [aF, packQ, toNat_cat, BitVec.extractLsb'_toNat, Nat.shiftRight_eq_div_pow, BitVec.toNat_ofNat]
  have := a.isLt; have := d.isLt; have := maj.isLt
  omega

@[simp] theorem bF_packQ (mod : BitVec 5) (c : BitVec 5) (b : BitVec 5) (a : BitVec 5) (d : BitVec 5) (maj : BitVec 6) : bF (packQ mod c b a d maj) = b := by
  apply BitVec.eq_of_toNat_eq
  simp only [bF, packQ, toNat_cat, BitVec.extractLsb'_toNat, Nat.shiftRight_eq_div_pow, BitVec.toNat_ofNat]
  have := b.isLt; have := a.isLt; have := d.isLt; have := maj.isLt
  omega

@[simp] theorem cF_packQ (mod : BitVec 5) (c : BitVec 5) (b : BitVec 5) (a : BitVec 5) (d : BitVec 5) (maj : BitVec 6) : cF (packQ mod c b a d maj) = c := by
  apply BitVec.eq_of_toNat_eq
  simp only [cF, packQ, toNat_cat, BitVec.extractLsb'_toNat, Nat.shiftRight_eq_div_pow, BitVec.toNat_ofNat]
  have := c.isLt; have := b.isLt; have := a.isLt; have := d.isLt; have := maj.isLt
  omega

@[simp] theorem opF_packQ (mod : BitVec 5) (c : BitVec 5) (b : BitVec 5) (a : BitVec 5) (d : BitVec 5) (maj : BitVec 6) : opF (packQ mod c b a d maj) = mod := by
  apply BitVec.eq_of_toNat_eq
  simp only [opF, packQ, toNat_cat, BitVec.extractLsb'_toNat, Nat.shiftRight_eq_div_pow, BitVec.toNat_ofNat]
  have := mod.isLt; have := c.isLt; have := b.isLt; have := a.isLt; have := d.isLt; have := maj.isLt
  omega

@[simp] theorem isWord_packQ (mod : BitVec 5) (c : BitVec 5) (b : BitVec 5) (a : BitVec 5) (d : BitVec 5) (maj : BitVec 6) : (packQ mod c b a d maj).extractLsb' 0 1 = 1#1 := by
  apply BitVec.eq_of_toNat_eq
  simp only [packQ, toNat_cat, BitVec.extractLsb'_toNat, Nat.shiftRight_eq_div_pow, BitVec.toNat_ofNat]
  omega

theorem split_maj (h : BitVec 7) (f3 : BitVec 3) (b a l : BitVec 5) (maj : BitVec 6) : (h ++ f3 ++ b ++ a ++ l ++ maj ++ 1#1).extractLsb' 1 6 = maj := by
  apply BitVec.eq_of_toNat_eq
  simp only [toNat_cat, BitVec.extractLsb'_toNat, Nat.shiftRight_eq_div_pow, BitVec.toNat_ofNat]
  have := h.isLt; have := f3.isLt; have := b.isLt; have := a.isLt; have := l.isLt; have := maj.isLt
  omega

theorem split_a (h : BitVec 7) (f3 : BitVec 3) (b a l : BitVec 5) (maj : BitVec 6) : (h ++ f3 ++ b ++ a ++ l ++ maj ++ 1#1).extractLsb' 12 5 = a := by
  apply BitVec.eq_of_toNat_eq
  simp only [toNat_cat, BitVec.extractLsb'_toNat, Nat.shiftRight_eq_div_pow, BitVec.toNat_ofNat]
  have := h.isLt; have := f3.isLt; have := b.isLt; have := a.isLt; have := l.isLt; have := maj.isLt
  omega

theorem split_b (h : BitVec 7) (f3 : BitVec 3) (b a l : BitVec 5) (maj : BitVec 6) : (h ++ f3 ++ b ++ a ++ l ++ maj ++ 1#1).extractLsb' 17 5 = b := by
  apply BitVec.eq_of_toNat_eq
  simp only [toNat_cat, BitVec.extractLsb'_toNat, Nat.shiftRight_eq_div_pow, BitVec.toNat_ofNat]
  have := h.isLt; have := f3.isLt; have := b.isLt; have := a.isLt; have := l.isLt; have := maj.isLt
  omega

theorem split_ext (h : BitVec 7) (f3 : BitVec 3) (b a l : BitVec 5) (maj : BitVec 6) : (h ++ f3 ++ b ++ a ++ l ++ maj ++ 1#1).extractLsb' 22 3 = f3 := by
  apply BitVec.eq_of_toNat_eq
  simp only [toNat_cat, BitVec.extractLsb'_toNat, Nat.shiftRight_eq_div_pow, BitVec.toNat_ofNat]
  have := h.isLt; have := f3.isLt; have := b.isLt; have := a.isLt; have := l.isLt; have := maj.isLt
  omega

theorem split_hi (h : BitVec 7) (f3 : BitVec 3) (b a l : BitVec 5) (maj : BitVec 6) : (h ++ f3 ++ b ++ a ++ l ++ maj ++ 1#1).extractLsb' 25 7 = h := by
  apply BitVec.eq_of_toNat_eq
  simp only [toNat_cat, BitVec.extractLsb'_toNat, Nat.shiftRight_eq_div_pow, BitVec.toNat_ofNat]
  have := h.isLt; have := f3.isLt; have := b.isLt; have := a.isLt; have := l.isLt; have := maj.isLt
  omega

theorem split_low (h : BitVec 7) (f3 : BitVec 3) (b a l : BitVec 5) (maj : BitVec 6) : (h ++ f3 ++ b ++ a ++ l ++ maj ++ 1#1).extractLsb' 7 5 = l := by
  apply BitVec.eq_of_toNat_eq
  simp only [toNat_cat, BitVec.extractLsb'_toNat, Nat.shiftRight_eq_div_pow, BitVec.toNat_ofNat]
  have := h.isLt; have := f3.isLt; have := b.isLt; have := a.isLt; have := l.isLt; have := maj.isLt
  omega

theorem split_word (h : BitVec 7) (f3 : BitVec 3) (b a l : BitVec 5) (maj : BitVec 6) : (h ++ f3 ++ b ++ a ++ l ++ maj ++ 1#1).extractLsb' 0 1 = 1#1 := by
  apply BitVec.eq_of_toNat_eq
  simp only [toNat_cat, BitVec.extractLsb'_toNat, Nat.shiftRight_eq_div_pow, BitVec.toNat_ofNat]
  have := h.isLt; have := f3.isLt; have := b.isLt; have := a.isLt; have := l.isLt; have := maj.isLt
  omega

theorem cat_split (i : BitVec 12) : i.extractLsb' 5 7 ++ i.extractLsb' 0 5 = i := by
  apply BitVec.eq_of_toNat_eq
  simp only [toNat_cat, BitVec.extractLsb'_toNat, Nat.shiftRight_eq_div_pow, Nat.pow_zero, Nat.div_one]
  have := i.isLt
  omega

@[simp] theorem majF_packS (i : BitVec 12) (f3 : BitVec 3) (b a : BitVec 5) (maj : BitVec 6) : majF (packS i f3 b a maj) = maj := split_maj ..

@[simp] theorem aF_packS (i : BitVec 12) (f3 : BitVec 3) (b a : BitVec 5) (maj : BitVec 6) : aF (packS i f3 b a maj) = a := split_a ..

@[simp] theorem bF_packS (i : BitVec 12) (f3 : BitVec 3) (b a : BitVec 5) (maj : BitVec 6) : bF (packS i f3 b a maj) = b := split_b ..

@[simp] theorem extF_packS (i : BitVec 12) (f3 : BitVec 3) (b a : BitVec 5) (maj : BitVec 6) : extF (packS i f3 b a maj) = f3 := split_ext ..

@[simp] theorem immS_packS (i : BitVec 12) (f3 : BitVec 3) (b a : BitVec 5) (maj : BitVec 6) : immS (packS i f3 b a maj) = i := by
  simp only [immS, packS, split_hi, split_low, cat_split]

@[simp] theorem isWord_packS (i : BitVec 12) (f3 : BitVec 3) (b a : BitVec 5) (maj : BitVec 6) : (packS i f3 b a maj).extractLsb' 0 1 = 1#1 := split_word ..

end Sys2Proof
end

