-- ==== Sys2Proof/Laws/PerInstr.lean ====
section
/-!
SUPPORT. The round trip of the encoder and the decoder, constructor by constructor (R34 to R61).
-/

namespace Sys2Proof

set_option Elab.async false

/-! ### Parts of small fields -/

theorem cat_mid {u v w : Nat} (a : BitVec u) (b : BitVec v) (c : BitVec w) : (a ++ b ++ c).extractLsb' w v = b := by
  apply BitVec.eq_of_toNat_eq
  simp only [toNat_cat, BitVec.extractLsb'_toNat, Nat.shiftRight_eq_div_pow]
  rw [Nat.add_comm, Nat.add_mul_div_right _ _ (Nat.two_pow_pos w), Nat.div_eq_of_lt c.isLt, Nat.zero_add,
    Nat.mul_add_mod_self_right, Nat.mod_eq_of_lt b.isLt]

@[simp] theorem cat_1_1_lo (a : BitVec 1) (b : BitVec 1) : BitVec.extractLsb' (n := 2) 0 1 (a ++ b) = b := cat_lo a b
@[simp] theorem cat_1_1_hi (a : BitVec 1) (b : BitVec 1) : BitVec.extractLsb' (n := 2) 1 1 (a ++ b) = a := cat_hi a b
@[simp] theorem cat_1_2_lo (a : BitVec 1) (b : BitVec 2) : BitVec.extractLsb' (n := 3) 0 2 (a ++ b) = b := cat_lo a b
@[simp] theorem cat_1_2_hi (a : BitVec 1) (b : BitVec 2) : BitVec.extractLsb' (n := 3) 2 1 (a ++ b) = a := cat_hi a b
@[simp] theorem cat_2_1_lo (a : BitVec 2) (b : BitVec 1) : BitVec.extractLsb' (n := 3) 0 1 (a ++ b) = b := cat_lo a b
@[simp] theorem cat_2_1_hi (a : BitVec 2) (b : BitVec 1) : BitVec.extractLsb' (n := 3) 1 2 (a ++ b) = a := cat_hi a b
@[simp] theorem cat_3_1_lo (a : BitVec 3) (b : BitVec 1) : BitVec.extractLsb' (n := 4) 0 1 (a ++ b) = b := cat_lo a b
@[simp] theorem cat_3_1_hi (a : BitVec 3) (b : BitVec 1) : BitVec.extractLsb' (n := 4) 1 3 (a ++ b) = a := cat_hi a b
@[simp] theorem cat_1_4_lo (a : BitVec 1) (b : BitVec 4) : BitVec.extractLsb' (n := 5) 0 4 (a ++ b) = b := cat_lo a b
@[simp] theorem cat_1_4_hi (a : BitVec 1) (b : BitVec 4) : BitVec.extractLsb' (n := 5) 4 1 (a ++ b) = a := cat_hi a b
@[simp] theorem cat_2_3_lo (a : BitVec 2) (b : BitVec 3) : BitVec.extractLsb' (n := 5) 0 3 (a ++ b) = b := cat_lo a b
@[simp] theorem cat_2_3_hi (a : BitVec 2) (b : BitVec 3) : BitVec.extractLsb' (n := 5) 3 2 (a ++ b) = a := cat_hi a b
@[simp] theorem cat_3_2_lo (a : BitVec 3) (b : BitVec 2) : BitVec.extractLsb' (n := 5) 0 2 (a ++ b) = b := cat_lo a b
@[simp] theorem cat_3_2_hi (a : BitVec 3) (b : BitVec 2) : BitVec.extractLsb' (n := 5) 2 3 (a ++ b) = a := cat_hi a b
@[simp] theorem cat_4_1_lo (a : BitVec 4) (b : BitVec 1) : BitVec.extractLsb' (n := 5) 0 1 (a ++ b) = b := cat_lo a b
@[simp] theorem cat_4_1_hi (a : BitVec 4) (b : BitVec 1) : BitVec.extractLsb' (n := 5) 1 4 (a ++ b) = a := cat_hi a b
@[simp] theorem cat_1_5_lo (a : BitVec 1) (b : BitVec 5) : BitVec.extractLsb' (n := 6) 0 5 (a ++ b) = b := cat_lo a b
@[simp] theorem cat_1_5_hi (a : BitVec 1) (b : BitVec 5) : BitVec.extractLsb' (n := 6) 5 1 (a ++ b) = a := cat_hi a b
@[simp] theorem cat_5_5_lo (a : BitVec 5) (b : BitVec 5) : BitVec.extractLsb' (n := 10) 0 5 (a ++ b) = b := cat_lo a b
@[simp] theorem cat_5_5_hi (a : BitVec 5) (b : BitVec 5) : BitVec.extractLsb' (n := 10) 5 5 (a ++ b) = a := cat_hi a b
@[simp] theorem cat_5_7_lo (a : BitVec 5) (b : BitVec 7) : BitVec.extractLsb' (n := 12) 0 7 (a ++ b) = b := cat_lo a b
@[simp] theorem cat_5_7_hi (a : BitVec 5) (b : BitVec 7) : BitVec.extractLsb' (n := 12) 7 5 (a ++ b) = a := cat_hi a b
@[simp] theorem cat_6_6_lo (a : BitVec 6) (b : BitVec 6) : BitVec.extractLsb' (n := 12) 0 6 (a ++ b) = b := cat_lo a b
@[simp] theorem cat_6_6_hi (a : BitVec 6) (b : BitVec 6) : BitVec.extractLsb' (n := 12) 6 6 (a ++ b) = a := cat_hi a b
@[simp] theorem cat_7_5_lo (a : BitVec 7) (b : BitVec 5) : BitVec.extractLsb' (n := 12) 0 5 (a ++ b) = b := cat_lo a b
@[simp] theorem cat_7_5_hi (a : BitVec 7) (b : BitVec 5) : BitVec.extractLsb' (n := 12) 5 7 (a ++ b) = a := cat_hi a b
@[simp] theorem cat_10_2_lo (a : BitVec 10) (b : BitVec 2) : BitVec.extractLsb' (n := 12) 0 2 (a ++ b) = b := cat_lo a b
@[simp] theorem cat_10_2_hi (a : BitVec 10) (b : BitVec 2) : BitVec.extractLsb' (n := 12) 2 10 (a ++ b) = a := cat_hi a b
@[simp] theorem cat_1_1_1_lo (a : BitVec 1) (b : BitVec 1) (c : BitVec 1) : BitVec.extractLsb' (n := 3) 0 1 (a ++ b ++ c) = c := cat_lo (a ++ b) c
@[simp] theorem cat_1_1_1_mid (a : BitVec 1) (b : BitVec 1) (c : BitVec 1) : BitVec.extractLsb' (n := 3) 1 1 (a ++ b ++ c) = b := cat_mid a b c
@[simp] theorem cat_1_1_1_hi (a : BitVec 1) (b : BitVec 1) (c : BitVec 1) : BitVec.extractLsb' (n := 3) 2 1 (a ++ b ++ c) = a := by
  apply BitVec.eq_of_toNat_eq
  simp only [toNat_cat, BitVec.extractLsb'_toNat, Nat.shiftRight_eq_div_pow]
  have := a.isLt; have := b.isLt; have := c.isLt
  omega
@[simp] theorem cat_2_3_7_lo (a : BitVec 2) (b : BitVec 3) (c : BitVec 7) : BitVec.extractLsb' (n := 12) 0 7 (a ++ b ++ c) = c := cat_lo (a ++ b) c
@[simp] theorem cat_2_3_7_mid (a : BitVec 2) (b : BitVec 3) (c : BitVec 7) : BitVec.extractLsb' (n := 12) 7 3 (a ++ b ++ c) = b := cat_mid a b c
@[simp] theorem cat_2_3_7_hi (a : BitVec 2) (b : BitVec 3) (c : BitVec 7) : BitVec.extractLsb' (n := 12) 10 2 (a ++ b ++ c) = a := by
  apply BitVec.eq_of_toNat_eq
  simp only [toNat_cat, BitVec.extractLsb'_toNat, Nat.shiftRight_eq_div_pow]
  have := a.isLt; have := b.isLt; have := c.isLt
  omega
@[simp] theorem cat_2_2_1_lo (a : BitVec 2) (b : BitVec 2) (c : BitVec 1) : BitVec.extractLsb' (n := 5) 0 1 (a ++ b ++ c) = c := cat_lo (a ++ b) c
@[simp] theorem cat_2_2_1_mid (a : BitVec 2) (b : BitVec 2) (c : BitVec 1) : BitVec.extractLsb' (n := 5) 1 2 (a ++ b ++ c) = b := cat_mid a b c
@[simp] theorem cat_2_2_1_hi (a : BitVec 2) (b : BitVec 2) (c : BitVec 1) : BitVec.extractLsb' (n := 5) 3 2 (a ++ b ++ c) = a := by
  apply BitVec.eq_of_toNat_eq
  simp only [toNat_cat, BitVec.extractLsb'_toNat, Nat.shiftRight_eq_div_pow]
  have := a.isLt; have := b.isLt; have := c.isLt
  omega
@[simp] theorem cat_3_1_1_lo (a : BitVec 3) (b : BitVec 1) (c : BitVec 1) : BitVec.extractLsb' (n := 5) 0 1 (a ++ b ++ c) = c := cat_lo (a ++ b) c
@[simp] theorem cat_3_1_1_mid (a : BitVec 3) (b : BitVec 1) (c : BitVec 1) : BitVec.extractLsb' (n := 5) 1 1 (a ++ b ++ c) = b := cat_mid a b c
@[simp] theorem cat_3_1_1_hi (a : BitVec 3) (b : BitVec 1) (c : BitVec 1) : BitVec.extractLsb' (n := 5) 2 3 (a ++ b ++ c) = a := by
  apply BitVec.eq_of_toNat_eq
  simp only [toNat_cat, BitVec.extractLsb'_toNat, Nat.shiftRight_eq_div_pow]
  have := a.isLt; have := b.isLt; have := c.isLt
  omega
end Sys2Proof

namespace Sys2Proof.Laws.RoundTrip

set_option Elab.async false

/-- A well-formed instruction that has an encoding is read back from it, and the bytes after it are left (R34 to R61). -/
def Statement (i : Instr) : Prop :=
  i.wf = true → encode i ≠ .event → ∀ rest, decode ((encode i).bytes ++ rest) = .ok (i, rest)

theorem word_bytes (w : BitVec 32) :
    w.extractLsb' 24 8 ++ w.extractLsb' 16 8 ++ w.extractLsb' 8 8 ++ w.extractLsb' 0 8 = w := by
  apply BitVec.eq_of_toNat_eq
  simp only [toNat_cat, BitVec.extractLsb'_toNat, Nat.shiftRight_eq_div_pow, Nat.pow_zero, Nat.div_one]
  have := w.isLt
  omega

theorem word_low (w : BitVec 32) : (w.extractLsb' 8 8 ++ w.extractLsb' 0 8).extractLsb' 0 1 = w.extractLsb' 0 1 := by
  apply BitVec.eq_of_toNat_eq
  simp only [toNat_cat, BitVec.extractLsb'_toNat, Nat.shiftRight_eq_div_pow, Nat.pow_zero, Nat.div_one]
  omega

theorem half_bytes (h : BitVec 16) : h.extractLsb' 8 8 ++ h.extractLsb' 0 8 = h := by
  apply BitVec.eq_of_toNat_eq
  simp only [toNat_cat, BitVec.extractLsb'_toNat, Nat.shiftRight_eq_div_pow, Nat.pow_zero, Nat.div_one]
  have := h.isLt
  omega

theorem decode_word (w : BitVec 32) (i : Instr) (rest : List Byte) (hl : w.extractLsb' 0 1 = 1#1) (hd : decodeWord w = some i) :
    decode (wordBytes w ++ rest) = .ok (i, rest) := by
  show decode (w.extractLsb' 0 8 :: w.extractLsb' 8 8 :: w.extractLsb' 16 8 :: w.extractLsb' 24 8 :: rest) = _
  have e : isWord (w.extractLsb' 8 8 ++ w.extractLsb' 0 8) = true := by
    unfold isWord
    rw [word_low, hl]
    rfl
  simp only [decode, e, if_true, word_bytes, hd]

theorem decode_half (h : BitVec 16) (i : Instr) (rest : List Byte) (hl : h.extractLsb' 0 1 = 0#1) (hd : decodeHalf h = some i) :
    decode (halfBytes h ++ rest) = .ok (i, rest) := by
  show decode (h.extractLsb' 0 8 :: h.extractLsb' 8 8 :: rest) = _
  have e : isWord h = false := by
    unfold isWord
    rw [hl]
    rfl
  simp only [decode, half_bytes, e, hd]
  rfl

theorem of_word {i : Instr} (w : BitVec 32) (he : encode i = .word w) (hl : w.extractLsb' 0 1 = 1#1)
    (hd : decodeMajor w = some i) : Statement i := by
  intro hw _ rest
  rw [he]
  exact decode_word w i rest hl (by simp only [decodeWord, hd, hw, if_true])

theorem of_half {i : Instr} (h : BitVec 16) (he : encode i = .half h) (hl : h.extractLsb' 0 1 = 0#1)
    (hd : i.wf = true → decodeHalf h = some i) : Statement i := by
  intro hw _ rest
  rw [he]
  exact decode_half h i rest hl (hd hw)

theorem of_word_wf {i : Instr} (w : BitVec 32) (he : encode i = .word w) (hl : w.extractLsb' 0 1 = 1#1)
    (hd : i.wf = true → decodeMajor w = some i) : Statement i := fun hw h => of_word w he hl (hd hw) hw h

theorem bit_cases : ∀ l : BitVec 1, l = 0#1 ∨ l = 1#1 := by decide

theorem cat_parts (n : BitVec 10) : n.extractLsb' 5 5 ++ n.extractLsb' 0 5 = n := by
  apply BitVec.eq_of_toNat_eq
  simp only [toNat_cat, BitVec.extractLsb'_toNat, Nat.shiftRight_eq_div_pow, Nat.pow_zero, Nat.div_one]
  have := n.isLt
  omega

theorem hv_fields (b d : BitVec 5) (op : BitVec 4) : (packHV b d op).extractLsb' 0 1 = 0#1 ∧ (packHV b d op).extractLsb' 1 1 = 0#1 ∧
    (packHV b d op).extractLsb' 11 5 = b ∧ (packHV b d op).extractLsb' 6 5 = d ∧ (packHV b d op).extractLsb' 2 4 = op ∧
    (packHV b d op).toNat = b.toNat * 2048 + d.toNat * 64 + op.toNat * 4 := by
  have := b.isLt; have := d.isLt; have := op.isLt
  refine ⟨?_, ?_, ?_, ?_, ?_, ?_⟩
  all_goals
    first
    | (apply BitVec.eq_of_toNat_eq; simp only [packHV, toNat_cat, BitVec.extractLsb'_toNat, Nat.shiftRight_eq_div_pow, BitVec.toNat_ofNat]; omega)
    | (simp only [packHV, toNat_cat, BitVec.toNat_ofNat]; omega)

theorem of_hv {i : Instr} (b d : BitVec 5) (op : BitVec 4) (he : encode i = .half (packHV b d op))
    (h0 : i.wf = true → b.toNat * 2048 + d.toNat * 64 + op.toNat * 4 ≠ 0) (hd : decHV (packHV b d op) = some i) : Statement i := by
  obtain ⟨h1, h2, -, -, -, h6⟩ := hv_fields b d op
  refine of_half _ he h1 fun hw => ?_
  have hz : packHV b d op ≠ 0#16 := fun e => h0 hw (by rw [← h6, e]; rfl)
  simp only [decodeHalf, beq_iff_eq, hz, h2, hd, if_true, if_false]

theorem hs_fields (hi : BitVec 6) (lo : BitVec 5) (op : BitVec 3) : (packHS hi lo op).extractLsb' 0 1 = 0#1 ∧
    (packHS hi lo op).extractLsb' 1 1 = 1#1 ∧ (packHS hi lo op).extractLsb' 10 6 = hi ∧ (packHS hi lo op).extractLsb' 5 5 = lo ∧
    (packHS hi lo op).extractLsb' 2 3 = op := by
  have := hi.isLt; have := lo.isLt; have := op.isLt
  refine ⟨?_, ?_, ?_, ?_, ?_⟩
  all_goals
    apply BitVec.eq_of_toNat_eq
    simp only [packHS, toNat_cat, BitVec.extractLsb'_toNat, Nat.shiftRight_eq_div_pow, BitVec.toNat_ofNat]
    omega

theorem hj_fields (i : BitVec 11) (op : BitVec 3) : (packHJ i op).extractLsb' 0 1 = 0#1 ∧ (packHJ i op).extractLsb' 1 1 = 1#1 ∧
    (packHJ i op).extractLsb' 5 11 = i ∧ (packHJ i op).extractLsb' 2 3 = op := by
  have := i.isLt; have := op.isLt
  refine ⟨?_, ?_, ?_, ?_⟩
  all_goals
    apply BitVec.eq_of_toNat_eq
    simp only [packHJ, toNat_cat, BitVec.extractLsb'_toNat, Nat.shiftRight_eq_div_pow, BitVec.toNat_ofNat]
    omega

theorem of_hs {i : Instr} (h : BitVec 16) (he : encode i = .half h) (h0 : h.extractLsb' 0 1 = 0#1) (h1 : h.extractLsb' 1 1 = 1#1)
    (hd : decHS h = some i) : Statement i := by
  refine of_half _ he h0 fun _ => ?_
  have hz : h ≠ 0#16 := fun e => by subst e; exact absurd h1 (by decide)
  have hn : ¬ (1#1 = 0#1) := by decide
  simp only [decodeHalf, beq_iff_eq, hz, h1, hd, hn, if_false]

theorem of_event {i : Instr} (he : encode i = .event) : Statement i := fun _ h => absurd he h


theorem add (d : Reg) (a : Reg) (b : Reg) : Statement (.add d a b) := of_word _ rfl (by simp) (by simp [decodeMajor, dec00])
theorem sub (d : Reg) (a : Reg) (b : Reg) : Statement (.sub d a b) := of_word _ rfl (by simp) (by simp [decodeMajor, dec00])
theorem and (d : Reg) (a : Reg) (b : Reg) : Statement (.and d a b) := of_word _ rfl (by simp) (by simp [decodeMajor, dec00])
theorem or (d : Reg) (a : Reg) (b : Reg) : Statement (.or d a b) := of_word _ rfl (by simp) (by simp [decodeMajor, dec00])
theorem xor (d : Reg) (a : Reg) (b : Reg) : Statement (.xor d a b) := of_word _ rfl (by simp) (by simp [decodeMajor, dec00])
theorem sll (d : Reg) (a : Reg) (b : Reg) : Statement (.sll d a b) := of_word _ rfl (by simp) (by simp [decodeMajor, dec00])
theorem srl (d : Reg) (a : Reg) (b : Reg) : Statement (.srl d a b) := of_word _ rfl (by simp) (by simp [decodeMajor, dec00])
theorem sra (d : Reg) (a : Reg) (b : Reg) : Statement (.sra d a b) := of_word _ rfl (by simp) (by simp [decodeMajor, dec00])
theorem rol (d : Reg) (a : Reg) (b : Reg) : Statement (.rol d a b) := of_word _ rfl (by simp) (by simp [decodeMajor, dec00])
theorem ror (d : Reg) (a : Reg) (b : Reg) : Statement (.ror d a b) := of_word _ rfl (by simp) (by simp [decodeMajor, dec00])
theorem slt (d : Reg) (a : Reg) (b : Reg) : Statement (.slt d a b) := of_word _ rfl (by simp) (by simp [decodeMajor, dec00])
theorem sltu (d : Reg) (a : Reg) (b : Reg) : Statement (.sltu d a b) := of_word _ rfl (by simp) (by simp [decodeMajor, dec00])
theorem min (d : Reg) (a : Reg) (b : Reg) : Statement (.min d a b) := of_word _ rfl (by simp) (by simp [decodeMajor, dec00])
theorem max (d : Reg) (a : Reg) (b : Reg) : Statement (.max d a b) := of_word _ rfl (by simp) (by simp [decodeMajor, dec00])
theorem minu (d : Reg) (a : Reg) (b : Reg) : Statement (.minu d a b) := of_word _ rfl (by simp) (by simp [decodeMajor, dec00])
theorem maxu (d : Reg) (a : Reg) (b : Reg) : Statement (.maxu d a b) := of_word _ rfl (by simp) (by simp [decodeMajor, dec00])
theorem addw (d : Reg) (a : Reg) (b : Reg) : Statement (.addw d a b) := of_word _ rfl (by simp) (by simp [decodeMajor, dec02])
theorem subw (d : Reg) (a : Reg) (b : Reg) : Statement (.subw d a b) := of_word _ rfl (by simp) (by simp [decodeMajor, dec02])
theorem sllw (d : Reg) (a : Reg) (b : Reg) : Statement (.sllw d a b) := of_word _ rfl (by simp) (by simp [decodeMajor, dec02])
theorem srlw (d : Reg) (a : Reg) (b : Reg) : Statement (.srlw d a b) := of_word _ rfl (by simp) (by simp [decodeMajor, dec02])
theorem sraw (d : Reg) (a : Reg) (b : Reg) : Statement (.sraw d a b) := of_word _ rfl (by simp) (by simp [decodeMajor, dec02])
theorem mul (d : Reg) (a : Reg) (b : Reg) : Statement (.mul d a b) := of_word _ rfl (by simp) (by simp [decodeMajor, dec04])
theorem mulh (d : Reg) (a : Reg) (b : Reg) : Statement (.mulh d a b) := of_word _ rfl (by simp) (by simp [decodeMajor, dec04])
theorem mulhu (d : Reg) (a : Reg) (b : Reg) : Statement (.mulhu d a b) := of_word _ rfl (by simp) (by simp [decodeMajor, dec04])
theorem div (d : Reg) (a : Reg) (b : Reg) : Statement (.div d a b) := of_word _ rfl (by simp) (by simp [decodeMajor, dec04])
theorem divu (d : Reg) (a : Reg) (b : Reg) : Statement (.divu d a b) := of_word _ rfl (by simp) (by simp [decodeMajor, dec04])
theorem rem (d : Reg) (a : Reg) (b : Reg) : Statement (.rem d a b) := of_word _ rfl (by simp) (by simp [decodeMajor, dec04])
theorem remu (d : Reg) (a : Reg) (b : Reg) : Statement (.remu d a b) := of_word _ rfl (by simp) (by simp [decodeMajor, dec04])
theorem mulw (d : Reg) (a : Reg) (b : Reg) : Statement (.mulw d a b) := of_word _ rfl (by simp) (by simp [decodeMajor, dec04])
theorem divw (d : Reg) (a : Reg) (b : Reg) : Statement (.divw d a b) := of_word _ rfl (by simp) (by simp [decodeMajor, dec04])
theorem divuw (d : Reg) (a : Reg) (b : Reg) : Statement (.divuw d a b) := of_word _ rfl (by simp) (by simp [decodeMajor, dec04])
theorem remw (d : Reg) (a : Reg) (b : Reg) : Statement (.remw d a b) := of_word _ rfl (by simp) (by simp [decodeMajor, dec04])
theorem remuw (d : Reg) (a : Reg) (b : Reg) : Statement (.remuw d a b) := of_word _ rfl (by simp) (by simp [decodeMajor, dec04])
theorem addi (d : Reg) (a : Reg) (i : BitVec 12) : Statement (.addi d a i) := of_word_wf _ rfl (by simp) fun h => by
  simp [Instr.wf] at h
  simp [decodeMajor, dec01]
  intro hd ha hi
  simp [hd, ha, hi] at h
theorem andi (d : Reg) (a : Reg) (i : BitVec 12) : Statement (.andi d a i) := of_word _ rfl (by simp) (by simp [decodeMajor, dec01])
theorem ori (d : Reg) (a : Reg) (i : BitVec 12) : Statement (.ori d a i) := of_word_wf _ rfl (by simp) fun h => by
  simp [Instr.wf] at h
  simp [decodeMajor, dec01]
  intro hd
  simpa [hd] using h
theorem xori (d : Reg) (a : Reg) (i : BitVec 12) : Statement (.xori d a i) := of_word _ rfl (by simp) (by simp [decodeMajor, dec01])
theorem slti (d : Reg) (a : Reg) (i : BitVec 12) : Statement (.slti d a i) := of_word _ rfl (by simp) (by simp [decodeMajor, dec01])
theorem sltiu (d : Reg) (a : Reg) (i : BitVec 12) : Statement (.sltiu d a i) := of_word _ rfl (by simp) (by simp [decodeMajor, dec01])
theorem slli (d : Reg) (a : Reg) (h : BitVec 6) : Statement (.slli d a h) := of_word _ rfl (by simp) (by simp [decodeMajor, dec01])
theorem srli (d : Reg) (a : Reg) (h : BitVec 6) : Statement (.srli d a h) := of_word _ rfl (by simp) (by simp [decodeMajor, dec01])
theorem srai (d : Reg) (a : Reg) (h : BitVec 6) : Statement (.srai d a h) := of_word _ rfl (by simp) (by simp [decodeMajor, dec01])
theorem rori (d : Reg) (a : Reg) (h : BitVec 6) : Statement (.rori d a h) := of_word _ rfl (by simp) (by simp [decodeMajor, dec01])
theorem addiw (d : Reg) (a : Reg) (i : BitVec 12) : Statement (.addiw d a i) := of_word _ rfl (by simp) (by simp [decodeMajor, dec03])
theorem slliw (d : Reg) (a : Reg) (h : BitVec 5) : Statement (.slliw d a h) := of_word _ rfl (by simp) (by simp [decodeMajor, dec03])
theorem srliw (d : Reg) (a : Reg) (h : BitVec 5) : Statement (.srliw d a h) := of_word _ rfl (by simp) (by simp [decodeMajor, dec03])
theorem sraiw (d : Reg) (a : Reg) (h : BitVec 5) : Statement (.sraiw d a h) := of_word _ rfl (by simp) (by simp [decodeMajor, dec03])
theorem phint (a : Reg) (i : BitVec 10) (t : BitVec 2) : Statement (.phint a i t) := of_word_wf _ rfl (by simp) fun h => by
  simp [Instr.wf] at h
  simpa [decodeMajor, dec01] using h
theorem lui (d : Reg) (i : BitVec 20) : Statement (.lui d i) := of_word _ rfl (by simp) (by simp [decodeMajor, dec05])
theorem auipc (d : Reg) (i : BitVec 20) : Statement (.auipc d i) := of_word _ rfl (by simp) (by simp [decodeMajor, dec06])
theorem clz (d : Reg) (a : Reg) : Statement (.clz d a) := of_word _ rfl (by simp) (by simp [decodeMajor, dec07])
theorem ctz (d : Reg) (a : Reg) : Statement (.ctz d a) := of_word _ rfl (by simp) (by simp [decodeMajor, dec07])
theorem popc (d : Reg) (a : Reg) : Statement (.popc d a) := of_word _ rfl (by simp) (by simp [decodeMajor, dec07])
theorem bswap (d : Reg) (a : Reg) : Statement (.bswap d a) := of_word _ rfl (by simp) (by simp [decodeMajor, dec07])
theorem sextI8 (d : Reg) (a : Reg) : Statement (.sextI8 d a) := of_word _ rfl (by simp) (by simp [decodeMajor, dec07])
theorem sextI16 (d : Reg) (a : Reg) : Statement (.sextI16 d a) := of_word _ rfl (by simp) (by simp [decodeMajor, dec07])
theorem sextI32 (d : Reg) (a : Reg) : Statement (.sextI32 d a) := of_word _ rfl (by simp) (by simp [decodeMajor, dec07])
theorem zextN8 (d : Reg) (a : Reg) : Statement (.zextN8 d a) := of_word _ rfl (by simp) (by simp [decodeMajor, dec07])
theorem zextN16 (d : Reg) (a : Reg) : Statement (.zextN16 d a) := of_word _ rfl (by simp) (by simp [decodeMajor, dec07])
theorem zextN32 (d : Reg) (a : Reg) : Statement (.zextN32 d a) := of_word _ rfl (by simp) (by simp [decodeMajor, dec07])
theorem sel (d : Reg) (a : Reg) (b : Reg) (c : Reg) : Statement (.sel d a b c) := of_word _ rfl (by simp) (by simp [decodeMajor, dec07])
theorem shadd (d : Reg) (a : Reg) (b : Reg) (h : BitVec 2) : Statement (.shadd d a b h) := of_word _ rfl (by simp) (by simp [decodeMajor, dec07, lo2, hi3])
theorem mkva (d : Reg) (a : Reg) (b : Reg) : Statement (.mkva d a b) := of_word _ rfl (by simp) (by simp [decodeMajor, dec07])
theorem mkvai (d : Reg) (a : Reg) (i : BitVec 4) : Statement (.mkvai d a i) := of_word _ rfl (by simp) (by simp [decodeMajor, dec07, lo4, hi1])
theorem beq (a : Reg) (b : Reg) (i : BitVec 12) : Statement (.beq a b i) := of_word _ rfl (by simp) (by simp [decodeMajor, dec08])
theorem bne (a : Reg) (b : Reg) (i : BitVec 12) : Statement (.bne a b i) := of_word _ rfl (by simp) (by simp [decodeMajor, dec08])
theorem blt (a : Reg) (b : Reg) (i : BitVec 12) : Statement (.blt a b i) := of_word _ rfl (by simp) (by simp [decodeMajor, dec08])
theorem bge (a : Reg) (b : Reg) (i : BitVec 12) : Statement (.bge a b i) := of_word _ rfl (by simp) (by simp [decodeMajor, dec08])
theorem bltu (a : Reg) (b : Reg) (i : BitVec 12) : Statement (.bltu a b i) := of_word _ rfl (by simp) (by simp [decodeMajor, dec08])
theorem bgeu (a : Reg) (b : Reg) (i : BitVec 12) : Statement (.bgeu a b i) := of_word _ rfl (by simp) (by simp [decodeMajor, dec08])
theorem jal (d : Reg) (i : BitVec 20) : Statement (.jal d i) := of_word _ rfl (by simp) (by simp [decodeMajor, dec09])
theorem jalr (d : Reg) (a : Reg) (i : BitVec 12) : Statement (.jalr d a i) := of_word _ rfl (by simp) (by simp [decodeMajor, dec0A])
theorem loop (l : BitVec 1) (a : Reg) (i : BitVec 12) : Statement (.loop l a i) := of_word _ rfl (by simp) (by rcases bit_cases l with rfl | rfl <;> simp [decodeMajor, dec0B])
theorem loopi (l : BitVec 1) (n : BitVec 10) (i : BitVec 12) : Statement (.loopi l n i) := of_word _ rfl (by simp) (by rcases bit_cases l with rfl | rfl <;> simp [decodeMajor, dec0B, cat_parts])
theorem fadd (s : BitVec 2) (r : BitVec 3) (d : Reg) (a : Reg) (b : Reg) : Statement (.fadd s r d a b) := of_word _ rfl (by simp) (by simp [decodeMajor, dec0C])
theorem fsub (s : BitVec 2) (r : BitVec 3) (d : Reg) (a : Reg) (b : Reg) : Statement (.fsub s r d a b) := of_word _ rfl (by simp) (by simp [decodeMajor, dec0C])
theorem fmul (s : BitVec 2) (r : BitVec 3) (d : Reg) (a : Reg) (b : Reg) : Statement (.fmul s r d a b) := of_word _ rfl (by simp) (by simp [decodeMajor, dec0C])
theorem fdiv (s : BitVec 2) (r : BitVec 3) (d : Reg) (a : Reg) (b : Reg) : Statement (.fdiv s r d a b) := of_word _ rfl (by simp) (by simp [decodeMajor, dec0C])
theorem fsqrt (s : BitVec 2) (r : BitVec 3) (d : Reg) (a : Reg) : Statement (.fsqrt s r d a) := of_word _ rfl (by simp) (by simp [decodeMajor, dec0C])
theorem fmin (s : BitVec 2) (d : Reg) (a : Reg) (b : Reg) : Statement (.fmin s d a b) := of_word _ rfl (by simp) (by simp [decodeMajor, dec0C])
theorem fmax (s : BitVec 2) (d : Reg) (a : Reg) (b : Reg) : Statement (.fmax s d a b) := of_word _ rfl (by simp) (by simp [decodeMajor, dec0C])
theorem fcpsgn (s : BitVec 2) (d : Reg) (a : Reg) (b : Reg) : Statement (.fcpsgn s d a b) := of_word _ rfl (by simp) (by simp [decodeMajor, dec0C])
theorem fxsgn (s : BitVec 2) (d : Reg) (a : Reg) (b : Reg) : Statement (.fxsgn s d a b) := of_word _ rfl (by simp) (by simp [decodeMajor, dec0C])
theorem fneg (s : BitVec 2) (d : Reg) (a : Reg) : Statement (.fneg s d a) := of_word _ rfl (by simp) (by simp [decodeMajor, dec0C])
theorem fabs (s : BitVec 2) (d : Reg) (a : Reg) : Statement (.fabs s d a) := of_word _ rfl (by simp) (by simp [decodeMajor, dec0C])
theorem fmov (d : Reg) (a : Reg) : Statement (.fmov d a) := of_word _ rfl (by simp) (by simp [decodeMajor, dec0C])
theorem fcvtFf (s : BitVec 2) (r : BitVec 3) (t : BitVec 2) (d : Reg) (a : Reg) : Statement (.fcvtFf s r t d a) := of_word _ rfl (by simp) (by simp [decodeMajor, dec0E, lo2, hi3])
theorem fcvtFInt (s : BitVec 2) (r : BitVec 3) (n : BitVec 1) (g : BitVec 1) (d : Reg) (a : Reg) : Statement (.fcvtFInt s r n g d a) := of_word _ rfl (by simp) (by simp [decodeMajor, dec0E, lo1, hi3, mid1])
theorem fcvtIntF (s : BitVec 2) (r : BitVec 3) (n : BitVec 1) (g : BitVec 1) (d : Reg) (a : Reg) : Statement (.fcvtIntF s r n g d a) := of_word _ rfl (by simp) (by simp [decodeMajor, dec0E, lo1, hi3, mid1])
theorem fmvx (s : BitVec 2) (d : Reg) (a : Reg) : Statement (.fmvx s d a) := of_word _ rfl (by simp) (by simp [decodeMajor, dec0E])
theorem fmvf (s : BitVec 2) (d : Reg) (a : Reg) : Statement (.fmvf s d a) := of_word _ rfl (by simp) (by simp [decodeMajor, dec0E])
theorem feq (s : BitVec 2) (d : Reg) (a : Reg) (b : Reg) : Statement (.feq s d a b) := of_word _ rfl (by simp) (by simp [decodeMajor, dec0F])
theorem flt (s : BitVec 2) (d : Reg) (a : Reg) (b : Reg) : Statement (.flt s d a b) := of_word _ rfl (by simp) (by simp [decodeMajor, dec0F])
theorem fle (s : BitVec 2) (d : Reg) (a : Reg) (b : Reg) : Statement (.fle s d a b) := of_word _ rfl (by simp) (by simp [decodeMajor, dec0F])
theorem fclass (s : BitVec 2) (d : Reg) (a : Reg) : Statement (.fclass s d a) := of_word _ rfl (by simp) (by simp [decodeMajor, dec0F])
theorem fma (s : BitVec 2) (r : BitVec 1) (d : Reg) (a : Reg) (b : Reg) (c : Reg) : Statement (.fma s r d a b c) := of_word _ rfl (by simp) (by simp [decodeMajor, dec0D])
theorem fms (s : BitVec 2) (r : BitVec 1) (d : Reg) (a : Reg) (b : Reg) (c : Reg) : Statement (.fms s r d a b c) := of_word _ rfl (by simp) (by simp [decodeMajor, dec0D])
theorem fnma (s : BitVec 2) (r : BitVec 1) (d : Reg) (a : Reg) (b : Reg) (c : Reg) : Statement (.fnma s r d a b c) := of_word _ rfl (by simp) (by simp [decodeMajor, dec0D])
theorem fnms (s : BitVec 2) (r : BitVec 1) (d : Reg) (a : Reg) (b : Reg) (c : Reg) : Statement (.fnms s r d a b c) := of_word _ rfl (by simp) (by simp [decodeMajor, dec0D])
theorem ldI8 (d : Reg) (a : Reg) (i : BitVec 12) : Statement (.ldI8 d a i) := of_word _ rfl (by simp) (by simp [decodeMajor, dec10])
theorem ldI16 (d : Reg) (a : Reg) (i : BitVec 12) : Statement (.ldI16 d a i) := of_word _ rfl (by simp) (by simp [decodeMajor, dec10])
theorem ldI32 (d : Reg) (a : Reg) (i : BitVec 12) : Statement (.ldI32 d a i) := of_word _ rfl (by simp) (by simp [decodeMajor, dec10])
theorem ldI64 (d : Reg) (a : Reg) (i : BitVec 12) : Statement (.ldI64 d a i) := of_word _ rfl (by simp) (by simp [decodeMajor, dec10])
theorem ldN8 (d : Reg) (a : Reg) (i : BitVec 12) : Statement (.ldN8 d a i) := of_word _ rfl (by simp) (by simp [decodeMajor, dec10])
theorem ldN16 (d : Reg) (a : Reg) (i : BitVec 12) : Statement (.ldN16 d a i) := of_word _ rfl (by simp) (by simp [decodeMajor, dec10])
theorem ldN32 (d : Reg) (a : Reg) (i : BitVec 12) : Statement (.ldN32 d a i) := of_word _ rfl (by simp) (by simp [decodeMajor, dec10])
theorem pref (k : BitVec 5) (a : Reg) (i : BitVec 12) : Statement (.pref k a i) := of_word _ rfl (by simp) (by simp [decodeMajor, dec10])
theorem stI8 (a : Reg) (b : Reg) (i : BitVec 12) : Statement (.stI8 a b i) := of_word _ rfl (by simp) (by simp [decodeMajor, dec11])
theorem stI16 (a : Reg) (b : Reg) (i : BitVec 12) : Statement (.stI16 a b i) := of_word _ rfl (by simp) (by simp [decodeMajor, dec11])
theorem stI32 (a : Reg) (b : Reg) (i : BitVec 12) : Statement (.stI32 a b i) := of_word _ rfl (by simp) (by simp [decodeMajor, dec11])
theorem stI64 (a : Reg) (b : Reg) (i : BitVec 12) : Statement (.stI64 a b i) := of_word _ rfl (by simp) (by simp [decodeMajor, dec11])
theorem fldF16 (d : Reg) (a : Reg) (i : BitVec 12) : Statement (.fldF16 d a i) := of_word _ rfl (by simp) (by simp [decodeMajor, dec12])
theorem fldF32 (d : Reg) (a : Reg) (i : BitVec 12) : Statement (.fldF32 d a i) := of_word _ rfl (by simp) (by simp [decodeMajor, dec12])
theorem fldF64 (d : Reg) (a : Reg) (i : BitVec 12) : Statement (.fldF64 d a i) := of_word _ rfl (by simp) (by simp [decodeMajor, dec12])
theorem fstF16 (a : Reg) (b : Reg) (i : BitVec 12) : Statement (.fstF16 a b i) := of_word _ rfl (by simp) (by simp [decodeMajor, dec13])
theorem fstF32 (a : Reg) (b : Reg) (i : BitVec 12) : Statement (.fstF32 a b i) := of_word _ rfl (by simp) (by simp [decodeMajor, dec13])
theorem fstF64 (a : Reg) (b : Reg) (i : BitVec 12) : Statement (.fstF64 a b i) := of_word _ rfl (by simp) (by simp [decodeMajor, dec13])
theorem amoadd (s : BitVec 1) (d : Reg) (a : Reg) (b : Reg) : Statement (.amoadd s d a b) := of_word _ rfl (by simp) (by simp [decodeMajor, dec14])
theorem amoswap (s : BitVec 1) (d : Reg) (a : Reg) (b : Reg) : Statement (.amoswap s d a b) := of_word _ rfl (by simp) (by simp [decodeMajor, dec14])
theorem amoand (s : BitVec 1) (d : Reg) (a : Reg) (b : Reg) : Statement (.amoand s d a b) := of_word _ rfl (by simp) (by simp [decodeMajor, dec14])
theorem amoor (s : BitVec 1) (d : Reg) (a : Reg) (b : Reg) : Statement (.amoor s d a b) := of_word _ rfl (by simp) (by simp [decodeMajor, dec14])
theorem amoxor (s : BitVec 1) (d : Reg) (a : Reg) (b : Reg) : Statement (.amoxor s d a b) := of_word _ rfl (by simp) (by simp [decodeMajor, dec14])
theorem amomin (s : BitVec 1) (d : Reg) (a : Reg) (b : Reg) : Statement (.amomin s d a b) := of_word _ rfl (by simp) (by simp [decodeMajor, dec14])
theorem amomax (s : BitVec 1) (d : Reg) (a : Reg) (b : Reg) : Statement (.amomax s d a b) := of_word _ rfl (by simp) (by simp [decodeMajor, dec14])
theorem amominu (s : BitVec 1) (d : Reg) (a : Reg) (b : Reg) : Statement (.amominu s d a b) := of_word _ rfl (by simp) (by simp [decodeMajor, dec14])
theorem amomaxu (s : BitVec 1) (d : Reg) (a : Reg) (b : Reg) : Statement (.amomaxu s d a b) := of_word _ rfl (by simp) (by simp [decodeMajor, dec14])
theorem cas (s : BitVec 1) (d : Reg) (a : Reg) (b : Reg) : Statement (.cas s d a b) := of_word _ rfl (by simp) (by simp [decodeMajor, dec14])
theorem radd (s : BitVec 1) (a : Reg) (b : Reg) : Statement (.radd s a b) := of_word _ rfl (by simp) (by simp [decodeMajor, dec14])
theorem raddF (s : BitVec 1) (a : Reg) (b : Reg) : Statement (.raddF s a b) := of_word _ rfl (by simp) (by simp [decodeMajor, dec14])
theorem ldAcq (s : BitVec 1) (p : BitVec 2) (d : Reg) (a : Reg) : Statement (.ldAcq s p d a) := of_word _ rfl (by simp) (by simp [decodeMajor, dec15])
theorem stRel (s : BitVec 1) (p : BitVec 2) (a : Reg) (b : Reg) : Statement (.stRel s p a b) := of_word _ rfl (by simp) (by simp [decodeMajor, dec15])
theorem fence (p : BitVec 2) : Statement (.fence p) := of_word _ rfl (by simp) (by simp [decodeMajor, dec16])
theorem bar (n : BitVec 4) : Statement (.bar n) := of_word _ rfl (by simp) (by simp [decodeMajor, dec16, lo4, hi1])
theorem barwait (n : BitVec 4) : Statement (.barwait n) := of_word _ rfl (by simp) (by simp [decodeMajor, dec16, lo4, hi1])
theorem waitne (s : BitVec 1) (a : Reg) (b : Reg) : Statement (.waitne s a b) := of_word _ rfl (by simp) (by simp [decodeMajor, dec16])
theorem sigrd (d : Reg) : Statement (.sigrd d) := of_word _ rfl (by simp) (by simp [decodeMajor, dec16])
theorem sigclr (a : Reg) : Statement (.sigclr a) := of_word _ rfl (by simp) (by simp [decodeMajor, dec16])
theorem rst (s : BitVec 1) (a : Reg) (b : Reg) : Statement (.rst s a b) := of_word _ rfl (by simp) (by simp [decodeMajor, dec17])
theorem rstRel (s : BitVec 1) (a : Reg) (b : Reg) : Statement (.rstRel s a b) := of_word _ rfl (by simp) (by simp [decodeMajor, dec17])
theorem ramo (s : BitVec 1) (o : BitVec 3) (d : Reg) (a : Reg) (b : Reg) : Statement (.ramo s o d a b) := of_word _ rfl (by simp) (by simp [decodeMajor, dec17])
theorem rcas (s : BitVec 1) (d : Reg) (a : Reg) (b : Reg) : Statement (.rcas s d a b) := of_word _ rfl (by simp) (by simp [decodeMajor, dec17])
theorem vadd (w : BitVec 2) (k : BitVec 3) (d : Reg) (a : Reg) (b : Reg) : Statement (.vadd w k d a b) := of_word _ rfl (by simp) (by simp [decodeMajor, dec18])
theorem vsub (w : BitVec 2) (k : BitVec 3) (d : Reg) (a : Reg) (b : Reg) : Statement (.vsub w k d a b) := of_word _ rfl (by simp) (by simp [decodeMajor, dec18])
theorem vmul (w : BitVec 2) (k : BitVec 3) (d : Reg) (a : Reg) (b : Reg) : Statement (.vmul w k d a b) := of_word _ rfl (by simp) (by simp [decodeMajor, dec18])
theorem vmulh (w : BitVec 2) (k : BitVec 3) (d : Reg) (a : Reg) (b : Reg) : Statement (.vmulh w k d a b) := of_word _ rfl (by simp) (by simp [decodeMajor, dec18])
theorem vmin (w : BitVec 2) (k : BitVec 3) (d : Reg) (a : Reg) (b : Reg) : Statement (.vmin w k d a b) := of_word _ rfl (by simp) (by simp [decodeMajor, dec18])
theorem vmax (w : BitVec 2) (k : BitVec 3) (d : Reg) (a : Reg) (b : Reg) : Statement (.vmax w k d a b) := of_word _ rfl (by simp) (by simp [decodeMajor, dec18])
theorem vminu (w : BitVec 2) (k : BitVec 3) (d : Reg) (a : Reg) (b : Reg) : Statement (.vminu w k d a b) := of_word _ rfl (by simp) (by simp [decodeMajor, dec18])
theorem vmaxu (w : BitVec 2) (k : BitVec 3) (d : Reg) (a : Reg) (b : Reg) : Statement (.vmaxu w k d a b) := of_word _ rfl (by simp) (by simp [decodeMajor, dec18])
theorem vand (w : BitVec 2) (k : BitVec 3) (d : Reg) (a : Reg) (b : Reg) : Statement (.vand w k d a b) := of_word _ rfl (by simp) (by simp [decodeMajor, dec18])
theorem vor (w : BitVec 2) (k : BitVec 3) (d : Reg) (a : Reg) (b : Reg) : Statement (.vor w k d a b) := of_word _ rfl (by simp) (by simp [decodeMajor, dec18])
theorem vxor (w : BitVec 2) (k : BitVec 3) (d : Reg) (a : Reg) (b : Reg) : Statement (.vxor w k d a b) := of_word _ rfl (by simp) (by simp [decodeMajor, dec18])
theorem vsll (w : BitVec 2) (k : BitVec 3) (d : Reg) (a : Reg) (b : Reg) : Statement (.vsll w k d a b) := of_word _ rfl (by simp) (by simp [decodeMajor, dec18])
theorem vsrl (w : BitVec 2) (k : BitVec 3) (d : Reg) (a : Reg) (b : Reg) : Statement (.vsrl w k d a b) := of_word _ rfl (by simp) (by simp [decodeMajor, dec18])
theorem vsra (w : BitVec 2) (k : BitVec 3) (d : Reg) (a : Reg) (b : Reg) : Statement (.vsra w k d a b) := of_word _ rfl (by simp) (by simp [decodeMajor, dec18])
theorem vfadd (w : BitVec 2) (k : BitVec 3) (d : Reg) (a : Reg) (b : Reg) : Statement (.vfadd w k d a b) := of_word _ rfl (by simp) (by simp [decodeMajor, dec19])
theorem vfsub (w : BitVec 2) (k : BitVec 3) (d : Reg) (a : Reg) (b : Reg) : Statement (.vfsub w k d a b) := of_word _ rfl (by simp) (by simp [decodeMajor, dec19])
theorem vfmul (w : BitVec 2) (k : BitVec 3) (d : Reg) (a : Reg) (b : Reg) : Statement (.vfmul w k d a b) := of_word _ rfl (by simp) (by simp [decodeMajor, dec19])
theorem vfdiv (w : BitVec 2) (k : BitVec 3) (d : Reg) (a : Reg) (b : Reg) : Statement (.vfdiv w k d a b) := of_word _ rfl (by simp) (by simp [decodeMajor, dec19])
theorem vfmin (w : BitVec 2) (k : BitVec 3) (d : Reg) (a : Reg) (b : Reg) : Statement (.vfmin w k d a b) := of_word _ rfl (by simp) (by simp [decodeMajor, dec19])
theorem vfmax (w : BitVec 2) (k : BitVec 3) (d : Reg) (a : Reg) (b : Reg) : Statement (.vfmax w k d a b) := of_word _ rfl (by simp) (by simp [decodeMajor, dec19])
theorem vfsqrt (w : BitVec 2) (k : BitVec 3) (d : Reg) (a : Reg) : Statement (.vfsqrt w k d a) := of_word _ rfl (by simp) (by simp [decodeMajor, dec19])
theorem vfrcp (w : BitVec 2) (k : BitVec 3) (d : Reg) (a : Reg) : Statement (.vfrcp w k d a) := of_word _ rfl (by simp) (by simp [decodeMajor, dec19])
theorem vfrsq (w : BitVec 2) (k : BitVec 3) (d : Reg) (a : Reg) : Statement (.vfrsq w k d a) := of_word _ rfl (by simp) (by simp [decodeMajor, dec19])
theorem vfexp2 (w : BitVec 2) (k : BitVec 3) (d : Reg) (a : Reg) : Statement (.vfexp2 w k d a) := of_word _ rfl (by simp) (by simp [decodeMajor, dec19])
theorem vfma (w : BitVec 2) (k : BitVec 3) (d : Reg) (a : Reg) (b : Reg) : Statement (.vfma w k d a b) := of_word _ rfl (by simp) (by simp [decodeMajor, dec1A])
theorem vfms (w : BitVec 2) (k : BitVec 3) (d : Reg) (a : Reg) (b : Reg) : Statement (.vfms w k d a b) := of_word _ rfl (by simp) (by simp [decodeMajor, dec1A])
theorem vfnma (w : BitVec 2) (k : BitVec 3) (d : Reg) (a : Reg) (b : Reg) : Statement (.vfnma w k d a b) := of_word _ rfl (by simp) (by simp [decodeMajor, dec1A])
theorem vfnms (w : BitVec 2) (k : BitVec 3) (d : Reg) (a : Reg) (b : Reg) : Statement (.vfnms w k d a b) := of_word _ rfl (by simp) (by simp [decodeMajor, dec1A])
theorem vcmpeq (w : BitVec 2) (k : BitVec 3) (d : BitVec 3) (a : Reg) (b : Reg) : Statement (.vcmpeq w k d a b) := of_word _ rfl (by simp) (by simp [decodeMajor, dec1B, lo3, hi2])
theorem vcmpne (w : BitVec 2) (k : BitVec 3) (d : BitVec 3) (a : Reg) (b : Reg) : Statement (.vcmpne w k d a b) := of_word _ rfl (by simp) (by simp [decodeMajor, dec1B, lo3, hi2])
theorem vcmplt (w : BitVec 2) (k : BitVec 3) (d : BitVec 3) (a : Reg) (b : Reg) : Statement (.vcmplt w k d a b) := of_word _ rfl (by simp) (by simp [decodeMajor, dec1B, lo3, hi2])
theorem vcmple (w : BitVec 2) (k : BitVec 3) (d : BitVec 3) (a : Reg) (b : Reg) : Statement (.vcmple w k d a b) := of_word _ rfl (by simp) (by simp [decodeMajor, dec1B, lo3, hi2])
theorem vcmpltu (w : BitVec 2) (k : BitVec 3) (d : BitVec 3) (a : Reg) (b : Reg) : Statement (.vcmpltu w k d a b) := of_word _ rfl (by simp) (by simp [decodeMajor, dec1B, lo3, hi2])
theorem vcmpleu (w : BitVec 2) (k : BitVec 3) (d : BitVec 3) (a : Reg) (b : Reg) : Statement (.vcmpleu w k d a b) := of_word _ rfl (by simp) (by simp [decodeMajor, dec1B, lo3, hi2])
theorem vfcmpeq (w : BitVec 2) (k : BitVec 3) (d : BitVec 3) (a : Reg) (b : Reg) : Statement (.vfcmpeq w k d a b) := of_word _ rfl (by simp) (by simp [decodeMajor, dec1B, lo3, hi2])
theorem vfcmplt (w : BitVec 2) (k : BitVec 3) (d : BitVec 3) (a : Reg) (b : Reg) : Statement (.vfcmplt w k d a b) := of_word _ rfl (by simp) (by simp [decodeMajor, dec1B, lo3, hi2])
theorem vfcmple (w : BitVec 2) (k : BitVec 3) (d : BitVec 3) (a : Reg) (b : Reg) : Statement (.vfcmple w k d a b) := of_word _ rfl (by simp) (by simp [decodeMajor, dec1B, lo3, hi2])
theorem vsel (w : BitVec 2) (k : BitVec 3) (d : Reg) (a : Reg) (b : Reg) : Statement (.vsel w k d a b) := of_word _ rfl (by simp) (by simp [decodeMajor, dec1B])
theorem vbcast (w : BitVec 2) (k : BitVec 3) (d : Reg) (a : Reg) : Statement (.vbcast w k d a) := of_word _ rfl (by simp) (by simp [decodeMajor, dec1C])
theorem vextr (w : BitVec 2) (d : Reg) (a : Reg) (b : Reg) : Statement (.vextr w d a b) := of_word _ rfl (by simp) (by simp [decodeMajor, dec1C])
theorem vinsr (w : BitVec 2) (d : Reg) (a : Reg) (b : Reg) : Statement (.vinsr w d a b) := of_word _ rfl (by simp) (by simp [decodeMajor, dec1C])
theorem vperm (w : BitVec 2) (k : BitVec 3) (d : Reg) (a : Reg) (b : Reg) : Statement (.vperm w k d a b) := of_word _ rfl (by simp) (by simp [decodeMajor, dec1C])
theorem vredAdd (w : BitVec 2) (k : BitVec 3) (d : Reg) (a : Reg) : Statement (.vredAdd w k d a) := of_word _ rfl (by simp) (by simp [decodeMajor, dec1C])
theorem vredMin (w : BitVec 2) (k : BitVec 3) (d : Reg) (a : Reg) : Statement (.vredMin w k d a) := of_word _ rfl (by simp) (by simp [decodeMajor, dec1C])
theorem vredMax (w : BitVec 2) (k : BitVec 3) (d : Reg) (a : Reg) : Statement (.vredMax w k d a) := of_word _ rfl (by simp) (by simp [decodeMajor, dec1C])
theorem vredMinu (w : BitVec 2) (k : BitVec 3) (d : Reg) (a : Reg) : Statement (.vredMinu w k d a) := of_word _ rfl (by simp) (by simp [decodeMajor, dec1C])
theorem vredMaxu (w : BitVec 2) (k : BitVec 3) (d : Reg) (a : Reg) : Statement (.vredMaxu w k d a) := of_word _ rfl (by simp) (by simp [decodeMajor, dec1C])
theorem vfredAdd (w : BitVec 2) (k : BitVec 3) (d : Reg) (a : Reg) : Statement (.vfredAdd w k d a) := of_word _ rfl (by simp) (by simp [decodeMajor, dec1C])
theorem vfredMin (w : BitVec 2) (k : BitVec 3) (d : Reg) (a : Reg) : Statement (.vfredMin w k d a) := of_word _ rfl (by simp) (by simp [decodeMajor, dec1C])
theorem vfredMax (w : BitVec 2) (k : BitVec 3) (d : Reg) (a : Reg) : Statement (.vfredMax w k d a) := of_word _ rfl (by simp) (by simp [decodeMajor, dec1C])
theorem vcvt (t : BitVec 4) (u : BitVec 4) (s : BitVec 1) (k : BitVec 3) (d : Reg) (a : Reg) : Statement (.vcvt t u s k d a) := of_word _ rfl (by simp) (by simp [decodeMajor, dec1D, lo4, hi1])
theorem vcvtF32I32 (k : BitVec 3) (d : Reg) (a : Reg) : Statement (.vcvtF32I32 k d a) := of_word _ rfl (by simp) (by simp [decodeMajor, dec1D, hi1])
theorem vcvtI32F32 (k : BitVec 3) (d : Reg) (a : Reg) : Statement (.vcvtI32F32 k d a) := of_word _ rfl (by simp) (by simp [decodeMajor, dec1D, hi1])
theorem vcvtF64I64 (k : BitVec 3) (d : Reg) (a : Reg) : Statement (.vcvtF64I64 k d a) := of_word _ rfl (by simp) (by simp [decodeMajor, dec1D, hi1])
theorem vcvtI64F64 (k : BitVec 3) (d : Reg) (a : Reg) : Statement (.vcvtI64F64 k d a) := of_word _ rfl (by simp) (by simp [decodeMajor, dec1D, hi1])
theorem vld (w : BitVec 2) (k : BitVec 3) (d : Reg) (a : Reg) : Statement (.vld w k d a) := of_word _ rfl (by simp) (by simp [decodeMajor, dec1E])
theorem vst (w : BitVec 2) (k : BitVec 3) (d : Reg) (a : Reg) : Statement (.vst w k d a) := of_word _ rfl (by simp) (by simp [decodeMajor, dec1E])
theorem vlds (w : BitVec 2) (k : BitVec 3) (d : Reg) (a : Reg) (b : Reg) : Statement (.vlds w k d a b) := of_word _ rfl (by simp) (by simp [decodeMajor, dec1E])
theorem vsts (w : BitVec 2) (k : BitVec 3) (d : Reg) (a : Reg) (b : Reg) : Statement (.vsts w k d a b) := of_word _ rfl (by simp) (by simp [decodeMajor, dec1E])
theorem vgather (w : BitVec 2) (k : BitVec 3) (d : Reg) (a : Reg) (b : Reg) : Statement (.vgather w k d a b) := of_word _ rfl (by simp) (by simp [decodeMajor, dec1F])
theorem vscatter (w : BitVec 2) (k : BitVec 3) (d : Reg) (a : Reg) (b : Reg) : Statement (.vscatter w k d a b) := of_word _ rfl (by simp) (by simp [decodeMajor, dec1F])
theorem tld (d : BitVec 3) (a : Reg) (b : Reg) : Statement (.tld d a b) := of_word _ rfl (by simp) (by simp [decodeMajor, dec20, lo3, hi2])
theorem acld (d : BitVec 2) (a : Reg) (b : Reg) : Statement (.acld d a b) := of_word _ rfl (by simp) (by simp [decodeMajor, dec20, lo2, hi3])
theorem aczero (d : BitVec 2) : Statement (.aczero d) := of_word _ rfl (by simp) (by simp [decodeMajor, dec20, lo2, hi3])
theorem acst (s : BitVec 1) (f : BitVec 4) (d : BitVec 2) (a : Reg) (b : Reg) : Statement (.acst s f d a b) := of_word _ rfl (by simp) (by simp [decodeMajor, dec21, lo2, hi3])
theorem twld (x : BitVec 1) (p : BitVec 1) (f : BitVec 4) (a : Reg) (b : Reg) : Statement (.twld x p f a b) := of_word _ rfl (by simp) (by simp [decodeMajor, dec22])
theorem tmma (s : BitVec 1) (f : BitVec 4) (d : BitVec 2) (a : BitVec 3) : Statement (.tmma s f d a) := of_word _ rfl (by simp) (by simp [decodeMajor, dec23, lo2, lo3, hi2, hi3])
theorem tmmaSp (s : BitVec 1) (f : BitVec 4) (d : BitVec 2) (a : BitVec 3) : Statement (.tmmaSp s f d a) := of_word _ rfl (by simp) (by simp [decodeMajor, dec24, lo2, lo3, hi2, hi3])
theorem tmmaMx (s : BitVec 1) (f : BitVec 4) (d : BitVec 2) (a : BitVec 3) (b : Reg) : Statement (.tmmaMx s f d a b) := of_word _ rfl (by simp) (by simp [decodeMajor, dec24, lo2, lo3, hi2, hi3])
theorem tmovTv (d : BitVec 3) (r : BitVec 4) (a : Reg) : Statement (.tmovTv d r a) := of_word _ rfl (by simp) (by simp [decodeMajor, dec25, lo3, hi2])
theorem tmovVt (d : Reg) (a : BitVec 3) (r : BitVec 4) : Statement (.tmovVt d a r) := of_word _ rfl (by simp) (by simp [decodeMajor, dec25, lo3, hi2])
theorem acscale (f : BitVec 1) (d : BitVec 2) (a : Reg) : Statement (.acscale f d a) := of_word _ rfl (by simp) (by simp [decodeMajor, dec25, lo2, hi3])
theorem accvt (f : BitVec 1) (d : BitVec 2) : Statement (.accvt f d) := of_word _ rfl (by simp) (by simp [decodeMajor, dec25, lo2, hi3])
theorem cpy (g : BitVec 3) (d : Reg) (a : Reg) (b : Reg) (c : Reg) : Statement (.cpy g d a b c) := of_word _ rfl (by simp) (by simp [decodeMajor, dec28])
theorem cpy2d (g : BitVec 3) (d : Reg) (a : Reg) (b : Reg) (c : Reg) : Statement (.cpy2d g d a b c) := of_word _ rfl (by simp) (by simp [decodeMajor, dec28])
theorem cpyBc (g : BitVec 3) (d : Reg) (a : Reg) (b : Reg) (c : Reg) : Statement (.cpyBc g d a b c) := of_word _ rfl (by simp) (by simp [decodeMajor, dec28])
theorem cwait (g : BitVec 3) (n : BitVec 7) : Statement (.cwait g n) := of_word _ rfl (by simp) (by simp [decodeMajor, dec29])
theorem cpoll (d : Reg) (g : BitVec 3) : Statement (.cpoll d g) := of_word _ rfl (by simp) (by simp [decodeMajor, dec29])
theorem ccancel (g : BitVec 3) : Statement (.ccancel g) := of_word _ rfl (by simp) (by simp [decodeMajor, dec29])
theorem msend (p : BitVec 1) (d : Reg) (a : Reg) (b : Reg) (c : Reg) : Statement (.msend p d a b c) := of_word _ rfl (by simp) (by rcases bit_cases p with rfl | rfl <;> simp [decodeMajor, dec2A])
theorem mpost (d : Reg) (a : Reg) (b : Reg) (c : Reg) : Statement (.mpost d a b c) := of_word _ rfl (by simp) (by simp [decodeMajor, dec2A])
theorem csrr (d : Reg) (i : BitVec 12) : Statement (.csrr d i) := of_word _ rfl (by simp) (by simp [decodeMajor, dec2D])
theorem csrw (d : Reg) (a : Reg) (i : BitVec 12) : Statement (.csrw d a i) := of_word _ rfl (by simp) (by simp [decodeMajor, dec2D])
theorem csrs (d : Reg) (a : Reg) (i : BitVec 12) : Statement (.csrs d a i) := of_word _ rfl (by simp) (by simp [decodeMajor, dec2D])
theorem csrc (d : Reg) (a : Reg) (i : BitVec 12) : Statement (.csrc d a i) := of_word _ rfl (by simp) (by simp [decodeMajor, dec2D])
theorem tlbi (a : Reg) (b : Reg) : Statement (.tlbi a b) := of_word _ rfl (by simp) (by simp [decodeMajor, dec2E])
theorem tlbia (a : Reg) : Statement (.tlbia a) := of_word _ rfl (by simp) (by simp [decodeMajor, dec2E])
theorem icinv (w : BitVec 1) (a : Reg) : Statement (.icinv w a) := of_word _ rfl (by simp) (by simp [decodeMajor, dec2E])
theorem dcwb (w : BitVec 1) (a : Reg) : Statement (.dcwb w a) := of_word _ rfl (by simp) (by simp [decodeMajor, dec2E])
theorem dcinv (w : BitVec 1) (a : Reg) : Statement (.dcinv w a) := of_word _ rfl (by simp) (by simp [decodeMajor, dec2E])
theorem dcflush (w : BitVec 1) (a : Reg) : Statement (.dcflush w a) := of_word _ rfl (by simp) (by simp [decodeMajor, dec2E])
theorem ctxsave (a : Reg) : Statement (.ctxsave a) := of_word _ rfl (by simp) (by simp [decodeMajor, dec2F])
theorem ctxload (a : Reg) (b : Reg) : Statement (.ctxload a b) := of_word _ rfl (by simp) (by simp [decodeMajor, dec2F])
theorem kill (d : Reg) (a : Reg) : Statement (.kill d a) := of_word _ rfl (by simp) (by simp [decodeMajor, dec2F])
theorem reclaim (d : Reg) (a : Reg) (b : Reg) : Statement (.reclaim d a b) := of_word _ rfl (by simp) (by simp [decodeMajor, dec2F])
theorem fqpop (d : Reg) (a : Reg) : Statement (.fqpop d a) := of_word _ rfl (by simp) (by simp [decodeMajor, dec2F])
theorem replay (a : Reg) : Statement (.replay a) := of_word _ rfl (by simp) (by simp [decodeMajor, dec2F])
theorem pair (d : Reg) : Statement (.pair d) := of_word _ rfl (by simp) (by simp [decodeMajor, dec2F])
theorem unpair (d : Reg) : Statement (.unpair d) := of_word _ rfl (by simp) (by simp [decodeMajor, dec2F])
theorem snaparm (d : Reg) (a : Reg) : Statement (.snaparm d a) := of_word _ rfl (by simp) (by simp [decodeMajor, dec2F])
theorem hVaddI32 (d : Reg) (b : Reg) : Statement (.hVaddI32 d b) := by
  obtain ⟨-, -, h3, h4, h5, -⟩ := hv_fields b d 0#4
  exact of_hv b d 0#4 rfl (by intro h; simp [Instr.wf] at h; simp; intro hb hd; have eb : b = 0#5 := BitVec.eq_of_toNat_eq (by simp; omega); have ed : d = 0#5 := BitVec.eq_of_toNat_eq (by simp; omega); simp [eb, ed] at h) (by simp [decHV, h3, h4, h5])
theorem hVsubI32 (d : Reg) (b : Reg) : Statement (.hVsubI32 d b) := by
  obtain ⟨-, -, h3, h4, h5, -⟩ := hv_fields b d 1#4
  exact of_hv b d 1#4 rfl (fun _ => by simp) (by simp [decHV, h3, h4, h5])
theorem hVaddI64 (d : Reg) (b : Reg) : Statement (.hVaddI64 d b) := by
  obtain ⟨-, -, h3, h4, h5, -⟩ := hv_fields b d 2#4
  exact of_hv b d 2#4 rfl (fun _ => by simp) (by simp [decHV, h3, h4, h5])
theorem hVandN64 (d : Reg) (b : Reg) : Statement (.hVandN64 d b) := by
  obtain ⟨-, -, h3, h4, h5, -⟩ := hv_fields b d 3#4
  exact of_hv b d 3#4 rfl (fun _ => by simp) (by simp [decHV, h3, h4, h5])
theorem hVorN64 (d : Reg) (b : Reg) : Statement (.hVorN64 d b) := by
  obtain ⟨-, -, h3, h4, h5, -⟩ := hv_fields b d 4#4
  exact of_hv b d 4#4 rfl (fun _ => by simp) (by simp [decHV, h3, h4, h5])
theorem hVxorN64 (d : Reg) (b : Reg) : Statement (.hVxorN64 d b) := by
  obtain ⟨-, -, h3, h4, h5, -⟩ := hv_fields b d 5#4
  exact of_hv b d 5#4 rfl (fun _ => by simp) (by simp [decHV, h3, h4, h5])
theorem hVminI32 (d : Reg) (b : Reg) : Statement (.hVminI32 d b) := by
  obtain ⟨-, -, h3, h4, h5, -⟩ := hv_fields b d 6#4
  exact of_hv b d 6#4 rfl (fun _ => by simp) (by simp [decHV, h3, h4, h5])
theorem hVmaxI32 (d : Reg) (b : Reg) : Statement (.hVmaxI32 d b) := by
  obtain ⟨-, -, h3, h4, h5, -⟩ := hv_fields b d 7#4
  exact of_hv b d 7#4 rfl (fun _ => by simp) (by simp [decHV, h3, h4, h5])
theorem hVfaddF32 (d : Reg) (b : Reg) : Statement (.hVfaddF32 d b) := by
  obtain ⟨-, -, h3, h4, h5, -⟩ := hv_fields b d 8#4
  exact of_hv b d 8#4 rfl (fun _ => by simp) (by simp [decHV, h3, h4, h5])
theorem hVfsubF32 (d : Reg) (b : Reg) : Statement (.hVfsubF32 d b) := by
  obtain ⟨-, -, h3, h4, h5, -⟩ := hv_fields b d 9#4
  exact of_hv b d 9#4 rfl (fun _ => by simp) (by simp [decHV, h3, h4, h5])
theorem hVfmulF32 (d : Reg) (b : Reg) : Statement (.hVfmulF32 d b) := by
  obtain ⟨-, -, h3, h4, h5, -⟩ := hv_fields b d 10#4
  exact of_hv b d 10#4 rfl (fun _ => by simp) (by simp [decHV, h3, h4, h5])
theorem hVfminF32 (d : Reg) (b : Reg) : Statement (.hVfminF32 d b) := by
  obtain ⟨-, -, h3, h4, h5, -⟩ := hv_fields b d 11#4
  exact of_hv b d 11#4 rfl (fun _ => by simp) (by simp [decHV, h3, h4, h5])
theorem hVfmaxF32 (d : Reg) (b : Reg) : Statement (.hVfmaxF32 d b) := by
  obtain ⟨-, -, h3, h4, h5, -⟩ := hv_fields b d 12#4
  exact of_hv b d 12#4 rfl (fun _ => by simp) (by simp [decHV, h3, h4, h5])
theorem hVfaddBf16 (d : Reg) (b : Reg) : Statement (.hVfaddBf16 d b) := by
  obtain ⟨-, -, h3, h4, h5, -⟩ := hv_fields b d 13#4
  exact of_hv b d 13#4 rfl (fun _ => by simp) (by simp [decHV, h3, h4, h5])
theorem hVfmulBf16 (d : Reg) (b : Reg) : Statement (.hVfmulBf16 d b) := by
  obtain ⟨-, -, h3, h4, h5, -⟩ := hv_fields b d 14#4
  exact of_hv b d 14#4 rfl (fun _ => by simp) (by simp [decHV, h3, h4, h5])
theorem hVmov (d : Reg) (b : Reg) : Statement (.hVmov d b) := by
  obtain ⟨-, -, h3, h4, h5, -⟩ := hv_fields b d 15#4
  exact of_hv b d 15#4 rfl (fun _ => by simp) (by simp [decHV, h3, h4, h5])
theorem hAddi (d : Reg) (i : BitVec 6) : Statement (.hAddi d i) := by
  obtain ⟨h1, h2, h3, h4, h5⟩ := hs_fields i d 0#3
  exact of_hs _ rfl h1 h2 (by simp [decHS, h3, h4, h5])
theorem hMove (d : Reg) (a : Reg) : Statement (.hMove d a) := by
  obtain ⟨h1, h2, h3, h4, h5⟩ := hs_fields (0#1 ++ a) d 1#3
  exact of_hs _ rfl h1 h2 (by simp [decHS, h3, h4, h5])
theorem hLds (d : Reg) (i : BitVec 6) : Statement (.hLds d i) := by
  obtain ⟨h1, h2, h3, h4, h5⟩ := hs_fields i d 2#3
  exact of_hs _ rfl h1 h2 (by simp [decHS, h3, h4, h5])
theorem hSts (b : Reg) (i : BitVec 6) : Statement (.hSts b i) := by
  obtain ⟨h1, h2, h3, h4, h5⟩ := hs_fields i b 3#3
  exact of_hs _ rfl h1 h2 (by simp [decHS, h3, h4, h5])
theorem hBz (a : Reg) (i : BitVec 6) : Statement (.hBz a i) := by
  obtain ⟨h1, h2, h3, h4, h5⟩ := hs_fields i a 4#3
  exact of_hs _ rfl h1 h2 (by simp [decHS, h3, h4, h5])
theorem hBnz (a : Reg) (i : BitVec 6) : Statement (.hBnz a i) := by
  obtain ⟨h1, h2, h3, h4, h5⟩ := hs_fields i a 5#3
  exact of_hs _ rfl h1 h2 (by simp [decHS, h3, h4, h5])
theorem hJmp (i : BitVec 11) : Statement (.hJmp i) := by
  obtain ⟨h1, h2, h3, h4⟩ := hj_fields i 6#3
  exact of_hs _ rfl h1 h2 (by simp [decHS, h3, h4])
theorem hAdd (d : Reg) (a : Reg) : Statement (.hAdd d a) := by
  obtain ⟨h1, h2, h3, h4, h5⟩ := hs_fields (0#1 ++ a) d 7#3
  exact of_hs _ rfl h1 h2 (by simp [decHS, h3, h4, h5])
theorem tyield  : Statement (.tyield) := of_word _ rfl (by simp) (by simp [decodeMajor, dec01])
theorem fetchb  : Statement (.fetchb) := of_word _ rfl (by simp) (by simp [decodeMajor, dec0A])
theorem orswait  : Statement (.orswait) := of_word _ rfl (by simp) (by simp [decodeMajor, dec16])
theorem rfence  : Statement (.rfence) := of_word _ rfl (by simp) (by simp [decodeMajor, dec17])
theorem twswap  : Statement (.twswap) := of_word _ rfl (by simp) (by simp [decodeMajor, dec22])
theorem tsync  : Statement (.tsync) := of_word _ rfl (by simp) (by simp [decodeMajor, dec25])
theorem ecall  : Statement (.ecall) := of_word _ rfl (by simp) (by simp [decodeMajor, dec2C])
theorem ebreak  : Statement (.ebreak) := of_word _ rfl (by simp) (by simp [decodeMajor, dec2C])
theorem eret  : Statement (.eret) := of_word _ rfl (by simp) (by simp [decodeMajor, dec2C])
theorem wfi  : Statement (.wfi) := of_word _ rfl (by simp) (by simp [decodeMajor, dec2C])
theorem rgn  : Statement (.rgn) := of_word _ rfl (by simp) (by simp [decodeMajor, dec2F])
theorem cstep  : Statement (.cstep) := of_word _ rfl (by simp) (by simp [decodeMajor, dec2F])
theorem interruptEntry (p : Nat) : Statement (.interruptEntry p) := of_event rfl
theorem sliceTimerExpiry (p : Nat) : Statement (.sliceTimerExpiry p) := of_event rfl
theorem waitneRecheck (p : Nat) : Statement (.waitneRecheck p) := of_event rfl
theorem fetchCycle (core : Nat) : Statement (.fetchCycle core) := of_event rfl
theorem branchMispredict (p : Nat) (seq : Nat) : Statement (.branchMispredict p seq) := of_event rfl
theorem teRetire (p : Nat) (seq : Nat) : Statement (.teRetire p seq) := of_event rfl
theorem arrayArbiterDecision (cl : Nat) : Statement (.arrayArbiterDecision cl) := of_event rfl
theorem planeLoadComplete (cl : Nat) : Statement (.planeLoadComplete cl) := of_event rfl
theorem arrayOpComplete (cl : Nat) : Statement (.arrayOpComplete cl) := of_event rfl
theorem twldPlaneComplete (p : Nat) : Statement (.twldPlaneComplete p) := of_event rfl
theorem tileRowArrival (p : Nat) : Statement (.tileRowArrival p) := of_event rfl
theorem engweightWrite (cl : Nat) (v : BitVec 64) : Statement (.engweightWrite cl v) := of_event rfl
theorem bardescWrite (layer : Nat) (n : Nat) (v : BitVec 64) : Statement (.bardescWrite layer n v) := of_event rfl
theorem sliceWrite (p : Nat) (v : BitVec 64) : Statement (.sliceWrite p v) := of_event rfl
theorem ctxWrite (p : Nat) (v : BitVec 64) : Statement (.ctxWrite p v) := of_event rfl
theorem ropeslotWrite (layer : Nat) (n : Nat) (v : BitVec 64) : Statement (.ropeslotWrite layer n v) := of_event rfl
theorem snapctlAbort  : Statement (.snapctlAbort) := of_event rfl
theorem remoteRequestArrival (id : Nat) : Statement (.remoteRequestArrival id) := of_event rfl
theorem retryReissue (id : Nat) : Statement (.retryReissue id) := of_event rfl
theorem faultDeferralExpiry (p : Nat) : Statement (.faultDeferralExpiry p) := of_event rfl
theorem remoteStoreAtHome (id : Nat) : Statement (.remoteStoreAtHome id) := of_event rfl
theorem remoteStoreAck (id : Nat) : Statement (.remoteStoreAck id) := of_event rfl
theorem remoteStoreDenial (id : Nat) : Statement (.remoteStoreDenial id) := of_event rfl
theorem raddAtHome (id : Nat) : Statement (.raddAtHome id) := of_event rfl
theorem combineWindowExpiry (id : Nat) : Statement (.combineWindowExpiry id) := of_event rfl
theorem mergedFillReturn (id : Nat) (data : BitVec 512) : Statement (.mergedFillReturn id data) := of_event rfl
theorem lineFillResponse (id : Nat) (data : BitVec 512) : Statement (.lineFillResponse id data) := of_event rfl
theorem orphanTimeout (id : Nat) : Statement (.orphanTimeout id) := of_event rfl
theorem die9Timeout (id : Nat) : Statement (.die9Timeout id) := of_event rfl
theorem copyPieceArrivalUpdate (id : Nat) (piece : Nat) : Statement (.copyPieceArrivalUpdate id piece) := of_event rfl
theorem copyCompletion (id : Nat) : Statement (.copyCompletion id) := of_event rfl
theorem copyFaultStop (id : Nat) : Statement (.copyFaultStop id) := of_event rfl
theorem messageArrival (queue : Nat) (sender : Nat) (data : List (BitVec 8)) : Statement (.messageArrival queue sender data) := of_event rfl
theorem messagePlacementTimeout (id : Nat) : Statement (.messagePlacementTimeout id) := of_event rfl
theorem msendCompletion (id : Nat) (status : Nat) (detail : Nat) (len : Nat) : Statement (.msendCompletion id status detail len) := of_event rfl
theorem ropeSlotTransmit  : Statement (.ropeSlotTransmit) := of_event rfl
theorem ropeVeto (layer : Nat) : Statement (.ropeVeto layer) := of_event rfl
theorem ropeOrderedApply  : Statement (.ropeOrderedApply) := of_event rfl
theorem ropeBeatReceive  : Statement (.ropeBeatReceive) := of_event rfl
theorem slotTableTakeForce  : Statement (.slotTableTakeForce) := of_event rfl
theorem barrierSweepToken (layer : Nat) (n : Nat) (cl : Nat) : Statement (.barrierSweepToken layer n cl) := of_event rfl
theorem barrierRelease (layer : Nat) (n : Nat) (cl : Nat) : Statement (.barrierRelease layer n cl) := of_event rfl
theorem routerPowerGate (layer : Nat) (cl : Nat) : Statement (.routerPowerGate layer cl) := of_event rfl
theorem routerWake (layer : Nat) (cl : Nat) : Statement (.routerWake layer cl) := of_event rfl
theorem layerWake (layer : Nat) : Statement (.layerWake layer) := of_event rfl
theorem bdHeldRequest (id : Nat) : Statement (.bdHeldRequest id) := of_event rfl
theorem layerFence (layer : Nat) : Statement (.layerFence layer) := of_event rfl
theorem uncorrectableError (struct : Nat) (layer : Nat) (index : Nat) (dirty : Bool) : Statement (.uncorrectableError struct layer index dirty) := of_event rfl
theorem correctedError (struct : Nat) (layer : Nat) (index : Nat) : Statement (.correctedError struct layer index) := of_event rfl
theorem fingerprintExchange (core : Nat) : Statement (.fingerprintExchange core) := of_event rfl
theorem lifetimeHistogramWrite  : Statement (.lifetimeHistogramWrite) := of_event rfl
theorem powerSample (watts : Nat) (island : Nat) : Statement (.powerSample watts island) := of_event rfl
theorem temperatureSample (island : Nat) (celsius : Nat) : Statement (.temperatureSample island celsius) := of_event rfl
theorem pointChangeComplete (island : Nat) : Statement (.pointChangeComplete island) := of_event rfl
theorem cutCloseRound  : Statement (.cutCloseRound) := of_event rfl
theorem podClose  : Statement (.podClose) := of_event rfl
theorem controllerWrite (layer : Nat) (sector : Nat) : Statement (.controllerWrite layer sector) := of_event rfl
theorem drainCompletion (seq : Nat) (status : Nat) : Statement (.drainCompletion seq status) := of_event rfl
theorem drainSend  : Statement (.drainSend) := of_event rfl
theorem hostReqtailWrite (v : BitVec 64) : Statement (.hostReqtailWrite v) := of_event rfl
theorem startCold  : Statement (.startCold) := of_event rfl
theorem startWarm (keep : Bool) : Statement (.startWarm keep) := of_event rfl
theorem hostInboundWrite (off : Nat) (data : List (BitVec 8)) : Statement (.hostInboundWrite off data) := of_event rfl
theorem hostInboundRead (off : Nat) (len : Nat) : Statement (.hostInboundRead off len) := of_event rfl
theorem hostBar0Access (off : Nat) (size : Nat) (write : Bool) (v : BitVec 64) : Statement (.hostBar0Access off size write v) := of_event rfl
theorem rpcCreateContext (c : BitVec 12) : Statement (.rpcCreateContext c) := of_event rfl
theorem rpcLoadCodeObject (frame : Nat) : Statement (.rpcLoadCodeObject frame) := of_event rfl
theorem rpcCreateThread (p : Nat) (sp : BitVec 64) (tp : BitVec 64) : Statement (.rpcCreateThread p sp tp) := of_event rfl
theorem rpcEndContext  : Statement (.rpcEndContext) := of_event rfl
theorem rpcMapWindow  : Statement (.rpcMapWindow) := of_event rfl
theorem rpcArmSnapshot  : Statement (.rpcArmSnapshot) := of_event rfl
theorem rpcManagement  : Statement (.rpcManagement) := of_event rfl
theorem readTableEntry (t : Nat) (i : Nat) : Statement (.readTableEntry t i) := of_event rfl
theorem writeTableEntry (t : Nat) (i : Nat) (v : BitVec 64) : Statement (.writeTableEntry t i v) := of_event rfl
theorem readLifetimeCounter (h : Nat) (u : Nat) (bin : Nat) : Statement (.readLifetimeCounter h u bin) := of_event rfl
theorem readDropCounts (layer : Nat) (cls : Nat) : Statement (.readDropCounts layer cls) := of_event rfl
theorem basecampStart (v : BitVec 64) : Statement (.basecampStart v) := of_event rfl
theorem sleepLayer (layer : Nat) : Statement (.sleepLayer layer) := of_event rfl
theorem wakeLayer (layer : Nat) : Statement (.wakeLayer layer) := of_event rfl
theorem writeBdSlot (slot : Nat) (v : BitVec 64) : Statement (.writeBdSlot slot v) := of_event rfl
theorem registerLayerSet (c : Nat) (mask : BitVec 8) : Statement (.registerLayerSet c mask) := of_event rfl
theorem illegalOrReservedEncoding (w : BitVec 32) : Statement (.illegalOrReservedEncoding w) := of_event rfl
theorem packageReset  : Statement (.packageReset) := of_event rfl
theorem hostDevstateRead  : Statement (.hostDevstateRead) := of_event rfl
theorem outboundReadTimeout (id : Nat) : Statement (.outboundReadTimeout id) := of_event rfl
theorem hostInboundAtomicop  : Statement (.hostInboundAtomicop) := of_event rfl
theorem layerRestart (layer : Nat) : Statement (.layerRestart layer) := of_event rfl

end Sys2Proof.Laws.RoundTrip
end

