-- ==== Sys2Proof/Tests/Slice0.lean ====
section
/-!
SUPPORT. Tests: an encoded word for every row of the opcode table, terms that are not well formed, a witness for the hypotheses of every
statement, and single instructions with the values of the spec's worked examples or worked by hand.
-/

namespace Sys2Proof.Tests

open Sys2Proof Sys2Proof.Machine

-- One thread: the tests evaluate in the kernel one after the other, and a thread for each would exhaust memory.
set_option Elab.async false

/-! ### One word for each row of the opcode table, put together from its match value and its fields (R36 to R61), by major opcode -/

theorem test_decode_major_00 :
    decodeWord 0x0026A281#32 = some (.add 5#5 10#5 19#5) ∧
    decodeWord 0x0826A281#32 = some (.sub 5#5 10#5 19#5) ∧
    decodeWord 0x1026A281#32 = some (.and 5#5 10#5 19#5) ∧
    decodeWord 0x1826A281#32 = some (.or 5#5 10#5 19#5) ∧
    decodeWord 0x2026A281#32 = some (.xor 5#5 10#5 19#5) ∧
    decodeWord 0x2826A281#32 = some (.sll 5#5 10#5 19#5) ∧
    decodeWord 0x3026A281#32 = some (.srl 5#5 10#5 19#5) ∧
    decodeWord 0x3826A281#32 = some (.sra 5#5 10#5 19#5) ∧
    decodeWord 0x4026A281#32 = some (.rol 5#5 10#5 19#5) ∧
    decodeWord 0x4826A281#32 = some (.ror 5#5 10#5 19#5) ∧
    decodeWord 0x5026A281#32 = some (.slt 5#5 10#5 19#5) ∧
    decodeWord 0x5826A281#32 = some (.sltu 5#5 10#5 19#5) ∧
    decodeWord 0x6026A281#32 = some (.min 5#5 10#5 19#5) ∧
    decodeWord 0x6826A281#32 = some (.max 5#5 10#5 19#5) ∧
    decodeWord 0x7026A281#32 = some (.minu 5#5 10#5 19#5) ∧
    decodeWord 0x7826A281#32 = some (.maxu 5#5 10#5 19#5) := by decide

theorem test_decode_major_01 :
    decodeWord 0xB2D0A283#32 = some (.addi 5#5 10#5 2861#12) ∧
    decodeWord 0xB2D2A283#32 = some (.andi 5#5 10#5 2861#12) ∧
    decodeWord 0xB2D4A283#32 = some (.ori 5#5 10#5 2861#12) ∧
    decodeWord 0xB2D6A283#32 = some (.xori 5#5 10#5 2861#12) ∧
    decodeWord 0xB2D8A283#32 = some (.slti 5#5 10#5 2861#12) ∧
    decodeWord 0xB2DAA283#32 = some (.sltiu 5#5 10#5 2861#12) ∧
    decodeWord 0x025CA283#32 = some (.slli 5#5 10#5 37#6) ∧
    decodeWord 0x065CA283#32 = some (.srli 5#5 10#5 37#6) ∧
    decodeWord 0x0A5CA283#32 = some (.srai 5#5 10#5 37#6) ∧
    decodeWord 0x0E5CA283#32 = some (.rori 5#5 10#5 37#6) ∧
    decodeWord 0xCB64A003#32 = some (.phint 10#5 813#10 2#2) ∧
    decodeWord 0x00100003#32 = some (.tyield) := by decide

theorem test_decode_major_02 :
    decodeWord 0x0026A285#32 = some (.addw 5#5 10#5 19#5) ∧
    decodeWord 0x0826A285#32 = some (.subw 5#5 10#5 19#5) ∧
    decodeWord 0x2826A285#32 = some (.sllw 5#5 10#5 19#5) ∧
    decodeWord 0x3026A285#32 = some (.srlw 5#5 10#5 19#5) ∧
    decodeWord 0x3826A285#32 = some (.sraw 5#5 10#5 19#5) := by decide

theorem test_decode_major_03 :
    decodeWord 0xB2D0A287#32 = some (.addiw 5#5 10#5 2861#12) ∧
    decodeWord 0x016CA287#32 = some (.slliw 5#5 10#5 22#5) ∧
    decodeWord 0x056CA287#32 = some (.srliw 5#5 10#5 22#5) ∧
    decodeWord 0x096CA287#32 = some (.sraiw 5#5 10#5 22#5) := by decide

theorem test_decode_major_04 :
    decodeWord 0x0026A289#32 = some (.mul 5#5 10#5 19#5) ∧
    decodeWord 0x0826A289#32 = some (.mulh 5#5 10#5 19#5) ∧
    decodeWord 0x1026A289#32 = some (.mulhu 5#5 10#5 19#5) ∧
    decodeWord 0x2026A289#32 = some (.div 5#5 10#5 19#5) ∧
    decodeWord 0x2826A289#32 = some (.divu 5#5 10#5 19#5) ∧
    decodeWord 0x3026A289#32 = some (.rem 5#5 10#5 19#5) ∧
    decodeWord 0x3826A289#32 = some (.remu 5#5 10#5 19#5) ∧
    decodeWord 0x4026A289#32 = some (.mulw 5#5 10#5 19#5) ∧
    decodeWord 0x6026A289#32 = some (.divw 5#5 10#5 19#5) ∧
    decodeWord 0x6826A289#32 = some (.divuw 5#5 10#5 19#5) ∧
    decodeWord 0x7026A289#32 = some (.remw 5#5 10#5 19#5) ∧
    decodeWord 0x7826A289#32 = some (.remuw 5#5 10#5 19#5) := by decide

theorem test_decode_major_05 :
    decodeWord 0xB2C5D28B#32 = some (.lui 5#5 732253#20) := by decide

theorem test_decode_major_06 :
    decodeWord 0xB2C5D28D#32 = some (.auipc 5#5 732253#20) := by decide

theorem test_decode_major_07 :
    decodeWord 0x0000A28F#32 = some (.clz 5#5 10#5) ∧
    decodeWord 0x0800A28F#32 = some (.ctz 5#5 10#5) ∧
    decodeWord 0x1000A28F#32 = some (.popc 5#5 10#5) ∧
    decodeWord 0x1800A28F#32 = some (.bswap 5#5 10#5) ∧
    decodeWord 0x2000A28F#32 = some (.sextI8 5#5 10#5) ∧
    decodeWord 0x2800A28F#32 = some (.sextI16 5#5 10#5) ∧
    decodeWord 0x3000A28F#32 = some (.sextI32 5#5 10#5) ∧
    decodeWord 0x3800A28F#32 = some (.zextN8 5#5 10#5) ∧
    decodeWord 0x4000A28F#32 = some (.zextN16 5#5 10#5) ∧
    decodeWord 0x4800A28F#32 = some (.zextN32 5#5 10#5) ∧
    decodeWord 0x5726A28F#32 = some (.sel 5#5 10#5 19#5 28#5) ∧
    decodeWord 0x58A6A28F#32 = some (.shadd 5#5 10#5 19#5 2#2) ∧
    decodeWord 0x6026A28F#32 = some (.mkva 5#5 10#5 19#5) ∧
    decodeWord 0x6A40A28F#32 = some (.mkvai 5#5 10#5 9#4) := by decide

theorem test_decode_major_08 :
    decodeWord 0xB226A691#32 = some (.beq 10#5 19#5 2861#12) ∧
    decodeWord 0xB266A691#32 = some (.bne 10#5 19#5 2861#12) ∧
    decodeWord 0xB326A691#32 = some (.blt 10#5 19#5 2861#12) ∧
    decodeWord 0xB366A691#32 = some (.bge 10#5 19#5 2861#12) ∧
    decodeWord 0xB3A6A691#32 = some (.bltu 10#5 19#5 2861#12) ∧
    decodeWord 0xB3E6A691#32 = some (.bgeu 10#5 19#5 2861#12) := by decide

theorem test_decode_major_09 :
    decodeWord 0xB2C5D293#32 = some (.jal 5#5 732253#20) := by decide

theorem test_decode_major_0a :
    decodeWord 0xB2D0A295#32 = some (.jalr 5#5 10#5 2861#12) ∧
    decodeWord 0x00020015#32 = some (.fetchb) := by decide

theorem test_decode_major_0b :
    decodeWord 0xB2D2A017#32 = some (.loop 1#1 10#5 2861#12) ∧
    decodeWord 0xB2D79697#32 = some (.loopi 1#1 441#10 2861#12) := by decide

theorem test_decode_major_0c :
    decodeWord 0x0526A299#32 = some (.fadd 2#2 4#3 5#5 10#5 19#5) ∧
    decodeWord 0x0D26A299#32 = some (.fsub 2#2 4#3 5#5 10#5 19#5) ∧
    decodeWord 0x1526A299#32 = some (.fmul 2#2 4#3 5#5 10#5 19#5) ∧
    decodeWord 0x1D26A299#32 = some (.fdiv 2#2 4#3 5#5 10#5 19#5) ∧
    decodeWord 0x2500A299#32 = some (.fsqrt 2#2 4#3 5#5 10#5) ∧
    decodeWord 0x2C26A299#32 = some (.fmin 2#2 5#5 10#5 19#5) ∧
    decodeWord 0x3426A299#32 = some (.fmax 2#2 5#5 10#5 19#5) ∧
    decodeWord 0x3C26A299#32 = some (.fcpsgn 2#2 5#5 10#5 19#5) ∧
    decodeWord 0x4426A299#32 = some (.fxsgn 2#2 5#5 10#5 19#5) ∧
    decodeWord 0x4C00A299#32 = some (.fneg 2#2 5#5 10#5) ∧
    decodeWord 0x5400A299#32 = some (.fabs 2#2 5#5 10#5) ∧
    decodeWord 0x5800A299#32 = some (.fmov 5#5 10#5) := by decide

theorem test_decode_major_0d :
    decodeWord 0x2F26A29B#32 = some (.fma 2#2 1#1 5#5 10#5 19#5 28#5) ∧
    decodeWord 0x6F26A29B#32 = some (.fms 2#2 1#1 5#5 10#5 19#5 28#5) ∧
    decodeWord 0xAF26A29B#32 = some (.fnma 2#2 1#1 5#5 10#5 19#5 28#5) ∧
    decodeWord 0xEF26A29B#32 = some (.fnms 2#2 1#1 5#5 10#5 19#5 28#5) := by decide

theorem test_decode_major_0e :
    decodeWord 0x0502A29D#32 = some (.fcvtFf 2#2 4#3 1#2 5#5 10#5) ∧
    decodeWord 0x0D06A29D#32 = some (.fcvtFInt 2#2 4#3 1#1 1#1 5#5 10#5) ∧
    decodeWord 0x1506A29D#32 = some (.fcvtIntF 2#2 4#3 1#1 1#1 5#5 10#5) ∧
    decodeWord 0x1C00A29D#32 = some (.fmvx 2#2 5#5 10#5) ∧
    decodeWord 0x2400A29D#32 = some (.fmvf 2#2 5#5 10#5) := by decide

theorem test_decode_major_0f :
    decodeWord 0x0426A29F#32 = some (.feq 2#2 5#5 10#5 19#5) ∧
    decodeWord 0x0C26A29F#32 = some (.flt 2#2 5#5 10#5 19#5) ∧
    decodeWord 0x1426A29F#32 = some (.fle 2#2 5#5 10#5 19#5) ∧
    decodeWord 0x1C00A29F#32 = some (.fclass 2#2 5#5 10#5) := by decide

theorem test_decode_major_10 :
    decodeWord 0xB2D0A2A1#32 = some (.ldI8 5#5 10#5 2861#12) ∧
    decodeWord 0xB2D2A2A1#32 = some (.ldI16 5#5 10#5 2861#12) ∧
    decodeWord 0xB2D4A2A1#32 = some (.ldI32 5#5 10#5 2861#12) ∧
    decodeWord 0xB2D6A2A1#32 = some (.ldI64 5#5 10#5 2861#12) ∧
    decodeWord 0xB2D8A2A1#32 = some (.ldN8 5#5 10#5 2861#12) ∧
    decodeWord 0xB2DAA2A1#32 = some (.ldN16 5#5 10#5 2861#12) ∧
    decodeWord 0xB2DCA2A1#32 = some (.ldN32 5#5 10#5 2861#12) ∧
    decodeWord 0xB2DEA121#32 = some (.pref 2#5 10#5 2861#12) := by decide

theorem test_decode_major_11 :
    decodeWord 0xB226A6A3#32 = some (.stI8 10#5 19#5 2861#12) ∧
    decodeWord 0xB266A6A3#32 = some (.stI16 10#5 19#5 2861#12) ∧
    decodeWord 0xB2A6A6A3#32 = some (.stI32 10#5 19#5 2861#12) ∧
    decodeWord 0xB2E6A6A3#32 = some (.stI64 10#5 19#5 2861#12) := by decide

theorem test_decode_major_12 :
    decodeWord 0xB2D2A2A5#32 = some (.fldF16 5#5 10#5 2861#12) ∧
    decodeWord 0xB2D4A2A5#32 = some (.fldF32 5#5 10#5 2861#12) ∧
    decodeWord 0xB2D6A2A5#32 = some (.fldF64 5#5 10#5 2861#12) := by decide

theorem test_decode_major_13 :
    decodeWord 0xB266A6A7#32 = some (.fstF16 10#5 19#5 2861#12) ∧
    decodeWord 0xB2A6A6A7#32 = some (.fstF32 10#5 19#5 2861#12) ∧
    decodeWord 0xB2E6A6A7#32 = some (.fstF64 10#5 19#5 2861#12) := by decide

theorem test_decode_major_14 :
    decodeWord 0x0626A2A9#32 = some (.amoadd 1#1 5#5 10#5 19#5) ∧
    decodeWord 0x0E26A2A9#32 = some (.amoswap 1#1 5#5 10#5 19#5) ∧
    decodeWord 0x1626A2A9#32 = some (.amoand 1#1 5#5 10#5 19#5) ∧
    decodeWord 0x1E26A2A9#32 = some (.amoor 1#1 5#5 10#5 19#5) ∧
    decodeWord 0x2626A2A9#32 = some (.amoxor 1#1 5#5 10#5 19#5) ∧
    decodeWord 0x2E26A2A9#32 = some (.amomin 1#1 5#5 10#5 19#5) ∧
    decodeWord 0x3626A2A9#32 = some (.amomax 1#1 5#5 10#5 19#5) ∧
    decodeWord 0x3E26A2A9#32 = some (.amominu 1#1 5#5 10#5 19#5) ∧
    decodeWord 0x4626A2A9#32 = some (.amomaxu 1#1 5#5 10#5 19#5) ∧
    decodeWord 0x4E26A2A9#32 = some (.cas 1#1 5#5 10#5 19#5) ∧
    decodeWord 0x5626A029#32 = some (.radd 1#1 10#5 19#5) ∧
    decodeWord 0x5E26A029#32 = some (.raddF 1#1 10#5 19#5) := by decide

theorem test_decode_major_15 :
    decodeWord 0x0700A2AB#32 = some (.ldAcq 1#1 2#2 5#5 10#5) ∧
    decodeWord 0x0F26A02B#32 = some (.stRel 1#1 2#2 10#5 19#5) := by decide

theorem test_decode_major_16 :
    decodeWord 0x0400002D#32 = some (.fence 2#2) ∧
    decodeWord 0x0800902D#32 = some (.bar 9#4) ∧
    decodeWord 0x1000902D#32 = some (.barwait 9#4) ∧
    decodeWord 0x1E26A02D#32 = some (.waitne 1#1 10#5 19#5) ∧
    decodeWord 0x200002AD#32 = some (.sigrd 5#5) ∧
    decodeWord 0x2800A02D#32 = some (.sigclr 10#5) ∧
    decodeWord 0x3000002D#32 = some (.orswait) := by decide

theorem test_decode_major_17 :
    decodeWord 0x0626A02F#32 = some (.rst 1#1 10#5 19#5) ∧
    decodeWord 0x0E26A02F#32 = some (.rstRel 1#1 10#5 19#5) ∧
    decodeWord 0x1726A2AF#32 = some (.ramo 1#1 4#3 5#5 10#5 19#5) ∧
    decodeWord 0x1E26A2AF#32 = some (.rcas 1#1 5#5 10#5 19#5) ∧
    decodeWord 0x2000002F#32 = some (.rfence) := by decide

theorem test_decode_major_18 :
    decodeWord 0x0566A2B1#32 = some (.vadd 2#2 5#3 5#5 10#5 19#5) ∧
    decodeWord 0x0D66A2B1#32 = some (.vsub 2#2 5#3 5#5 10#5 19#5) ∧
    decodeWord 0x1566A2B1#32 = some (.vmul 2#2 5#3 5#5 10#5 19#5) ∧
    decodeWord 0x1D66A2B1#32 = some (.vmulh 2#2 5#3 5#5 10#5 19#5) ∧
    decodeWord 0x2566A2B1#32 = some (.vmin 2#2 5#3 5#5 10#5 19#5) ∧
    decodeWord 0x2D66A2B1#32 = some (.vmax 2#2 5#3 5#5 10#5 19#5) ∧
    decodeWord 0x3566A2B1#32 = some (.vminu 2#2 5#3 5#5 10#5 19#5) ∧
    decodeWord 0x3D66A2B1#32 = some (.vmaxu 2#2 5#3 5#5 10#5 19#5) ∧
    decodeWord 0x4566A2B1#32 = some (.vand 2#2 5#3 5#5 10#5 19#5) ∧
    decodeWord 0x4D66A2B1#32 = some (.vor 2#2 5#3 5#5 10#5 19#5) ∧
    decodeWord 0x5566A2B1#32 = some (.vxor 2#2 5#3 5#5 10#5 19#5) ∧
    decodeWord 0x5D66A2B1#32 = some (.vsll 2#2 5#3 5#5 10#5 19#5) ∧
    decodeWord 0x6566A2B1#32 = some (.vsrl 2#2 5#3 5#5 10#5 19#5) ∧
    decodeWord 0x6D66A2B1#32 = some (.vsra 2#2 5#3 5#5 10#5 19#5) := by decide

theorem test_decode_major_19 :
    decodeWord 0x0566A2B3#32 = some (.vfadd 2#2 5#3 5#5 10#5 19#5) ∧
    decodeWord 0x0D66A2B3#32 = some (.vfsub 2#2 5#3 5#5 10#5 19#5) ∧
    decodeWord 0x1566A2B3#32 = some (.vfmul 2#2 5#3 5#5 10#5 19#5) ∧
    decodeWord 0x1D66A2B3#32 = some (.vfdiv 2#2 5#3 5#5 10#5 19#5) ∧
    decodeWord 0x2566A2B3#32 = some (.vfmin 2#2 5#3 5#5 10#5 19#5) ∧
    decodeWord 0x2D66A2B3#32 = some (.vfmax 2#2 5#3 5#5 10#5 19#5) ∧
    decodeWord 0x3540A2B3#32 = some (.vfsqrt 2#2 5#3 5#5 10#5) ∧
    decodeWord 0x3D40A2B3#32 = some (.vfrcp 2#2 5#3 5#5 10#5) ∧
    decodeWord 0x4540A2B3#32 = some (.vfrsq 2#2 5#3 5#5 10#5) ∧
    decodeWord 0x4D40A2B3#32 = some (.vfexp2 2#2 5#3 5#5 10#5) := by decide

theorem test_decode_major_1a :
    decodeWord 0x0566A2B5#32 = some (.vfma 2#2 5#3 5#5 10#5 19#5) ∧
    decodeWord 0x0D66A2B5#32 = some (.vfms 2#2 5#3 5#5 10#5 19#5) ∧
    decodeWord 0x1566A2B5#32 = some (.vfnma 2#2 5#3 5#5 10#5 19#5) ∧
    decodeWord 0x1D66A2B5#32 = some (.vfnms 2#2 5#3 5#5 10#5 19#5) := by decide

theorem test_decode_major_1b :
    decodeWord 0x0566A2B7#32 = some (.vcmpeq 2#2 5#3 5#3 10#5 19#5) ∧
    decodeWord 0x0D66A2B7#32 = some (.vcmpne 2#2 5#3 5#3 10#5 19#5) ∧
    decodeWord 0x1566A2B7#32 = some (.vcmplt 2#2 5#3 5#3 10#5 19#5) ∧
    decodeWord 0x1D66A2B7#32 = some (.vcmple 2#2 5#3 5#3 10#5 19#5) ∧
    decodeWord 0x2566A2B7#32 = some (.vcmpltu 2#2 5#3 5#3 10#5 19#5) ∧
    decodeWord 0x2D66A2B7#32 = some (.vcmpleu 2#2 5#3 5#3 10#5 19#5) ∧
    decodeWord 0x4566A2B7#32 = some (.vfcmpeq 2#2 5#3 5#3 10#5 19#5) ∧
    decodeWord 0x4D66A2B7#32 = some (.vfcmplt 2#2 5#3 5#3 10#5 19#5) ∧
    decodeWord 0x5566A2B7#32 = some (.vfcmple 2#2 5#3 5#3 10#5 19#5) ∧
    decodeWord 0x8566A2B7#32 = some (.vsel 2#2 5#3 5#5 10#5 19#5) := by decide

theorem test_decode_major_1c :
    decodeWord 0x0540A2B9#32 = some (.vbcast 2#2 5#3 5#5 10#5) ∧
    decodeWord 0x0C26A2B9#32 = some (.vextr 2#2 5#5 10#5 19#5) ∧
    decodeWord 0x1426A2B9#32 = some (.vinsr 2#2 5#5 10#5 19#5) ∧
    decodeWord 0x1D66A2B9#32 = some (.vperm 2#2 5#3 5#5 10#5 19#5) ∧
    decodeWord 0x2540A2B9#32 = some (.vredAdd 2#2 5#3 5#5 10#5) ∧
    decodeWord 0x2D40A2B9#32 = some (.vredMin 2#2 5#3 5#5 10#5) ∧
    decodeWord 0x3540A2B9#32 = some (.vredMax 2#2 5#3 5#5 10#5) ∧
    decodeWord 0x3D40A2B9#32 = some (.vredMinu 2#2 5#3 5#5 10#5) ∧
    decodeWord 0x4540A2B9#32 = some (.vredMaxu 2#2 5#3 5#5 10#5) ∧
    decodeWord 0x6540A2B9#32 = some (.vfredAdd 2#2 5#3 5#5 10#5) ∧
    decodeWord 0x6D40A2B9#32 = some (.vfredMin 2#2 5#3 5#5 10#5) ∧
    decodeWord 0x7540A2B9#32 = some (.vfredMax 2#2 5#3 5#5 10#5) := by decide

theorem test_decode_major_1d :
    decodeWord 0x14D2A2BB#32 = some (.vcvt 2#4 9#4 1#1 3#3 5#5 10#5) ∧
    decodeWord 0x8140A2BB#32 = some (.vcvtF32I32 5#3 5#5 10#5) ∧
    decodeWord 0x8940A2BB#32 = some (.vcvtI32F32 5#3 5#5 10#5) ∧
    decodeWord 0x9140A2BB#32 = some (.vcvtF64I64 5#3 5#5 10#5) ∧
    decodeWord 0x9940A2BB#32 = some (.vcvtI64F64 5#3 5#5 10#5) := by decide

theorem test_decode_major_1e :
    decodeWord 0x0540A2BD#32 = some (.vld 2#2 5#3 5#5 10#5) ∧
    decodeWord 0x0D40A2BD#32 = some (.vst 2#2 5#3 5#5 10#5) ∧
    decodeWord 0x1566A2BD#32 = some (.vlds 2#2 5#3 5#5 10#5 19#5) ∧
    decodeWord 0x1D66A2BD#32 = some (.vsts 2#2 5#3 5#5 10#5 19#5) := by decide

theorem test_decode_major_1f :
    decodeWord 0x0566A2BF#32 = some (.vgather 2#2 5#3 5#5 10#5 19#5) ∧
    decodeWord 0x0D66A2BF#32 = some (.vscatter 2#2 5#3 5#5 10#5 19#5) := by decide

theorem test_decode_major_20 :
    decodeWord 0x0026A2C1#32 = some (.tld 5#3 10#5 19#5) ∧
    decodeWord 0x0426A0C1#32 = some (.acld 1#2 10#5 19#5) ∧
    decodeWord 0x080000C1#32 = some (.aczero 1#2) := by decide

theorem test_decode_major_21 :
    decodeWord 0x2226A0C3#32 = some (.acst 1#1 8#4 1#2 10#5 19#5) := by decide

theorem test_decode_major_22 :
    decodeWord 0x2240A045#32 = some (.twld 0#1 1#1 9#4 10#5 0#5) ∧
    decodeWord 0x04000045#32 = some (.twswap) := by decide

theorem test_decode_major_23 :
    decodeWord 0x224020C7#32 = some (.tmma 1#1 9#4 1#2 2#3) := by decide

theorem test_decode_major_24 :
    decodeWord 0x224020C9#32 = some (.tmmaSp 1#1 9#4 1#2 2#3) ∧
    decodeWord 0x266620C9#32 = some (.tmmaMx 1#1 9#4 1#2 2#3 19#5) := by decide

theorem test_decode_major_25 :
    decodeWord 0x0240A2CB#32 = some (.tmovTv 5#3 9#4 10#5) ∧
    decodeWord 0x064022CB#32 = some (.tmovVt 5#5 2#3 9#4) ∧
    decodeWord 0x0840A0CB#32 = some (.acscale 1#1 1#2 10#5) ∧
    decodeWord 0x0C4000CB#32 = some (.accvt 1#1 1#2) ∧
    decodeWord 0x1C00004B#32 = some (.tsync) := by decide

theorem test_decode_major_28 :
    decodeWord 0x2F26A2D1#32 = some (.cpy 5#3 5#5 10#5 19#5 28#5) ∧
    decodeWord 0x6F24A2D1#32 = some (.cpy2d 5#3 5#5 10#5 18#5 28#5) ∧
    decodeWord 0xAF26A2D1#32 = some (.cpyBc 5#3 5#5 10#5 19#5 28#5) := by decide

theorem test_decode_major_29 :
    decodeWord 0x2E000053#32 = some (.cwait 5#3 96#7) ∧
    decodeWord 0x280202D3#32 = some (.cpoll 5#5 5#3) ∧
    decodeWord 0x28040053#32 = some (.ccancel 5#3) := by decide

theorem test_decode_major_2a :
    decodeWord 0x1726A2D5#32 = some (.msend 1#1 5#5 10#5 19#5 28#5) ∧
    decodeWord 0x0F26A2D5#32 = some (.mpost 5#5 10#5 19#5 28#5) := by decide

theorem test_decode_major_2c :
    decodeWord 0x00000059#32 = some (.ecall) ∧
    decodeWord 0x00100059#32 = some (.ebreak) ∧
    decodeWord 0x00200059#32 = some (.eret) ∧
    decodeWord 0x00300059#32 = some (.wfi) := by decide

theorem test_decode_major_2d :
    decodeWord 0xB2D002DB#32 = some (.csrr 5#5 2861#12) ∧
    decodeWord 0xB2D2A2DB#32 = some (.csrw 5#5 10#5 2861#12) ∧
    decodeWord 0xB2D4A2DB#32 = some (.csrs 5#5 10#5 2861#12) ∧
    decodeWord 0xB2D6A2DB#32 = some (.csrc 5#5 10#5 2861#12) := by decide

theorem test_decode_major_2e :
    decodeWord 0x0026A05D#32 = some (.tlbi 10#5 19#5) ∧
    decodeWord 0x0800A05D#32 = some (.tlbia 10#5) ∧
    decodeWord 0x1000A05D#32 = some (.icinv 0#1 10#5) ∧
    decodeWord 0x1800A05D#32 = some (.dcwb 0#1 10#5) ∧
    decodeWord 0x2000A05D#32 = some (.dcinv 0#1 10#5) ∧
    decodeWord 0x2800A05D#32 = some (.dcflush 0#1 10#5) := by decide

theorem test_decode_major_2f :
    decodeWord 0x0000A05F#32 = some (.ctxsave 10#5) ∧
    decodeWord 0x0826A05F#32 = some (.ctxload 10#5 19#5) ∧
    decodeWord 0x1000A2DF#32 = some (.kill 5#5 10#5) ∧
    decodeWord 0x1826A2DF#32 = some (.reclaim 5#5 10#5 19#5) ∧
    decodeWord 0x2000A2DF#32 = some (.fqpop 5#5 10#5) ∧
    decodeWord 0x2800A05F#32 = some (.replay 10#5) ∧
    decodeWord 0x380002DF#32 = some (.pair 5#5) ∧
    decodeWord 0x400002DF#32 = some (.unpair 5#5) ∧
    decodeWord 0x5000A2DF#32 = some (.snaparm 5#5 10#5) ∧
    decodeWord 0x3000005F#32 = some (.rgn) ∧
    decodeWord 0x4800005F#32 = some (.cstep) := by decide

theorem test_decode_halves_0 :
    decodeHalf 0x9940#16 = some (.hVaddI32 5#5 19#5) ∧
    decodeHalf 0x9944#16 = some (.hVsubI32 5#5 19#5) ∧
    decodeHalf 0x9948#16 = some (.hVaddI64 5#5 19#5) ∧
    decodeHalf 0x994C#16 = some (.hVandN64 5#5 19#5) ∧
    decodeHalf 0x9950#16 = some (.hVorN64 5#5 19#5) ∧
    decodeHalf 0x9954#16 = some (.hVxorN64 5#5 19#5) ∧
    decodeHalf 0x9958#16 = some (.hVminI32 5#5 19#5) ∧
    decodeHalf 0x995C#16 = some (.hVmaxI32 5#5 19#5) ∧
    decodeHalf 0x9960#16 = some (.hVfaddF32 5#5 19#5) ∧
    decodeHalf 0x9964#16 = some (.hVfsubF32 5#5 19#5) ∧
    decodeHalf 0x9968#16 = some (.hVfmulF32 5#5 19#5) ∧
    decodeHalf 0x996C#16 = some (.hVfminF32 5#5 19#5) := by decide

theorem test_decode_halves_1 :
    decodeHalf 0x9970#16 = some (.hVfmaxF32 5#5 19#5) ∧
    decodeHalf 0x9974#16 = some (.hVfaddBf16 5#5 19#5) ∧
    decodeHalf 0x9978#16 = some (.hVfmulBf16 5#5 19#5) ∧
    decodeHalf 0x997C#16 = some (.hVmov 5#5 19#5) ∧
    decodeHalf 0x94A2#16 = some (.hAddi 5#5 37#6) ∧
    decodeHalf 0x28A6#16 = some (.hMove 5#5 10#5) ∧
    decodeHalf 0x94AA#16 = some (.hLds 5#5 37#6) ∧
    decodeHalf 0x966E#16 = some (.hSts 19#5 37#6) ∧
    decodeHalf 0x9552#16 = some (.hBz 10#5 37#6) ∧
    decodeHalf 0x9556#16 = some (.hBnz 10#5 37#6) ∧
    decodeHalf 0xB2DA#16 = some (.hJmp 1430#11) ∧
    decodeHalf 0x28BE#16 = some (.hAdd 5#5 10#5) := by decide

/-! ### Ill-formed terms: one for each check of `Instr.wf` (R43, R45, R46, R51, R53, R56 to R59) -/

theorem test_wf_refuses_control :
    (Instr.addi 0#5 0#5 1#12).wf = false ∧ (Instr.ori 0#5 3#5 5#12).wf = false ∧ (Instr.phint 3#5 1#10 0#2).wf = false ∧
      (Instr.loop 0#1 3#5 2#12).wf = false ∧ (Instr.loopi 1#1 3#10 0#12).wf = false := by decide

theorem test_wf_refuses_scalar_modes :
    (Instr.fadd 1#2 6#3 1#5 2#5 3#5).wf = false ∧ (Instr.fsub 1#2 7#3 1#5 2#5 3#5).wf = false ∧ (Instr.fmul 1#2 6#3 1#5 2#5 3#5).wf = false ∧
      (Instr.fdiv 1#2 7#3 1#5 2#5 3#5).wf = false ∧ (Instr.fsqrt 1#2 6#3 1#5 2#5).wf = false ∧
      (Instr.fcvtFf 1#2 6#3 2#2 1#5 2#5).wf = false ∧ (Instr.fcvtFf 1#2 0#3 1#2 1#5 2#5).wf = false ∧
      (Instr.fcvtFInt 1#2 7#3 0#1 0#1 1#5 2#5).wf = false ∧ (Instr.fcvtIntF 1#2 6#3 0#1 0#1 1#5 2#5).wf = false := by decide

theorem test_wf_refuses_memory_and_vector :
    (Instr.pref 3#5 1#5 0#12).wf = false ∧ (Instr.ramo 0#1 5#3 1#5 2#5 3#5).wf = false ∧
      (Instr.vcvt 2#4 2#4 0#1 0#3 1#5 2#5).wf = false ∧ (Instr.vcvt 0#4 4#4 0#1 0#3 1#5 2#5).wf = false ∧
      (Instr.vcvt 10#4 1#4 0#1 0#3 1#5 2#5).wf = false ∧ (Instr.hVaddI32 0#5 0#5).wf = false := by decide

theorem test_wf_refuses_tile :
    (Instr.acst 0#1 6#4 0#2 1#5 2#5).wf = false ∧ (Instr.twld 0#1 0#1 1#4 1#5 0#5).wf = false ∧ (Instr.twld 0#1 0#1 6#4 1#5 0#5).wf = false ∧
      (Instr.twld 0#1 0#1 4#4 1#5 2#5).wf = false ∧ (Instr.twld 0#1 0#1 10#4 1#5 0#5).wf = false ∧ (Instr.twld 0#1 1#1 0#4 1#5 0#5).wf = false ∧
      (Instr.tmma 0#1 1#4 0#2 0#3).wf = false ∧ (Instr.tmma 1#1 2#4 0#2 0#3).wf = false ∧ (Instr.tmmaSp 0#1 0#4 0#2 0#3).wf = false ∧
      (Instr.tmmaMx 0#1 2#4 0#2 0#3 1#5).wf = false := by decide

theorem test_wf_refuses_copy_and_system :
    (Instr.cpy2d 0#3 1#5 2#5 0#5 4#5).wf = false ∧ (Instr.cpy2d 0#3 1#5 2#5 3#5 4#5).wf = false ∧ (Instr.cwait 0#3 97#7).wf = false ∧
      (Instr.icinv 1#1 1#5).wf = false ∧ (Instr.dcwb 1#1 1#5).wf = false ∧ (Instr.dcinv 1#1 1#5).wf = false ∧
      (Instr.dcflush 1#1 1#5).wf = false := by decide

/-- The decoder refuses the words of such terms. -/
theorem test_decoder_refuses_ill_formed :
    decodeWord 0x00218017#32 = none ∧ decodeWord 0x06100053#32 = none ∧ decodeWord 0x01800019#32 = none ∧ decodeWord 0x01800043#32 = none ∧ decodeHalf 0x0000#16 = none ∧
      decodeWord 0xFFFFFFFF#32 = none ∧ decodeWord 0x0000004D#32 = none := by decide

/-- Worked encodings of spec/02, spec/04 and spec/10. -/
theorem test_worked_words :
    decodeWord 0x01862521#32 = some (.ldI64 10#5 2#5 0x018#12) ∧ decodeWord 0xFE405E11#32 = some (.bne 5#5 0#5 0xFFC#12) ∧
    decodeWord 0x00C030C7#32 = some (.tmma 0#1 3#4 1#2 3#3) ∧ decodeWord 0x00100003#32 = some .tyield ∧
    decodeHalf 0x0402#16 = some (.hAddi 0#5 1#6) ∧ decodeWord 0x58CE628F#32 = some (.shadd 5#5 6#5 7#5 3#2) ∧
    decodeWord 0x68C0A50F#32 = some (.mkvai 10#5 10#5 3#4) ∧ decodeWord 0x00805095#32 = some (.jalr 1#5 5#5 8#12) ∧
    decodeWord 0x00020015#32 = some .fetchb ∧ decodeWord 0x00000059#32 = some .ecall ∧ decodeWord 0x00300059#32 = some .wfi ∧
    decodeWord 0x8082505B#32 = some (.csrw 0#5 5#5 0x808#12) ∧ decodeWord 0x1200005D#32 = some (.icinv 1#1 0#5) ∧
    decodeWord 0x1818B55F#32 = some (.reclaim 10#5 11#5 12#5) ∧ decodeWord 0x200062DF#32 = some (.fqpop 5#5 6#5) ∧
    decodeWord 0x3000005F#32 = some .rgn ∧ decodeWord 0x5000B55F#32 = some (.snaparm 10#5 11#5) ∧
    wordBytes 0x3800055F#32 = [0x5F#8, 0x05#8, 0x00#8, 0x38#8] ∧ encode (.pair 10#5) = .word 0x3800055F#32 := by decide

/-! ### Small states -/

/-- A 1 GiB page of DIE 0 at frame 0 with V, R, W, X, A, D and AC, in the TLB of core 0. -/
def page : TlbEntry := ⟨0, 0, Tag.zero, 0, 0, 30, 0x19F#64⟩

/-- The package READY, with thread 0 resident and the page in its core's TLB. -/
def box (u : Thread) : State := { State.reset with devState := 2, startStep := 0, tlb := [page], threads := [(0, u)] }

/-- A supervisor thread with FEN, VEN and TEN, and a few registers. -/
def sup : Thread := { Thread.reset with
  resident := true, status := 0x79#64, pc := 0x4000#64
  x := [(10, 0x2000#64), (11, 8#64), (12, 3#64), (13, 0x00E0000000004000#64), (14, 0x0010000000002000#64), (15, 0xFF00000000000000#64),
        (16, 0x2001#64)] }

/-- The same thread at user level with no unit enabled. -/
def user : Thread := { sup with status := 2#64 }

/-- Every address below 1 GiB of DIE 0 is mapped in a state with the page. -/
theorem box_maps (s : State) (k : AKind) (va : Word) (h1 : s.tlb = [page]) (h2 : s.cur = 0) (h3 : s.layers = []) (h4 : s.th.tag = Tag.zero)
    (hv : va.toNat < 2 ^ 30) : Maps s k va va.toNat 0 := by
  have hd : dieOf va = 0 := by simp only [dieOf, BitVec.extractLsb'_toNat, Nat.shiftRight_eq_div_pow]; omega
  have ho : offOf va = va.toNat := by simp only [offOf, BitVec.extractLsb'_toNat, Nat.shiftRight_eq_div_pow]; omega
  have h8 : va.extractLsb' 56 8 = 0#8 := by
    apply BitVec.eq_of_toNat_eq; simp only [BitVec.extractLsb'_toNat, Nat.shiftRight_eq_div_pow, BitVec.toNat_ofNat]; omega
  have hl : s.myLayer = 0 := by simp [State.myLayer, layerOf, h2]
  have hc : s.myCore = 0 := by simp [State.myCore, coreOf, h2]
  have hcur : s.current 0 Tag.zero = true := by
    simp [State.current, State.incOf, State.layer, h3, Table.at, Layer.reset, IncEntry.reset, Tag.zero]
  have ht : s.tlbHits 0 0 Tag.zero 0 va.toNat = [page] := by
    simp only [State.tlbHits, h1, List.filter_cons, List.filter_nil]
    simp only [page, hcur, Nat.zero_le, true_and, Nat.zero_add]
    have hv' : va.toNat < 1073741824 := by omega
    simp [hv']
  refine ⟨?_, by omega, by omega, Or.inl (by omega), page, [], ?_, ?_, by simp, ?_, ?_, ?_, ?_, ?_⟩
  · simp [State.formOk, hd, h8]
  · rw [hc, hl, h4, hd, ho, ht]
  · rw [hc]; rfl
  · cases k <;> cases s.th.sv <;> decide
  · intro _; decide
  · rw [ho]; simp only [show pteFrame page.pte = 0 from by decide, show page.bits = 30 from rfl]; omega
  · rw [hl, ho]; simp only [show pteFrame page.pte = 0 from by decide, show page.bits = 30 from rfl]; omega
  · decide

/-- A check answers the target and changes nothing. -/
def goesTo (r : Res Target) (tg : Target) (s : State) : Bool :=
  match r with
  | .ok x y => decide (x = tg) && decide (y = s)
  | .stop _ => false

theorem goesTo_eq {r : Res Target} {tg : Target} {s : State} (h : goesTo r tg s = true) : r = .ok tg s := by
  cases r with
  | ok x y => simp only [goesTo, Bool.and_eq_true, decide_eq_true_eq] at h; rw [h.1, h.2]
  | stop y => simp [goesTo] at h

/-- A check passes. -/
def goesAt {α : Type} : Res α → Bool
  | .ok _ _ => true
  | .stop _ => false

/-- A copy's read gives data. -/
def copyReads (r : (List Byte × Bool) × Option α × Bool × State) : Bool := r.2.1.isNone && !r.2.2.1

theorem copyReads_eq {α : Type} {r : (List Byte × Bool) × Option α × Bool × State} (h : copyReads r = true) :
    ∃ bs poison s', r = ((bs, poison), none, false, s') := by
  obtain ⟨⟨bs, p⟩, o, b, s'⟩ := r
  simp only [copyReads, Bool.and_eq_true, Option.isNone_iff_eq_none, Bool.not_eq_true'] at h
  exact ⟨bs, p, s', by rw [h.1, h.2]⟩

/-- A fetch gives bits that decode to this. -/
noncomputable def fetches (r : Res Fetched) (i : Option Instr) : Bool :=
  match r with
  | .ok w _ => decide (w.instr = i)
  | .stop _ => false

theorem fetches_eq {r : Res Fetched} {i : Option Instr} (h : fetches r i = true) : ∃ w s', r = .ok w s' ∧ w.instr = i := by
  cases r with
  | ok w s' => exact ⟨w, s', rfl, by simpa [fetches] using h⟩
  | stop s' => simp [fetches] at h

/-- A step answers a next state. -/
def isNext (o : Out) : Bool :=
  match o with
  | .next _ => true
  | _ => false

/-! ### Integer, control, exceptions, scalar floating point -/

/-- A taken and an untaken branch of each kind of comparison; a thread with work in the TE's queue, and one with 24 checkpoints too. -/
theorem test_witness_BranchesTestAndMove :
    let t := (box sup).th
    let e : TeEntry := ⟨0, 3, 0, Tag.zero, 0, 0, 0, 0, 0, false, false⟩
    let w := (box { sup with te := [e] }).th
    let held := (box { sup with te := [e], checkpoints := List.replicate 24 ⟨0, 0, 0⟩ }).th
    (t.te = [] ∧ w.te ≠ [] ∧ w.checkpoints.length < 24 ∧ held.te ≠ [] ∧ 24 ≤ held.checkpoints.length) ∧
    (t.rx 0#5).toNat = (t.rx 1#5).toNat ∧ (t.rx 10#5).toNat ≠ (t.rx 11#5).toNat ∧ (t.rx 15#5).toInt < (t.rx 10#5).toInt ∧
      (t.rx 10#5).toInt ≤ (t.rx 10#5).toInt ∧ (t.rx 10#5).toNat < (t.rx 15#5).toNat ∧ (t.rx 0#5).toNat ≤ (t.rx 15#5).toNat ∧
      t.rx 0#5 = 0#64 ∧ t.rx 10#5 ≠ 0#64 := by decide

/-- The shortest body, with a count of 0 and with another. -/
theorem test_witness_LoopsArmALevel :
    3 ≤ (3#12 : BitVec 12).toNat ∧ min ((box sup).th.rx 0#5).toNat (2 ^ 32 - 1) = 0 ∧
      min ((box sup).th.rx 15#5).toNat (2 ^ 32 - 1) = 2 ^ 32 - 1 ∧ (0#10 : BitVec 10).toNat = 0 ∧ (1023#10 : BitVec 10).toNat ≠ 0 := by decide

theorem test_witness_HintsAndCompactForms :
    let s := box sup
    let r := box { sup with ors := 256 }
    let e : TeEntry := ⟨0, 3, 0, Tag.zero, 0, 0, 0, 0, 0, false, false⟩
    let w := box { sup with te := [e], teSeq := 1 }
    let turn : State := { s with clusters := [(0, { Cluster.reset with cur := some 0 })] }
    let warm : State := { s with rdc := [⟨0, 0x0010000000002000, Tag.zero, true, 0#4, 7#512, 0#8⟩] }
    (s.formOk (s.th.rx 15#5) = false ∧ dieOf (s.th.rx 13#5) = 14 ∧ dieOf (s.th.rx 10#5) = s.myLayer ∧ s.formOk (s.th.rx 14#5) = true ∧
      dieOf (s.th.rx 14#5) = 1 ∧ s.rdcHit (s.th.rx 14#5) = none ∧ warm.rdcHit (s.th.rx 14#5) ≠ none) ∧
    (w.teRoom 0 0 0 = true ∧ w.coreQueue w.myCore = [(0, e)] ∧ e.op ≠ 2 ∧ e.seq < w.th.teSeq ∧ s.coreQueue s.myCore = [] ∧
      (turn.cluster turn.myCluster).cur = some turn.myCore) ∧
    (s.th.denial = none ∧ s.th.ors = 0 ∧ s.localDone = true ∧ s.bdPending = false) ∧ (r.th.denial = none ∧ r.th.ors ≠ 0) ∧
      s.teRoom 0 0 0 = true ∧ ¬ ((0#5 : Reg) = 0#5 ∧ (2#6 : BitVec 6) = 1#6) ∧ ¬ ((1#5 : Reg) = 0#5 ∧ (1#6 : BitVec 6) = 1#6) := by decide

/-- One instruction for each range check, each supervisor row's check at user level, and each enable. -/
theorem test_witness_DecodeChecksTrapInOrder :
    ((Instr.loop 0#1 1#5 2#12).wf = false ∧ otherRow (.loop 0#1 1#5 2#12) = false) ∧
    ((Instr.eret).wf = true ∧ supervisorOnly .eret = true ∧ (box user).th.status.getLsbD 0 = false) ∧
    ((Instr.acscale 1#1 2#2 3#5).wf = true ∧ enablesOf (.acscale 1#1 2#2 3#5) &&& ~~~ (box user).th.status.extractLsb' 4 3 = 5#3) ∧
    ((Instr.fmov 1#5 2#5).wf = true ∧ enablesOf (.fmov 1#5 2#5) &&& ~~~ (box user).th.status.extractLsb' 4 3 = 1#3) ∧
    ((Instr.hVmov 1#5 2#5).wf = true ∧ enablesOf (.hVmov 1#5 2#5) &&& ~~~ (box user).th.status.extractLsb' 4 3 = 2#3) := by decide

theorem test_witness_EnteringAndReturning : (box sup).th.status.getLsbD 0 = true := by decide

/-- Each static mode, the dynamic one, and an RM that names no mode. -/
theorem test_witness_ScalarArithmeticRoundsOnce :
    let s := box { sup with fcsr := 0x4000#64 }
    let r := box { sup with fcsr := 0xA000#64 }
    s.th.status.getLsbD 4 = true ∧ (5#3 : BitVec 3).toNat ≤ 5 ∧ s.th.mode 4#3 = some 4 ∧ s.th.mode 5#3 = some 2 ∧ s.th.mode 0#3 = some 0 ∧
      r.th.status.getLsbD 4 = true ∧ r.th.mode 5#3 = none := by decide

theorem test_witness_ScalarMovesAndClasses : (box sup).th.status.getLsbD 4 = true := by decide

theorem test_witness_ScalarComparesAndConverts :
    (box sup).th.status.getLsbD 4 = true ∧ (5#3 : BitVec 3).toNat ≤ 5 ∧ (box sup).th.mode 5#3 = some 0 ∧ (0#2 : BitVec 2) ≠ 3#2 := by decide

/-- A tie, 5 = 2.5 × 2, cut to multiples of 2: to even 2, away 3; and −5. -/
theorem test_witness_RoundingPicksTheMultiple :
    (0 : Int) < 1 ∧ roundAt 0 false 5 0 1 = (2, false) ∧ roundAt 1 false 5 0 1 = (3, false) ∧ roundAt 2 true 5 0 1 = (2, false) ∧
      roundAt 3 true 5 0 1 = (2, false) ∧ roundAt 4 true 5 0 1 = (3, false) := by decide

/-- Besides, a value that FP16 rounds to a finite one, one that overflows, and sums that are and are not zero. -/
theorem test_witness_SpecialValues :
    let limit := FVal.toInt fp16.qmin (fp16.decode (fp16.largest false))
    let k (x : Nat) (e : Int) : Int := ((roundAt 0 false x e (e + (Nat.log2 x + 1) - 11)).1 * 2 ^ (e + (Nat.log2 x + 1) - 11 - fp16.qmin).toNat : Nat)
    (bf16 ∈ [fp64, fp32, fp16, bf16] ∧ e2m1 ∈ [fp64, fp32, fp16, bf16, e4m3, e5m2, e3m2, e2m3, e2m1] ∧ (4 : Nat) < 5 ∧ 0 < (1 : Nat)) ∧
    k 4097 0 ≤ limit ∧ limit < k 1 16 ∧ fp16.decode 0x3C00 = .fin false 1024 (-10) ∧ fp16.decode 0xBC00 = .fin true 1024 (-10) ∧
    (1 : Int) + -1 = 0 ∧ (1 : Int) + 1 ≠ 0 := by decide +kernel

/-! ### Memory -/

/-- The machine with bytes at PA 0x2000 of layer 0, and a sync object there. -/
def full : State := { box sup with hbm := [(0x2000, 0xFE#8), (0x2008, 0x01#8), (0x2040, 0x03#8)] }

/-- A second page: DIE 0, offset 0x4000_0000, frame 0, read-only and supervisor. -/
def roPage : TlbEntry := ⟨0, 0, Tag.zero, 0, 0x40000000, 12, 0x1A3#64⟩

/-- A page of memory type device at offset 0x5000_0000. -/
def devPage : TlbEntry := ⟨0, 0, Tag.zero, 0, 0x50000000, 12, 0x79F#64⟩

def pages (u : Thread) : State := { box u with tlb := [page, roPage, devPage] }

/-- The BD region: DIE 8, a page of 1 GiB, a page of memory type device, and one that is read-only. -/
def bdPages (u : Thread) : State := { box u with
  tlb := [⟨0, 0, Tag.zero, 8, 0, 30, 0x1000000019F#64⟩, ⟨0, 0, Tag.zero, 8, 0x40000000, 12, 0x1000000079F#64⟩,
    ⟨0, 0, Tag.zero, 8, 0x50000000, 12, 0x100000001A3#64⟩] }

/-- A closing cut whose new colour the thread has, with these staging copies of layer 0 (R365). -/
def closing (tb : Table Staged) : State := { pages { sup with flipped := true } with
  cairn := { Cairn.reset with state := 2, lmask := 1#8 }, layers := [(0, { Layer.reset with staged := tb })] }

theorem find_replicate (n k : Nat) (c : Staged) (h : k ≠ 5) : Table.find (List.replicate n (5, c)) k = none := by
  induction n with
  | zero => rfl
  | succ n ih => rw [List.replicate_succ]; simpa [Table.find, h] using ih

/-- The form of the address; a page that denies the store; a page that allows it and an address out of line. -/
theorem test_witness_AccessCausesInOrder :
    let s := pages { sup with x := [(10, 0xFF00000000000000#64), (11, 0x40000000#64), (12, 0x2001#64)] }
    let x := s.translate s.myCore s.myLayer s.th.tag s.th.sv .store 0x40000000#64 (s.place s.cur)
    let y := s.translate s.myCore s.myLayer s.th.tag s.th.sv .store 0x2001#64 (s.place s.cur)
    (accessOf (.stI64 10#5 1#5 0#12) s.th = some (.store, 0xFF00000000000000#64, 8) ∧ s.formOk 0xFF00000000000000#64 = false) ∧
    (accessOf (.stI64 11#5 1#5 0#12) s.th = some (.store, 0x40000000#64, 8) ∧ s.formOk 0x40000000#64 = true ∧ dieOf 0x40000000#64 = 0 ∧
      s.myLayer = 0 ∧ x.1 = .deny 0x0B) ∧
    (accessOf (.stI64 12#5 1#5 0#12) s.th = some (.store, 0x2001#64, 8) ∧ y.1 = .ok 0x2001 0 ∧ (0x2001#64 : Word).toNat % 8 ≠ 0) ∧
    (enablesOf (.fldF16 1#5 10#5 0#12) = 1#3 ∧ s.th.status.getLsbD 4 = true) := by decide

/-- In the BD region a page that denies, an address out of line, and a place that is none; in the Rope window each of the three instructions, a
context without a grant, and one with. -/
theorem test_witness_AccessCausesInTheWindows :
    let s := bdPages sup
    let g := box { sup with tag := ⟨1#12, 0#8⟩ }
    let x (va : Word) := (s.translate s.myCore s.myLayer s.th.tag s.th.sv .load va (s.place s.cur)).1
    (s.translate s.myCore s.myLayer s.th.tag s.th.sv .store 0x0080000050000000#64 (s.place s.cur)).1 = .deny 0x0B ∧
    x 0x0080000000000001#64 = .ok 0x10000000001 2 ∧ x 0x0080000000010000#64 = .ok 0x10000010000 2 ∧
    s.formOk 0x0080000000010000#64 = true ∧ dieOf 0x0080000000010000#64 = 8 ∧
    accessOf (.stI64 13#5 1#5 0#12) s.th = some (.store, 0x00E0000000004000#64, 8) ∧
    accessOf (.amoadd 1#1 1#5 13#5 1#5) s.th = some (.amo, 0x00E0000000004000#64, 8) ∧
    accessOf (.ldI64 1#5 13#5 0#12) s.th = some (.load, 0x00E0000000004000#64, 8) ∧
    s.formOk 0x00E0000000004000#64 = true ∧ dieOf 0x00E0000000004000#64 = 14 ∧ g.granted g.th.tag.ctx 0x4000 8 = false ∧
    s.granted s.th.tag.ctx 0x4001 8 = true := by decide +kernel

theorem test_witness_AHitGivesTheFrameAndACheckKeepsThreads :
    Maps (box sup) .rel 0x3FFFFFC0#64 0x3FFFFFC0 0 ∧ (0x3FFFFFC0#64 : Word).toNat % 64 = 0 :=
  ⟨box_maps _ _ _ rfl rfl rfl rfl (by decide), by decide⟩

theorem test_witness_LoadsReadOwnLayer :
    full.check 0 .load 0x2000#64 8 8 0 0 = .ok (.mem 0x2000 0) full ∧ full.mustWait 0x2000 8 = false ∧ full.deviceWaits 0 = false ∧
      full.isPoisoned 0x2000 8 = false ∧ full.th.status.getLsbD 4 = true ∧ BitVec.ofInt 64 ((full.th.rx 10#5).toInt + (0#12 : BitVec 12).toInt) = 0x2000#64 :=
  ⟨goesTo_eq (by decide +kernel), by decide⟩

/-- A load in the Rope window, and one of BD memory. -/
theorem test_witness_LoadsOfTheWindows :
    let s := bdPages sup
    (dieOf 0x00E0000000004000#64 = 14 ∧ s.formOk 0x00E0000000004000#64 = true ∧ s.granted s.th.tag.ctx 0x4000 8 = true ∧ s.myRope = []) ∧
    s.check 0 .load 0x0080000000100000#64 8 8 0 0 = .ok (.bd 0x100000 2) s ∧
    s.check 0 .load 0x0080000040000000#64 8 8 0 0 = .ok (.bd 0 3) s ∧ s.bdPending = false ∧ s.deviceWaits 3 = false :=
  ⟨by decide, goesTo_eq (by decide +kernel), goesTo_eq (by decide +kernel), by decide⟩

/-- A store to BD memory with room in ors and without. -/
theorem test_witness_StoresToTheBd :
    let s := bdPages sup
    let u := bdPages { sup with ors := 256 }
    s.check 0 .store 0x0080000000100000#64 8 8 0x0B 0 = .ok (.bd 0x100000 2) s ∧
    u.check 0 .store 0x0080000000100000#64 8 8 0x0B 0 = .ok (.bd 0x100000 2) u ∧ s.th.ors < 256 ∧ 256 ≤ u.th.ors :=
  ⟨goesTo_eq (by decide +kernel), goesTo_eq (by decide +kernel), by decide⟩

theorem closing_check (tb : Table Staged) :
    (closing tb).check 0 .store 0x50000000#64 8 8 0x0B 0 = .ok (.mem 0 3) (closing tb) := by
  have u : (closing tb).cur = 0 := rfl
  have l : (closing tb).myLayer = 0 := by simp [State.myLayer, layerOf, u]
  have k : (closing tb).myCore = 0 := by simp [State.myCore, coreOf, u]
  have c : (closing tb).current 0 Tag.zero = true := rfl
  have e : (closing tb).tlb = [page, roPage, devPage] := rfl
  have g : (closing tb).th.tag = Tag.zero := rfl
  have v : dieOf 0x50000000#64 = 0 ∧ offOf 0x50000000#64 = 0x50000000 := by decide
  have h : (closing tb).tlbHits 0 0 Tag.zero 0 0x50000000 = [devPage] := by simp [State.tlbHits, e, page, roPage, devPage, c]
  have x (p : Nat) : (closing tb).translate 0 0 Tag.zero (closing tb).th.sv .store 0x50000000#64 p = (.ok 0 3, closing tb) := by
    unfold State.translate
    rw [v.1, v.2]
    dsimp only
    rw [h]
    rfl
  have f : (closing tb).formOk 0x50000000#64 = true := rfl
  unfold State.check
  rw [f]
  dsimp only
  rw [l, k, g, x, v.1, if_neg (by decide), if_neg (by decide), if_pos (by decide)]
  dsimp only
  rw [if_neg (by decide), if_pos (by decide), l]
  exact congrArg (fun k => Res.ok (Target.mem k 3) (closing tb)) (by decide : physKey 0 0 = 0)

/-- A store to a device page that its controller stalls: every slot of staging is taken. -/
theorem test_witness_AStalledStore :
    let s := closing (List.replicate 245760 (5, ⟨0#32768, 0#256, 0⟩))
    s.check 0 .store 0x50000000#64 8 8 0x0B 0 = .ok (.mem 0 3) s ∧ s.raddWaits 0 8 = false ∧ s.deviceWaits 3 = false ∧
      s.stallsAt 0 (s.colour s.th) = true := by
  generalize hn : 245760 = n
  have h (tb : Table Staged) : ((closing tb).layer 0).staged = tb := rfl
  have c (tb : Table Staged) : (closing tb).cairn.slots = 245760 := by show Cairn.slots { Cairn.reset with state := 2, lmask := 1#8 } = 245760; decide
  refine ⟨closing_check _, rfl, rfl, ?_⟩
  have e : layerOfKey (16 * 0) = 0 ∧ paOfKey (16 * 0) / 4096 = 0 := by decide
  simp only [State.stallsAt, e.1, e.2, h, c, find_replicate _ 0 _ (by decide), List.length_replicate, ← hn]
  exact of_decide_eq_true rfl

/-- A store to memory, and one to a page of type device. -/
theorem test_witness_StoresWriteOwnLayer :
    full.check 0 .store 0x2000#64 8 8 0x0B 0 = .ok (.mem 0x2000 0) full ∧
      (pages sup).check 0 .store 0x50000000#64 8 8 0x0B 0 = .ok (.mem 0 3) (pages sup) ∧ full.raddWaits 0x2000 8 = false ∧
      full.deviceWaits 0 = false ∧ (pages sup).deviceWaits 3 = false ∧ full.th.status.getLsbD 4 = true :=
  ⟨goesTo_eq (by decide +kernel), goesTo_eq (by decide +kernel), by decide +kernel⟩

/-- DIE 1 from layer 0: with room in ors, at 256, a load that misses the RDC, and one that hits. -/
theorem test_witness_RemoteAccessesLeaveTheCore :
    let va := 0x0010000000002000#64
    let busy := box { sup with ors := 256 }
    let warm : State := { box sup with rdc := [⟨0, 0x0010000000002000, Tag.zero, true, 0#4, 7#512, 0#8⟩] }
    ((box sup).check 0 .store va 8 8 0x0B 0 = .ok .away (box sup) ∧ busy.check 0 .store va 8 8 0x0B 0 = .ok .away busy ∧
      warm.check 0 .load va 8 8 0 0 = .ok .away warm) ∧
    (va.toNat % 8 = 0 ∧ (box sup).th.ors < 256 ∧ 256 ≤ busy.th.ors ∧ (box sup).mustWait va.toNat 8 = false ∧ (box sup).rdcHit va = none ∧
      (box sup).answer (lineVa va) .load = none ∧ (box sup).th.reqs = [] ∧ warm.mustWait va.toNat 8 = false ∧
      warm.rdcHit va = some ⟨0, 0x0010000000002000, Tag.zero, true, 0#4, 7#512, 0#8⟩) :=
  ⟨⟨goesTo_eq (by decide +kernel), goesTo_eq (by decide +kernel), goesTo_eq (by decide +kernel)⟩, by decide +kernel⟩

/-- The answer to a load and to an AMO of another layer. -/
theorem test_witness_RemoteAnswers :
    let va := 0x0010000000002000#64
    let got (k : AKind) := box { sup with answers := [⟨7, va.toNat, k, 0, 0#64, 0#4, 9#1024, 0, none⟩] }
    (box sup).check 0 .amo va 8 8 0x0C 0 = .ok .away (box sup) ∧ (got .amo).check 0 .amo va 8 8 0x0C 0 = .ok .away (got .amo) ∧
    (got .load).check 0 .load va 8 8 0 0 = .ok .away (got .load) ∧ (box sup).answer va.toNat .amo = none ∧ (got .load).rdcHit va = none ∧
    (got .amo).answer va.toNat .amo = some ⟨7, va.toNat, .amo, 0, 0#64, 0#4, 9#1024, 0, none⟩ ∧
    (got .load).answer (lineVa va) .load = some ⟨7, va.toNat, .load, 0, 0#64, 0#4, 9#1024, 0, none⟩ :=
  ⟨goesTo_eq (by decide +kernel), goesTo_eq (by decide +kernel), goesTo_eq (by decide +kernel), by decide +kernel⟩

/-- A RADD to the BD, and to another layer at 256. -/
theorem test_witness_ReductionsElsewhere :
    let b := bdPages sup
    let u := box { sup with ors := 256 }
    b.check 0 .amo 0x0080000000100000#64 8 8 0x0C 0x0B = .ok (.bd 0x100000 2) b ∧
    u.check 0 .amo 0x0010000000002000#64 8 8 0x0C 0x0B = .ok .away u ∧ b.th.ors < 256 ∧ 256 ≤ u.th.ors :=
  ⟨goesTo_eq (by decide +kernel), goesTo_eq (by decide +kernel), by decide⟩

/-- An AMO whose CAS compares equal, and one that does not; a RADD alone, and one with a partner in the combining node. -/
theorem test_witness_AtomicsAndReductions :
    let p : Packet := { Packet.blank with id := 4, kind := .radd false, src := 1, va := 0x2000#64, n := 8, data := 5#512, stage := .combining }
    let s : State := { box sup with packets := [p], nextId := 5 }
    (full.check 0 .amo 0x2000#64 8 8 0x0C 0 = .ok (.mem 0x2000 0) full ∧ full.check 0 .amo 0x2000#64 8 8 0x0C 0x0B = .ok (.mem 0x2000 0) full ∧
      s.check 0 .amo 0x2000#64 8 8 0x0C 0x0B = .ok (.mem 0x2000 0) s) ∧
    (full.mustWait 0x2000 8 = false ∧ full.raddWaits 0x2000 8 = false ∧ full.isPoisoned 0x2000 8 = false ∧ full.peekNat 0x2000 8 = 0xFE ∧
      full.raddPartner false 0x2000#64 8 = none ∧ s.raddPartner false 0x2000#64 8 = some p ∧ full.th.status.getLsbD 4 = true) :=
  ⟨⟨goesTo_eq (by decide +kernel), goesTo_eq (by decide +kernel), goesTo_eq (by decide +kernel)⟩, by decide +kernel⟩

theorem test_witness_OrderingInstructions :
    let d : Denial := ⟨0x09, .store, 0x0010000000002000#64, 0, 0⟩
    let s := box sup
    let w := box { sup with ors := 1 }
    let b := box { sup with denial := some d }
    (s.localDone = true ∧ s.th.ors = 0 ∧ s.th.denial = none) ∧ (b.th.denial = some d ∧ d.cause < 0x20 ∧ (2#2 : BitVec 2).getLsbD 1 = true) ∧
    (¬ (w.localDone = true ∧ ((0#2 : BitVec 2) ≠ 1#2 → w.th.ors = 0)) ∧ w.th.denial = none ∧ w.th.ors ≠ 0) ∧ s.th.status.getLsbD 5 = true ∧
    (2#5 : Reg).toNat ≤ 2 := by decide

/-- PREF and SIGCLR of another layer, of the BD and in the Rope window; a PREF whose home has answered, and one whose line the RDC holds. -/
theorem test_witness_PrefAndSigclrAway :
    let va := 0x0010000000002000#64
    let s := box sup
    let b := bdPages sup
    let got (k : AKind) := box { sup with answers := [⟨7, va.toNat, k, 0, 0#64, 0#4, 0#1024, 0, none⟩] }
    let warm : State := { s with rdc := [⟨0, 0x0010000000002000, Tag.zero, true, 0#4, 7#512, 0#8⟩] }
    let full := box { sup with ors := 256 }
    (s.check 0 .load va 1 1 0 0 = .ok .away s ∧ s.check 0 .store va 1 1 0 0 = .ok .away s ∧ s.check 0 .store va 128 128 0 0 = .ok .away s ∧
      full.check 0 .store va 128 128 0 0 = .ok .away full ∧ s.check 0 .store 0x00E0000000004000#64 128 128 0 0 = .ok (.rope 0x4000) s ∧
      b.check 0 .store 0x0080000000100000#64 128 128 0 0 = .ok (.bd 0x100000 2) b ∧
      b.check 0 .store 0x0080000040000000#64 128 128 0 0 = .ok (.bd 0 3) b) ∧
    (s.rdcHit va = none ∧ warm.rdcHit va ≠ none ∧ (got .store).answer va.toNat .store = some ⟨7, va.toNat, .store, 0, 0#64, 0#4, 0#1024, 0, none⟩ ∧
      s.answer va.toNat .load = none ∧ s.th.reqs = [] ∧ s.th.ors < 256 ∧ 256 ≤ full.th.ors ∧ va.toNat % 128 = 0) :=
  ⟨⟨goesTo_eq (by decide +kernel), goesTo_eq (by decide +kernel), goesTo_eq (by decide +kernel), goesTo_eq (by decide +kernel),
    goesTo_eq (by decide +kernel), goesTo_eq (by decide +kernel), goesTo_eq (by decide +kernel)⟩, by decide +kernel⟩

theorem test_witness_PrefAndSigclr :
    full.check 0 .load 0x2000#64 1 1 0 0 = .ok (.mem 0x2000 0) full ∧ full.check 0 .store 0x2000#64 1 1 0 0 = .ok (.mem 0x2000 0) full ∧
      full.check 0 .store 0x2000#64 128 128 0 0 = .ok (.mem 0x2000 0) full ∧ (0 : Nat) ≠ 3 ∧ full.raddWaits 0x2000 128 = false := ⟨goesTo_eq (by decide +kernel), goesTo_eq (by decide +kernel), goesTo_eq (by decide +kernel), by decide +kernel⟩

/-- Each scope, with the waits over and with a store still counted in ors; the sync object's FULL is 1. -/
theorem test_witness_AcquireAndRelease :
    let w : State := box { sup with ors := 1 }
    (full.check 0 .acq 0x2000#64 8 8 0 0 = .ok (.mem 0x2000 0) full ∧ full.check 0 .rel 0x2000#64 8 8 0x0B 0 = .ok (.mem 0x2000 0) full ∧
      full.check 0 .acq 0x2000#64 128 128 0 0 = .ok (.mem 0x2000 0) full ∧ full.check 0 .rel 0x2000#64 128 128 0x0B 0 = .ok (.mem 0x2000 0) full ∧
      w.check 0 .rel 0x2000#64 128 128 0x0B 0 = .ok (.mem 0x2000 0) w) ∧
    ((1#2 : BitVec 2).getLsbD 1 = false ∧ (3#2 : BitVec 2).getLsbD 1 = true ∧ dieOf 0x2000#64 ≠ 14 ∧ full.mustWait 0x2000 8 = false ∧
      full.mustWait 0x2000 128 = false ∧ full.deviceWaits 0 = false ∧ full.isPoisoned 0x2000 8 = false ∧ full.isPoisoned 0x2000 128 = false ∧ full.localDone = true ∧
      full.th.ors = 0 ∧ (0 : Nat) ≠ 3 ∧ full.th.answers = [] ∧ full.th.reqs = [] ∧ full.th.denial = none ∧ full.copiesRunning = false ∧
      (full.peek 0x2008).getLsbD 0 = true ∧ w.th.ors ≠ 0) :=
  ⟨⟨goesTo_eq (by decide +kernel), goesTo_eq (by decide +kernel), goesTo_eq (by decide +kernel), goesTo_eq (by decide +kernel),
    goesTo_eq (by decide +kernel)⟩, by decide +kernel⟩

/-- Acquires and releases of an object in another layer, the BD and the Rope window: asked, and answered. -/
theorem test_witness_AcquireAndReleaseElsewhere :
    let va := 0x0010000000002000#64
    let s := box sup
    let b := bdPages sup
    let got (k : AKind) (sent : Bool) := box { sup with sent := sent, answers := [⟨7, va.toNat, k, 0, 0#64, 0#4, 9#1024, 0, none⟩] }
    let p : Packet := { Packet.blank with src := 1, va := va, stage := .done }
    (s.check 0 .acq va 8 8 0 0 = .ok .away s ∧ (got .acq false).check 0 .acq va 8 8 0 0 = .ok .away (got .acq false) ∧
      s.check 0 .rel va 8 8 0x0B 0 = .ok .away s ∧ s.check 0 .acq va 128 128 0 0 = .ok .away s ∧
      (got .acq false).check 0 .acq va 128 128 0 0 = .ok .away (got .acq false) ∧
      s.check 0 .acq 0x00E0000000004000#64 128 128 0 0 = .ok (.rope 0x4000) s ∧
      b.check 0 .acq 0x0080000000100000#64 128 128 0 0 = .ok (.bd 0x100000 2) b ∧
      b.check 0 .rel 0x0080000000000000#64 128 128 0x0B 0 = .ok (.bd 0 2) b ∧ b.check 0 .rel 0x0080000040000000#64 128 128 0x0B 0 = .ok (.bd 0 3) b ∧
      s.check 0 .rel va 128 128 0x0B 0 = .ok .away s ∧ (got .rel true).check 0 .rel va 128 128 0x0B 0 = .ok .away (got .rel true)) ∧
    (s.answer va.toNat .acq = none ∧ s.answer va.toNat .rel = none ∧ s.th.reqs = [] ∧ s.myRope = [] ∧ b.bdPending = false ∧
      (got .acq false).answer va.toNat .acq = some ⟨7, va.toNat, .acq, 0, 0#64, 0#4, 9#1024, 0, none⟩ ∧
      (got .rel true).answer va.toNat .rel = some ⟨7, va.toNat, .rel, 0, 0#64, 0#4, 9#1024, 0, none⟩ ∧
      s.localDone = true ∧ s.th.ors = 0 ∧ s.copiesRunning = false ∧ s.th.denial = none ∧ s.th.sent = false ∧
      p.pending = false ∧ p.kind.fills = true ∧ clusterOf p.src = s.myCluster ∧ p.tag = s.th.tag ∧ p.va.toNat / 64 * 64 = va.toNat / 64 * 64) :=
  ⟨⟨goesTo_eq (by decide +kernel), goesTo_eq (by decide +kernel), goesTo_eq (by decide +kernel), goesTo_eq (by decide +kernel),
    goesTo_eq (by decide +kernel), goesTo_eq (by decide +kernel), goesTo_eq (by decide +kernel), goesTo_eq (by decide +kernel),
    goesTo_eq (by decide +kernel), goesTo_eq (by decide +kernel), goesTo_eq (by decide +kernel)⟩, by decide +kernel⟩

/-- Descriptor 0 of layer 0: V, cluster (0,0), NTHR 1, LMASK of the layer alone; `ph` phases have released. -/
def barred (u : Thread) (ph : Nat) : State := { box u with
  layers := [(0, { Layer.reset with bardesc := [(0, 0x80040490#64)], barCl := [(0, { BarCluster.reset with phase := ph })] })] }

theorem test_witness_WaitsAndBarriers :
    let released := barred { sup with parked := some (.bar 0 0) } 1
    let open_ := barred { sup with parked := some (.bar 0 1) } 1
    let resumed := barred { sup with prg := 2 } 1
    let other := barred { sup with parked := some (.barwait 0 0) } 1
    let still := barred { sup with parked := some (.barwait 0 1) } 1
    (full.peekNat 0x2000 8 ≠ (full.th.rx 11#5).toNat % 2 ^ 64 ∧ (box sup).peekNat 0x2000 8 = ((box sup).th.rx 0#5).toNat % 2 ^ 64) ∧
    (released.th.parked = some (.bar 0 0) ∧ 0 < (released.barCl 0 0 0).phase) ∧
    (open_.th.parked = some (.bar 0 1) ∧ (open_.barCl 0 0 0).phase ≤ 1) ∧
    ((barred sup 0).th.parked = none ∧ (barred sup 0).th.prg = 0#7 ∧ (barred sup 0).localDone = true ∧ (barred sup 0).barOk 0 = true ∧
      barLmask ((barred sup 0).bardesc 0 0) &&& ~~~ (1#8 <<< 0) = 0#8 ∧ ((barred sup 0).barCl 0 0 0).cur < barNthr ((barred sup 0).bardesc 0 0)) ∧
    (resumed.th.parked = none ∧ resumed.th.prg.toNat = 2 + 0 ∧ (resumed.barCl 0 0 0).phase % 2 ≠ 0 ∧ 0 < (resumed.barCl 0 0 0).phase ∧
      (resumed.barCl 0 0 0).next = 0) ∧
    ((box sup).th.parked = none ∧ (box sup).th.prg = 0#7 ∧ (box sup).barOk 15 = false) ∧
    (other.th.parked = some (.barwait 0 0) ∧ 0 < (other.barCl 0 0 0).phase ∧ still.th.parked = some (.barwait 0 1) ∧
      (still.barCl 0 0 0).phase ≤ 1) := by decide

theorem test_witness_RopeInstructions :
    let va := 0x00E0000000004000#64
    let s := box sup
    let busy := box { sup with ors := 256 }
    let i := { Item.blank with op := RopeOp.rst, src := 0, off := 0x4000, n := 8 }
    let w : State := { s with layers := [(0, { Layer.reset with queue := [(0, [i])] })] }
    let got := box { sup with reqs := [7], answers := [⟨7, 0, .amo, 0, 0#64, 0#4, 5#1024, 0, none⟩] }
    (dieOf va = 14 ∧ s.formOk va = true ∧ s.granted s.th.tag.ctx (offOf va) 8 = true ∧ s.granted s.th.tag.ctx (offOf va) 128 = true ∧
      va.toNat % 8 = 0 ∧ va.toNat % 128 = 0) ∧ s.th.ors < 256 ∧ 256 ≤ busy.th.ors ∧ (s.formOk 0x2000#64 = true ∧ dieOf 0x2000#64 ≠ 14) ∧
    (s.th.reqs = [] ∧ s.th.denial = none ∧ s.localDone = true ∧ s.th.ors = 0 ∧ s.copiesRunning = false ∧ (4#3 : BitVec 3).toNat < 5) ∧
    got.itemAnswer = some ⟨7, 0, .amo, 0, 0#64, 0#4, 5#1024, 0, none⟩ ∧ s.myRope = [] ∧ w.myRope ≠ [] := by decide +kernel

/-! ### Vectors and tiles -/

theorem test_witness_Vectors :
    let s := box { sup with k := [(1, 0x8001#64)] }
    let none_ := box sup
    let bad := box { sup with fcsr := 0xC000#64 }
    s.th.status.getLsbD 5 = true ∧ (s.th.rk 1#3).getLsbD 0 = true ∧ (s.th.rk 1#3).getLsbD 1 = false ∧ (none_.th.rk 1#3).getLsbD 0 = false ∧
      (s.th.rk 0#3).getLsbD 63 = true ∧ s.th.mode 5#3 = some 0 ∧ bad.th.mode 5#3 = none ∧ ¬ ((1#5 : Reg) = 0#5 ∧ (0#5 : Reg) = 0#5) ∧
      (Instr.vcvt 6#4 1#4 1#1 1#3 2#5 3#5).wf = true ∧ (Instr.vcvt 0#4 2#4 0#1 0#3 2#5 3#5).wf = true := by decide

/-- The active lanes of a mask with lanes 0 and 15 set, at a stride of 8 and at indices 0, from a mapped line; with no active lane; and an
element whose address is of no form. -/
theorem test_witness_VectorMemoryAccesses :
    let s := { full with threads := [(0, { sup with k := [(1, 0x8001#64)] })] }
    let bad := box { sup with k := [(1, 2#64)] }
    let low := pages { sup with status := 0x78#64, k := [(1, 1#64)], x := [(10, 0x40000000#64)] }
    let va := fun (i : Nat) => BitVec.ofInt 64 ((s.th.rx 10#5).toInt + i * (s.th.rx 11#5).toInt)
    (Maps s .load (s.th.rx 10#5) 0x2000 0 ∧ Maps s .store (s.th.rx 10#5) 0x2000 0 ∧ Maps s .load (va 0) 0x2000 0 ∧ Maps s .load (va 15) 0x2078 0 ∧
      Maps s .store (va 15) 0x2078 0) ∧
    (s.th.status.getLsbD 5 = true ∧ (s.th.rx 10#5).toNat % 64 = 0 ∧ (va 15).toNat % 4 = 0 ∧ s.mustWait 0x2000 64 = false ∧
      s.mustWait 0x2078 4 = false ∧ s.isPoisoned 0x2000 64 = false ∧ s.isPoisoned 0x2078 4 = false ∧ s.deviceWaits 0 = false ∧ s.raddWaits 0x2000 64 = false ∧ s.raddWaits 0x2078 4 = false ∧ s.th.got = [] ∧ s.th.plan = [] ∧ s.th.prg = 0#7 ∧
      (s.th.rk 1#3).getLsbD 15 = true) ∧
    ((∀ i, i < 64 → (bad.th.rk 2#3).getLsbD i = false) ∧ bad.formOk (bad.th.rx 15#5) = false ∧
      bad.formOk (BitVec.ofInt 64 ((bad.th.rx 0#5).toInt + 1 * (bad.th.rx 15#5).toInt)) = false ∧ (bad.th.rk 1#3).getLsbD 0 = false ∧
      (bad.th.rk 1#3).getLsbD 1 = true) ∧
    (FirstCause bad .load (bad.th.rx 15#5) 64 0x0F ∧ FirstCause bad .store (bad.th.rx 15#5) 64 0x0F ∧ FirstCause low .load (low.th.rx 10#5) 64 0x0D ∧
      FirstCause low .store (low.th.rx 10#5) 64 0x0B ∧ FirstCause s .load (s.th.rx 16#5) 64 0x0E ∧ FirstCause s .store (s.th.rx 16#5) 4 0x0E ∧
      low.th.status.getLsbD 5 = true ∧ (low.th.rk 1#3).getLsbD 0 = true) :=
  ⟨by refine ⟨?_, ?_, ?_, ?_, ?_⟩ <;> exact box_maps _ _ _ rfl rfl rfl rfl (by decide), by decide +kernel, by decide +kernel,
    Or.inl (by decide), Or.inl (by decide),
    Or.inr (Or.inl ⟨by decide, by decide, by decide, by decide, by decide, roPage, [], by decide +kernel, rfl, by simp, by decide, by decide⟩),
    Or.inr (Or.inl ⟨by decide, by decide, by decide, by decide, by decide, roPage, [], by decide +kernel, rfl, by simp, by decide, by decide⟩),
    Or.inr (Or.inr ⟨⟨_, _, box_maps _ _ _ rfl rfl rfl rfl (by decide)⟩, by decide, rfl⟩),
    Or.inr (Or.inr ⟨⟨_, _, box_maps _ _ _ rfl rfl rfl rfl (by decide)⟩, by decide, rfl⟩), by decide, by decide⟩

theorem test_witness_TileRegisterOps :
    let s := box sup
    let e : TeEntry := ⟨0, 3, 0, Tag.zero, 0, 0, 0, 0, 0, false, false⟩
    let w := box { sup with te := [e] }
    let off : State := { s with clusters := [(0, { Cluster.reset with engweight := 0x11111110#32 })] }
    (s.th.status.getLsbD 6 = true ∧ s.th.status.getLsbD 5 = true ∧ s.th.status.getLsbD 4 = true ∧ s.th.poisoned = [] ∧ s.teRoom 0 1 0 = true ∧
      s.teRoom 1 0 0 = true ∧ s.teRoom 0 0 0 = true ∧ s.myWeight ≠ 0 ∧ off.myWeight = 0) ∧
    ((∀ x, x ∈ s.th.te → x.done = true ∨ x.op = 2) ∧ ∀ x, x ∈ s.mine → x.unit ≠ 2 ∨ x.isStore = false) ∧ (∀ t, t ∈ (s.cluster s.myCluster).twld → t.1 ≠ s.cur) ∧
    (∃ x, x ∈ w.th.te ∧ x.done = false ∧ x.op ≠ 2) :=
  ⟨by decide, ⟨by decide, by decide⟩, by decide, _, List.mem_cons_self, by decide, by decide⟩

/-- The rows of a tile and of an accumulator at a stride of 256 from 0x2000; the block of a dense FP6 plane at 0x2000 with its second part
at 0x4010; a second row of no form. -/
theorem test_witness_TileLoads :
    let s := box { sup with x := [(10, 0x2000#64), (11, 0x100#64), (12, 0x2010#64), (14, 0xFF00000000000000#64)] }
    let va := fun (r : Nat) => BitVec.ofInt 64 ((s.th.rx 10#5).toInt + r * (s.th.rx 11#5).toInt)
    let B := s.th.rx 10#5
    let H := s.th.rx 10#5 + s.th.rx 12#5
    (s.th.status.getLsbD 6 = true ∧ s.mine = [] ∧ s.poison = [] ∧ s.th.got = [] ∧ s.teRoom 1 0 0 = true ∧ s.teRoom 0 1 0 = true ∧ s.teRoom 0 0 1 = true) ∧
    (∀ r, r < 16 → ∀ j, j < 4 → Maps s .load (va r + BitVec.ofNat 64 (64 * j)) (va r + BitVec.ofNat 64 (64 * j)).toNat 0 ∧ (va r).toNat % 64 = 0) ∧
    (∀ r, r < 16 → Maps s .load (va r) (va r).toNat 0) ∧
    (s.formOk (BitVec.ofInt 64 ((s.th.rx 10#5).toInt + 1 * (s.th.rx 14#5).toInt)) = false ∧ s.formOk (s.th.rx 14#5) = false ∧
      s.formOk (s.th.rx 10#5 + s.th.rx 14#5) = false) ∧
    ((Instr.twld 1#1 0#1 6#4 10#5 12#5).wf = true ∧ B.toNat % 64 = 0 ∧ H.toNat % 16 = 0) ∧
    (∀ k, k < dataBytes 6 + metaBytes 6 false + scaleBytes 6 false true → Maps s .load (B + BitVec.ofNat 64 k) (B + BitVec.ofNat 64 k).toNat 0) ∧
    ∀ k, k < 1024 → Maps s .load (H + BitVec.ofNat 64 k) (H + BitVec.ofNat 64 k).toNat 0 ∧ (H + BitVec.ofNat 64 k).toNat =
      (H + BitVec.ofNat 64 k - BitVec.ofNat 64 ((H + BitVec.ofNat 64 k).toNat % 64)).toNat + (H + BitVec.ofNat 64 k).toNat % 64 := by
  refine ⟨by decide, ?_, ?_, by decide, by decide, ?_, ?_⟩
  · intro r hr j hj
    refine ⟨box_maps _ _ _ rfl rfl rfl rfl ?_, ?_⟩
    · revert hj; revert j; revert hr; revert r; decide +kernel
    · clear hj j; revert hr; revert r; decide +kernel
  · intro r hr
    refine box_maps _ _ _ rfl rfl rfl rfl ?_
    revert hr; revert r; decide +kernel
  · intro k hk
    refine box_maps _ _ _ rfl rfl rfl rfl ?_
    have h : dataBytes 6 + metaBytes 6 false + scaleBytes 6 false true ≤ 8192 := by decide
    have e : (box { sup with x := [(10, 0x2000#64), (11, 0x100#64), (12, 0x2010#64), (14, 0xFF00000000000000#64)] }).th.rx 10#5 = 0x2000#64 := by decide
    rw [e, BitVec.toNat_add, BitVec.toNat_ofNat, BitVec.toNat_ofNat]
    omega
  · intro k hk
    have e : (box { sup with x := [(10, 0x2000#64), (11, 0x100#64), (12, 0x2010#64), (14, 0xFF00000000000000#64)] }).th.rx 10#5 +
      (box { sup with x := [(10, 0x2000#64), (11, 0x100#64), (12, 0x2010#64), (14, 0xFF00000000000000#64)] }).th.rx 12#5 = 0x4010#64 := by decide
    rw [e]
    refine ⟨box_maps _ _ _ rfl rfl rfl rfl ?_, ?_⟩ <;> bv_omega

/-- Four lines of each FP64 row, at a stride of 256. -/
theorem test_witness_TileStores :
    let s := box { sup with x := [(10, 0x2000#64), (11, 0x100#64)] }
    let va := fun (r : Nat) => BitVec.ofInt 64 ((s.th.rx 10#5).toInt + r * (s.th.rx 11#5).toInt)
    let key := fun (r j : Nat) => (va r + BitVec.ofNat 64 (64 * j)).toNat
    (s.th.status.getLsbD 6 = true ∧ s.th.poisoned = [] ∧ s.teRoom 0 0 0 = true ∧ s.th.plan = [] ∧ s.rowPending = false ∧ s.deviceWaits 0 = false ∧ (Instr.acst 0#1 0#4 1#2 10#5 11#5).wf = true) ∧
    (∀ r, r < 16 → ∀ j, j < 4 → Maps s .store (va r + BitVec.ofNat 64 (64 * j)) (key r j) 0 ∧ (va r).toNat % 64 = 0 ∧
      s.raddWaits (key r j) 64 = false) ∧
    (∀ r, r < 16 → ∀ j, j < 4 → ∀ k, k < 4 → j < k → key r j + 64 ≤ key r k) ∧
    s.th.te = [] ∧ (let bad := box { sup with x := [(10, 0x2000#64), (11, 0xFEFFFFFFFFFFE000#64)] }
       FirstCause bad .store (bad.th.rx 10#5 + bad.th.rx 11#5) 64 0x0F) := by
  refine ⟨by decide, ?_, by decide +kernel, by decide, Or.inl (by decide +kernel)⟩
  intro r hr j hj
  refine ⟨box_maps _ _ _ rfl rfl rfl rfl ?_, ?_, ?_⟩
  · revert hj; revert j; revert hr; revert r; decide +kernel
  · clear hj j; revert hr; revert r; decide +kernel
  · revert hj; revert j; revert hr; revert r; decide +kernel

/-- For each form a plane that fits its format, one that does not, and none. -/
theorem test_witness_TileMultiplies :
    let fits := fun (form c : Nat) (p : Plane) =>
      aClass c = wClass p.fmt.toNat ∧ (p.sp = true ↔ form = 1) ∧ (form = 2 → p.mx = true) ∧ (form ≠ 2 → c = 9 → p.mx = false)
    let dense : Plane := ⟨9#4, false, false, 0, 0, 0⟩
    let s := box { sup with wp0 := some dense }
    (s.th.status.getLsbD 6 = true ∧ s.th.status.getLsbD 5 = true ∧ s.th.poisoned = [] ∧ s.teRoom 0 1 0 = true ∧ s.myWeight ≠ 0) ∧
    ((Instr.tmma 1#1 9#4 3#2 7#3).wf = true ∧ (Instr.tmmaSp 0#1 2#4 3#2 7#3).wf = true ∧ (Instr.tmmaMx 0#1 8#4 3#2 7#3 1#5).wf = true) ∧
    (s.th.wp0 = some dense ∧ fits 0 9 dense ∧ fits 1 2 ⟨2#4, true, false, 0, 0, 0⟩ ∧ fits 2 4 ⟨4#4, false, true, 0, 0, 0⟩) ∧
    (¬ fits 1 9 dense ∧ ¬ fits 2 9 dense ∧ ¬ fits 0 2 dense) ∧ (box sup).th.wp0 = none ∧
    (let pair := box { sup with wp0 := some dense, status := sup.status ||| oneBit pairedBit, tdup := true }
     pair.th.paired = true ∧ pair.th.tdup = true ∧ pair.teRoom 0 1 0 = true ∧ pair.myWeight ≠ 0 ∧ pairOf pair.cur = 2) ∧
    [FVal.nan false, FVal.inf true].Perm [FVal.inf true, FVal.nan false] :=
  ⟨by decide +kernel, by decide, by decide +kernel, by decide +kernel, by decide, by decide +kernel, List.Perm.swap _ _ _⟩

/-! ### Copies, messages, registers, maintenance, regions -/

/-- A supervisor thread that copies 64 bytes from x[11] to x[10] with the arrival word x[13]. -/
def copier : Thread := { sup with x := [(10, 0x3000#64), (11, 0x2000#64), (12, 64#64), (13, 0x4000#64)], cg := [(2, 96#7)] }

theorem test_witness_CopiesIssueAndCount :
    let s := box copier
    let twoD := box { copier with x := [(10, 0x3000#64), (11, 0x2000#64), (12, 0x0000000200000040#64), (13, 0x4000#64)] }
    let k (s : State) (form : Nat) : Copy :=
      { id := 0, src := 0, tag := Tag.zero, sup := true, colour := s.colour s.th, cg := 2, form := form, dst := 0x3000#64, from_ := 0x2000#64
        len := s.th.rx 12#5, strides := s.th.rx 13#5, arr := 0x4000#64, hasArr := true, next := [], ahead := [], moved := [], flying := [], reads := [], sig := 0, doneBytes := 0, agent := s.agentTo s.cur 0x3000#64 }
    let fullUp : State := { s with copies := List.replicate 96 (k s 0) }
    (goesAt (s.copyCheck { k s 0 with strides := 0#64 } (s.th.rx 10#5)) = true ∧ s.slotsUsed < 96 ∧ 96 ≤ fullUp.slotsUsed ∧
      goesAt (fullUp.copyCheck { k s 0 with strides := 0#64 } (s.th.rx 10#5)) = true ∧ goesAt (twoD.copyCheck (k twoD 1) (s.th.rx 10#5)) = true) ∧
    (s.th.rx 1#5 = 0#64 ∧ s.th.rx 12#5 ≠ 0#64 ∧ (Instr.cpy2d 2#3 10#5 11#5 12#5 13#5).wf = true ∧ (s.th.rx 12#5).toNat / 2 ^ 32 = 0 ∧
      (twoD.th.rx 12#5).toNat / 2 ^ 32 = 2 ∧ (twoD.th.rx 12#5).toNat % 2 ^ 32 = 64) ∧
    (s.rangeForm 0x00A0000000000000#64 64 = some 0x00A0000000000000#64 ∧ s.rangeForm 0x2000#64 64 = none ∧ dieOf 0x00E0000000000000#64 = 14 ∧
      s.rangeForm 0x00E0000000000000#64 64 = none ∧ dieOf 0x0090000000000000#64 = 9 ∧
      (∀ l, l < 8 → s.rangeForm (BitVec.ofNat 64 (l * 2 ^ 52 + offOf 0x0090000000000000#64)) 64 = none) ∧ s.rangeForm 0x4008#64 16 = none ∧ (0x4008#64 : Word).toNat % 16 ≠ 0) ∧
    ((13#5 : Reg) ≠ 0#5) ∧
    ((96#7 : BitVec 7).toNat ≤ 96 ∧ (s.th.cgOf 2#3).toNat ≤ (96#7 : BitVec 7).toNat ∧ (95#7 : BitVec 7).toNat < (s.th.cgOf 2#3).toNat) := by
  decide +kernel

theorem test_witness_MessagesPostAndSend :
    let s := box { sup with x := [(10, 5#64), (11, 0x2000#64), (12, 64#64), (13, 0x4000#64), (14, 0x1005#64), (15, 0x1000001#64)] }
    let p : Posted := ⟨0, 0, Tag.zero, true, 0x2000#64, 64, 0x4000#64⟩
    let fullUp : State := { s with posted := [(5, List.replicate 64 p)] }
    let w := box { sup with ors := 1, x := [(11, 0x2000#64), (12, 64#64), (13, 0x4000#64)] }
    let sent := box { sup with sent := true, x := [(10, 5#64), (11, 0x2000#64), (12, 64#64), (13, 0x4000#64), (14, 0x2000005#64)] }
    (Maps s .store (s.th.rx 13#5) 0x4000 0 ∧ Maps w .store (w.th.rx 13#5) 0x4000 0 ∧ Maps sent .store (sent.th.rx 13#5) 0x4000 0) ∧
    ((s.th.rx 14#5).extractLsb' 12 13 ≠ 0#13 ∧ (s.th.rx 10#5).extractLsb' 12 13 = 0#13 ∧ s.rangeForm (s.th.rx 11#5) 64 = none ∧
      dieOf (s.th.rx 11#5) ≠ 14 ∧ s.rangeForm (s.th.rx 13#5) 16 = none ∧ dieOf (s.th.rx 13#5) ≠ 14 ∧ (s.th.rx 13#5).toNat % 16 = 0 ∧
      2 ^ 24 < (s.th.rx 15#5).toNat ∧ s.rangeForm (s.th.rx 11#5) (s.th.rx 15#5).toNat = none ∧ s.inbound = [] ∧ (s.postedTo 5).length < 64 ∧
      64 ≤ (fullUp.postedTo 5).length ∧ s.rangeForm 0x00E0000000000000#64 64 = none ∧ dieOf 0x00E0000000000000#64 = 14 ∧
      s.rangeForm 0x00E0000000000000#64 16 = none ∧ s.rangeForm 0x00A0000000000000#64 16 = some 0x00A0000000000000#64 ∧
      s.rangeForm 0x4008#64 16 = none ∧ (0x4008#64 : Word).toNat % 16 ≠ 0) ∧
    (s.th.sent = false ∧ s.rangeForm 0x00A0000000000000#64 64 = some 0x00A0000000000000#64 ∧ s.slotsUsed < 96 ∧ w.th.ors ≠ 0 ∧ w.th.sent = false) ∧
    (sent.th.sent = true ∧ sent.localDone = true ∧ sent.th.ors = 0 ∧ 2 ^ 25 ≤ (sent.th.rx 14#5).toNat ∧ sent.isFenced sent.myLayer = false ∧
      sent.isAsleep sent.myLayer = false ∧ (sent.th.rx 10#5).toNat < 2 ^ 25 ∧ (sent.th.rx 12#5).toNat ≤ 2 ^ 24) ∧
    (s.raddWaits 0x4000 16 = false ∧ w.raddWaits 0x4000 4 = false ∧ s.deviceWaits 0 = false ∧ w.deviceWaits 0 = false) ∧
    (∃ bs poison s', sent.copyRead sent.copyBlank 3 0x2000#64 64 = ((bs, poison), none, false, s')) ∧
    (box { sup with sent := true, ors := 1 }).th.ors ≠ 0 :=
  ⟨by refine ⟨?_, ?_, ?_⟩ <;> exact box_maps _ _ _ rfl rfl rfl rfl (by decide),
    by decide +kernel, by decide +kernel, by decide +kernel, by decide +kernel, copyReads_eq (by decide +kernel), by decide⟩

theorem test_witness_CsrChecksAndReads :
    let s := box sup
    let u := box user
    s.th.status.getLsbD 0 = true ∧ u.th.status.getLsbD 0 = false ∧ (s.th.status.getLsbD 4 = true ∨ s.th.status.getLsbD 5 = true) ∧
      ¬ (u.th.status.getLsbD 4 = true ∨ u.th.status.getLsbD 5 = true) ∧ (0x87F#12 : BitVec 12).toNat = 0x87F ∧ (0x880#12 : BitVec 12).toNat = 0x880 ∧
      (0x016#12 : BitVec 12).toNat = 0x016 := by decide

theorem test_witness_CsrWritesChangeOneRegister :
    let s := box sup
    let got := box { sup with reqs := [7], answers := [⟨7, 0, .rel, 0, 0#64, 0#4, 0x3F#1024, 0, none⟩] }
    s.th.status.getLsbD 0 = true ∧ s.th.status.getLsbD 4 = true ∧ s.current s.myLayer ⟨0x123#12, 0#8⟩ = true ∧
      (∀ c, c < 16 → (s.barCl s.myLayer 15 c).cur = 0 ∧ (s.barCl s.myLayer 15 c).next = 0) ∧ barValid s.myLayer 0x80040490#64 = true ∧
      got.itemAnswer = some ⟨7, 0, .rel, 0, 0#64, 0#4, 0x3F#1024, 0, none⟩ ∧ s.th.reqs = [] ∧ s.slotAccepts s.myLayer 1 0x0#64 = false ∧
      s.slotAccepts s.myLayer 8 0x0#64 = true ∧ (box { sup with reqs := [7] }).itemAnswer = none ∧
      s.current s.myLayer ⟨0x123#12, 7#8⟩ = false ∧ s.th.resident = true ∧ barValid s.myLayer 0x80000000#64 = false ∧
      (∃ c, c < 16 ∧ (({ s with layers := [(0, { Layer.reset with barCl := [(0, { BarCluster.reset with cur := 1 })] })] } : State).barCl 0 0 c).cur ≠ 0) ∧
      ({ s with cairn := { s.cairn with state := 1 } } : State).cairn.state = 1 := by
  refine ⟨rfl, rfl, by decide +kernel, by decide +kernel, ?_, ?_, rfl, ?_, ?_, ?_, by decide +kernel, rfl, ?_, ⟨0, by decide⟩, rfl⟩ <;>
    decide +kernel

theorem test_witness_WaitsAndMaintenance :
    let s := box sup
    let i := box { sup with irq17 := some true }
    let p : Packet := { Packet.blank with src := 0, kind := .radd false, va := 0x2000#64, n := 8, stage := .toHome }
    let w : State := { s with packets := [p] }
    (Maps s .fetch (s.th.rx 10#5) 0x2000 0 ∧ Maps s .load (s.th.rx 10#5) 0x2000 0) ∧
    (s.th.status.getLsbD 0 = true ∧ i.th.pending.isSome = true ∧ s.th.pending = none ∧ s.formOk 0x2000#64 = true ∧ dieOf 0x2000#64 = s.myLayer ∧
      s.localDone = true ∧ s.formOk 0xFF00000000000000#64 = false ∧ s.formOk 0x0010000000002000#64 = true ∧
      ¬ (dieOf 0x0010000000002000#64 = s.myLayer ∨ dieOf 0x0010000000002000#64 = 8 ∨ dieOf 0x0010000000002000#64 = 15) ∧
      w.localDone = false ∧ s.xlatBusy s.myLayer = false ∧ s.cairn.state = 0) :=
  ⟨by refine ⟨?_, ?_⟩ <;> exact box_maps _ _ _ rfl rfl rfl rfl (by decide), by decide +kernel⟩

theorem test_witness_RegionsPairsAndSteps :
    let s := box sup
    let paired := box { sup with status := 0x479#64, region := 0x3000#64, crc := 1#64 }
    let cut := box { sup with step := 4#64, x := [(10, 5#64)] }
    let armed : State := { cut with cairn := { Cairn.reset with state := 1, s := 5#64, nmember := 2 } }
    let off : State := { s with cores := [(0, { Core.reset with en := false })] }
    let taken : State := { s with threads := [(0, sup), (2, sup)] }
    (s.th.status.getLsbD 10 = false ∧ paired.th.status.getLsbD 10 = true ∧ paired.th.crc ≠ paired.th.shadowCrc ∧ paired.th.restartable = true) ∧
    ((s.core 0).en = true ∧ (s.core ((0 ^^^ 2) / 2)).en = true ∧ (off.core 0).en = false ∧ (s.thread (0 ^^^ 2)).resident = false ∧
      (s.thread (0 ^^^ 2)).shadow = false ∧ (taken.thread (0 ^^^ 2)).resident = true ∧ s.th.status.getLsbD 0 = true) ∧
    (¬ (cut.cairn.state = 1 ∨ cut.cairn.state = 2 ∨ cut.cairn.state = 3) ∧ armed.cairn.state = 1 ∧ armed.th.tag.ctx = armed.cairn.ctx ∧
      armed.th.step + 1#64 = armed.cairn.s ∧ armed.th.flipped = false ∧ cut.th.step.toNat < (cut.th.rx 10#5).toNat ∧
      (cut.th.rx 1#5).toNat ≤ cut.th.step.toNat) := by decide

/-! ### Saving, loading, contexts -/

/-- A thread whose save area stands at 0x40000. -/
def saver : Thread := { sup with x := [(10, 0x40000#64), (11, 0x40001#64), (12, 2#64)], status := 0xC000079#64 }

/-- A saved area: VERSION 1 and VALID with bits 0 and 1. -/
def saved : State := { box saver with hbm := [(0x400C0, 1#8), (0x400C8, 3#8)] }

theorem area_maps (s : State) (k : AKind) (h1 : s.tlb = [page]) (h2 : s.cur = 0) (h3 : s.layers = []) (h4 : s.th.tag = Tag.zero) (j : Nat)
    (hj : j < 0x9A00) : Maps s k (0x40000#64 + BitVec.ofNat 64 j) (0x40000 + j) 0 := by
  have e : (0x40000#64 + BitVec.ofNat 64 j).toNat = 0x40000 + j := by
    rw [BitVec.toNat_add, BitVec.toNat_ofNat, BitVec.toNat_ofNat]; omega
  have h := box_maps s k (0x40000#64 + BitVec.ofNat 64 j) h1 h2 h3 h4 (by omega)
  rw [e] at h
  exact h

theorem test_witness_SavingAThread :
    let s := box saver
    let d : Denial := ⟨0x09, .store, 0x0010000000002000#64, 0, 0⟩
    let r : CopyRec := ⟨Tag.zero, 2, 0x2000#64, 0#512⟩
    (∀ j, j < 0x9A00 → Maps s .store (s.th.rx 10#5 + BitVec.ofNat 64 j) (0x40000 + j) 0) ∧
    (s.th.status.getLsbD 0 = true ∧ (s.th.rx 11#5).toNat % 64 ≠ 0 ∧ (s.th.rx 10#5).toNat % 64 = 0 ∧
      (box { saver with denial := some d }).th.denial = some d ∧ (box { saver with ors := 1 }).th.denial = none ∧
      (box { saver with ors := 1 }).th.ors ≠ 0) ∧
    (s.th.denial = none ∧ s.localDone = true ∧ s.th.ors = 0 ∧ (∀ e, e ∈ s.th.te → e.done = true) ∧ s.copiesRunning = false) ∧
    ((box { saver with copyRecs := [r] }).th.copyRecs = [r] ∧ s.th.copyRecs = [] ∧ s.isFenced s.myLayer = false ∧ s.isAsleep s.myLayer = false) ∧
    (s.th.status.getLsbD 26 = true ∧ s.th.status.getLsbD 27 = true ∧ s.th.status.getLsbD 28 = false ∧ s.th.status.getLsbD 32 = false ∧
      s.th.wp0 = none) :=
  ⟨fun j hj => area_maps _ _ rfl rfl rfl rfl j hj, by decide +kernel, ⟨by decide, by decide, by decide, by decide, by decide⟩, by decide +kernel, by decide⟩

theorem test_witness_LoadingAThread :
    let s := saved
    let D := fun (o : Nat) => BitVec.ofNat 64 (s.peekNat (0x40000 + o) 8)
    (∀ j, j < 0x9A00 → Maps s .load (s.th.rx 10#5 + BitVec.ofNat 64 j) (0x40000 + j) 0) ∧
    (s.th.status.getLsbD 0 = true ∧ (s.th.rx 11#5).toNat % 64 ≠ 0 ∧ (s.th.rx 10#5).toNat % 64 = 0 ∧ s.poison = [] ∧
      s.isFenced s.myLayer = false ∧ s.isAsleep s.myLayer = false) ∧
    (BitVec.ofNat 64 ((box saver).peekNat (0x40000 + 0xC0) 8) ≠ 1#64 ∧ D 0xC0 = 1#64 ∧ (D 0xC8).getLsbD 0 = true ∧
      s.current s.myLayer ⟨(D 0x08).setWidth 12, (D 0x08).extractLsb' 12 8⟩ = true ∧ (D 0xC8).getLsbD 14 = false) ∧
    (((2 ^ 17 - 1 : Nat).testBit 0 = true ∧ ((s.th.rx 12#5).toNat % 2 ^ 17).testBit 0 = false) ∧
      ((s.th.rx 12#5).toNat % 2 ^ 17).testBit 1 = true ∧ ((s.th.rx 12#5).toNat % 2 ^ 17).testBit 14 = false) :=
  ⟨fun j hj => area_maps _ _ rfl rfl rfl rfl j hj, by decide +kernel, by decide +kernel, by decide +kernel⟩

/-- Context 0x021 at incarnation 6 with PEND, where 5 is leaving. -/
def leaver : State := { box { sup with x := [(10, 0x21#64), (11, 5#64), (12, 0x1000#64), (13, 6#64), (14, 4#64), (15, 0x2000#64)] } with
  layers := [(0, { Layer.reset with inc := [(0x21, ⟨6#8, true⟩)] })] }

theorem test_witness_ContextsAndFaultQueues :
    let s := leaver
    let r : CopyRec := ⟨Tag.zero, 2, 0x2000#64, 7#512⟩
    let fq : State := { box sup with layers := [(0, { Layer.reset with fq := [9#512] })] }
    let held : State := { box sup with layers := [(0, { Layer.reset with groups := [(0x2000, ⟨Tag.zero, 0, 5⟩)] })] }
    let popped : State := { box sup with threads := [(0, sup), (2, { sup with popped := some 9#512 })] }
    let q : Packet := { Packet.blank with id := 4, kind := .amo 0, src := 2, va := 0x2000#64, n := 8, stage := .held 0x2000 }
    let waits : State := { held with packets := [q], threads := [(0, sup), (2, { sup with reqs := [4] })] }
    let popper := box { sup with ecause := 0x14#64, copyRecs := [r] }
    let got := box { sup with reqs := [7], answers := [⟨7, 0, .amo, 0, 0#64, 0#4, 5#1024, 0, none⟩] }
    let busy : State := { s with packets := [{ Packet.blank with tag := ⟨0x21#12, 5#8⟩ }] }
    (Maps (box sup) .store ((box sup).th.rx 10#5) 0x2000 0 ∧ Maps popper .store (popper.th.rx 10#5) 0x2000 0) ∧
    (s.th.status.getLsbD 0 = true ∧ s.th.reqs = [] ∧ 4096 ≤ (s.th.rx 12#5).toNat ∧ (s.th.rx 10#5).toNat < 4096 ∧
      got.itemAnswer = some ⟨7, 0, .amo, 0, 0#64, 0#4, 5#1024, 0, none⟩) ∧
    ((s.th.rx 11#5).toNat < 256 ∧ (s.th.rx 13#5).toNat = (s.incOf s.myLayer 0x021#12).cur.toNat ∧
      (s.th.rx 11#5).toNat ≠ (s.incOf s.myLayer 0x021#12).cur.toNat ∧ (s.incOf s.myLayer 0x021#12).pend = true ∧
      ((s.incOf s.myLayer 0x021#12).cur - 1#8).toNat = (s.th.rx 11#5).toNat ∧
      ((s.incOf s.myLayer 0x021#12).cur - 1#8).toNat ≠ (s.th.rx 14#5).toNat) ∧
    (busy.leftEverywhere ⟨0x21#12, 5#8⟩ = false ∧ s.leftEverywhere ⟨0x21#12, 5#8⟩ = true ∧ s.reclaimSent 0x21 = false) ∧
    (((box sup).th.rx 10#5).toNat % 64 = 0 ∧ (box sup).raddWaits 0x2000 64 = false ∧ (box sup).deviceWaits 0 = false ∧ (box sup).th.ecause.toNat % 256 ≠ 0x14 ∧ ((box sup).layer 0).fq = [] ∧
      popper.th.ecause.toNat % 256 = 0x14 ∧ popper.th.copyRecs = [r] ∧ (box { sup with ecause := 0x14#64 }).th.copyRecs = [] ∧
      (fq.layer 0).fq = [9#512] ∧ (fq.layer 0).fqWaiting = [] ∧ fq.queueTaken = false ∧ popped.queueTaken = true) ∧
    ((box { sup with ors := 1 }).performedAt 3#2 = false ∧ (box sup).performedAt 3#2 = true ∧
      Table.find ((box sup).layer 0).groups 0x2000 = none ∧ (Table.find (held.layer 0).groups 0x2000).isSome = true ∧ held.inbound = [] ∧ held.packets = []) ∧
    (waits.packets = [q] ∧ homeOf (layerOf q.src) q.va = waits.myLayer ∧ q.kind.writesOnce = true ∧ q.id ∈ (waits.thread q.src).reqs ∧
      ((waits.thread q.src).release 0 0x2000).takesInterrupt = false) :=
  ⟨by refine ⟨?_, ?_⟩ <;> exact box_maps _ _ _ rfl rfl rfl rfl (by decide), by refine ⟨?_, ?_, ?_, ?_, ?_, ?_⟩ <;> decide +kernel⟩

/-! ### Events -/

theorem test_witness_EventsOfThreads :
    let ready : Thread := { sup with status := 0x7B#64 }
    let r : CopyRec := ⟨Tag.zero, 2, 0x2000#64, 0#512⟩
    let e : TeEntry := ⟨0, 3, 0, Tag.zero, 0, 0, 0, 0, 0, false, true⟩
    let c := (box { ready with copyRecs := [r] }).thread 0
    let h := (box { ready with irq16 := some ⟨300, true, 0, 300⟩ }).thread 0
    let i := (box { ready with irq17 := some true }).thread 0
    let run := (box { sup with slice := 5, sliceE := 5 }).thread 0
    (c.resident = true ∧ c.looped = false ∧ c.status.getLsbD 1 = true ∧ c.sent = false ∧ c.parked ≠ some .wfi ∧ c.reqs = [] ∧ c.popped = none ∧ c.copyRecs = [r]) ∧
    (h.copyRecs = [] ∧ h.irq16 = some ⟨300, true, 0, 300⟩ ∧ i.copyRecs = [] ∧ i.irq16 = none ∧ i.irq17 = some true) ∧
    ((box sup).thread 0).status.getLsbD 1 = false ∧
    (run.resident = true ∧ run.slice ≠ 0#32 ∧ run.sliceRun = true ∧ max run.slice.toNat (2 * run.switchCost.toNat) ≤ run.sliceE) ∧
    (((box { sup with slice := 6, sliceE := 5 }).thread 0).sliceE < 6) ∧
    ((box { sup with parked := some .waitne }).thread 0).parked = some .waitne ∧
    ((box { sup with parked := some (.watch 0 0x2000 8 5) }).thread 0).parked = some (.watch 0 0x2000 8 5) ∧
    ((box { sup with parked := some (.deferral 0) }).thread 0).parked = some (.deferral 0) ∧
    ((box { sup with te := [e], teSeq := 1 }).thread 0).teSeq = 1 ∧ (e.seq = 0 ∧ e.done = true) ∧
    ((box sup).current (0 / 256) ⟨(5#64 : Word).setWidth 12, (5#64 : Word).extractLsb' 12 8⟩ = true ∧
      (box sup).current (0 / 256) ⟨(0x1005#64 : Word).setWidth 12, (0x1005#64 : Word).extractLsb' 12 8⟩ = false) := by decide +kernel

theorem test_witness_EventsOfCoresAndClusters :
    let e : TeEntry := ⟨0, 0, 4, Tag.zero, 3, 0, 0, 0, 0, false, false⟩
    let q : Packet := { Packet.blank with id := 4, unit := 2, src := 0, va := 0x2000#64, n := 64, stage := .done }
    let s := box { sup with te := [e], teSeq := 1, reqs := [4], plane0 := 3 }
    let running : State := { s with clusters := [(0, { Cluster.reset with running := some (0, 0), cur := some 0 })], packets := [q] }
    let loading : State := { s with clusters := [(0, { Cluster.reset with loading := some (0, 0), twld := [(0, 2, 3, ⟨0, 0⟩)] })] }
    let armed : State := { s with cairn := { Cairn.reset with state := 2 } }
    let due := box { sup with status := 0x479#64, exchangeDue := true }
    let miss := box { sup with status := 0x479#64, exchangeDue := true, crc := 1#64, region := 0x3000#64 }
    let stuck := box { sup with status := 0x479#64, exchangeDue := true, crc := 1#64 }
    let open_ : State := { s with layers := [(0, { Layer.reset with barCl := [(0, { BarCluster.reset with cur := 1 })] })] }
    (((box sup).cluster 0).running = none ∧ ((box sup).cluster 0).loading = none ∧ (∀ i, i < 16 → ((box sup).thread (16 * 0 + i)).te = []) ∧
      ((box sup).cluster 0).cur = none) ∧
    ((s.cluster 0).twld = [] ∧ s.current 0 e.tag = true ∧ e.op ≠ 2 ∧ s.weight (8 * 0 + ((s.cluster 0).last + 1 + 0) % 8) ≠ 0 ∧
      s.coreQueue (8 * 0 + ((s.cluster 0).last + 1 + 0) % 8) = [(0, e)] ∧ (s.cluster 0).active ≠ some e.plane) ∧
    ((running.cluster 0).running = some (0, 0) ∧ (running.thread 0).te.find? (fun e => e.seq == 0) = some e ∧ running.packets = [q] ∧
      running.responseInOrder q = true ∧ q.joined = [] ∧ (running.thread 0).reqs = [q.id] ∧ running.currentNow q.tag = true) ∧
    ((loading.cluster 0).loading ≠ none ∧ (loading.cluster (0 / 16)).twld.find? (fun w => w.1 == 0) = some (0, 2, 3, ⟨0, 0⟩)) ∧
    ((∃ c, c < 16 ∧ 0 < (open_.barCl 0 0 c).cur + (open_.barCl 0 0 c).next) ∧ ¬ ∃ c, c < 16 ∧ 0 < (s.barCl 0 0 c).cur + (s.barCl 0 0 c).next) ∧
    (s.slotAccepts 0 1 0#64 = false ∧ s.slotAccepts 0 0 15#64 = true) ∧
    (¬ (s.cairn.state = 1 ∨ s.cairn.state = 2 ∨ s.cairn.state = 3) ∧ armed.cairn.state = 2) ∧
    ((due.thread 0).paired = true ∧ (due.thread 0).exchangeDue = true ∧ (due.thread 0).crc = (due.thread 0).shadowCrc ∧
      (miss.thread 0).crc ≠ (miss.thread 0).shadowCrc ∧ (miss.thread 0).restartable = true ∧ (stuck.thread 0).restartable = false ∧
      ¬ ((s.thread 0).paired = true ∧ (s.thread 0).exchangeDue = true)) := by decide +kernel

/-- A request of thread 0 on layer 0 to layer 1, at one stage. -/
def pkt (k : PktKind) (st : Stage) : Packet :=
  { Packet.blank with id := 4, kind := k, va := 0x0010000000002000#64, n := 8, align := 8, data := 7#512, counted := 1, stage := st, pa := 0x2000 }

def sent (p : Packet) : State := { box { sup with reqs := [4], ors := 1 } with
  packets := [p], tlb := [⟨mtlb 1 (tsOf p.va), 1, Tag.zero, 1, 0, 30, 0x19F#64⟩] }

theorem test_witness_EventsOfRequests :
    let a := { pkt .store .toHome with pos := 18 }
    let stale := { a with tag := ⟨0#12, 5#8⟩ }
    let e : TlbEntry := ⟨mtlb 1 (tsOf a.va), 1, Tag.zero, 1, 0, 30, 0x19F#64⟩
    let fenced : State := { sent a with layers := [(1, { Layer.reset with power := .fenced })] }
    let toBd := { a with va := 0x0080000000000000#64, pa := 0x7FF8 }
    let retry := { a with stage := .retry }
    let own := { pkt (.radd false) .toHome with va := 0x2000#64, counted := 0, pos := 2 }
    let home := { pkt .store (.atHome 0x2000) with pos := 24 }
    let add := { pkt (.radd false) (.atHome 0x2000) with pos := 24 }
    let late := { home with tag := ⟨0#12, 5#8⟩ }
    let done := pkt .store .done
    let denied := pkt .store (.denied 0x0B)
    let comb := { pkt (.radd false) .combining with va := 0x2000#64 }
    let fill := pkt .load .done
    let joined := { fill with joined := [2] }
    let near := { comb with counted := 0 }
    let far := pkt .load .combining
    let orphan := { fill with orphan := true }
    let nine := { a with va := 0x0090010000002000#64 }
    let nineLoad := { nine with kind := .load }
    let out := { pkt .load (.atHome 0x2000) with va := 0x0080008000000000#64 }
    let held := { a with stage := .bdHeld }
    let asleep : State := { sent held with layers := [(1, { Layer.reset with power := .asleep })] }
    ((sent a).packet 4 = some a ∧ (sent a).arrivalDue a = true ∧ (sent done).arrivalDue done = false ∧ dieOf a.va = 1 ∧ a.src / 256 = 0 ∧
      (sent stale).arrivalDue stale = true ∧ (sent stale).current 1 stale.tag = false ∧ (sent a).current 1 a.tag = true ∧
      (sent a).isFenced 1 = false ∧ fenced.isFenced 1 = true ∧ fenced.arrivalDue a = true ∧ a.kind.posted = true ∧ a.va.toNat % a.align = 0 ∧
      (sent a).tlbHits (mtlb 1 (tsOf a.va)) 1 a.tag 1 (offOf a.va) = [e] ∧ permCause a.kind.access a.sup e.pte = 0 ∧ pteD e.pte = true ∧
      pteType e.pte < 3 ∧ a.ownRadd = false ∧ a.orphan = false ∧ (sent own).arrivalDue own = true ∧ own.ownRadd = true) ∧
    ((sent toBd).arrivalDue toBd = true ∧ dieOf toBd.va = 8 ∧ toBd.pa + toBd.n ≤ 0x8000) ∧
    ((sent retry).packet 4 = some retry ∧ dieOf retry.va = partner 0 ∧ ((sent retry).dropPacket 4).viaBd retry = false) ∧
    ((sent home).packet 4 = some home ∧ (sent home).firstOnLine home = true ∧ home.mt ≠ 3 ∧ home.counted ≠ 0 ∧ (sent add).firstOnLine add = true ∧
      (sent late).firstOnLine late = true ∧ (sent late).current 1 late.tag = false) ∧
    (done.wire = false ∧ (sent done).responseInOrder done = true ∧ done.joined = [] ∧ (sent done).currentNow done.tag = true ∧
      (sent stale).currentNow stale.tag = false ∧ (sent denied).responseInOrder denied = true ∧ dieOf comb.va = 0) ∧
    ((sent near).leaveDue near = true ∧ near.isRadd = true ∧ near.counted = 0 ∧ (sent far).leaveDue far = true ∧ far.isRadd = false ∧
      dieOf far.va = partner 0 ∧ ((sent far).dropPacket 4).viaBd far = false ∧ (sent a).leaveDue a = false) ∧
    (fill.kind.posted = false ∧ (sent fill).responseInOrder fill = true ∧ ((sent fill).thread 0).reqs.contains 4 = true ∧ joined.joined ≠ [] ∧ joined.suits ((sent joined).thread 2) = true ∧
      (sent joined).responseInOrder joined = true ∧ orphan.orphan = true) ∧
    (dieOf nine.va = 9 ∧ nine.stage = .toHome ∧ nineLoad.kind.posted = false ∧ ((sent nineLoad).thread 0).reqs.contains 4 = true ∧
      dieOf out.va = 8 ∧ out.stage = .atHome out.pa ∧ held.stage = .bdHeld ∧ (asleep.layer 1).power = .asleep) := by
  refine ⟨?_, ?_, ?_, ?_, ?_, ?_, ?_, ?_⟩ <;> decide +kernel

/-- A cut closes, and layer 1 has these staging copies. -/
def crammed (p : Packet) (tb : Table Staged) : State := { sent p with
  cairn := { Cairn.reset with state := 2, lmask := 2#8 }, layers := [(1, { Layer.reset with staged := tb })] }

/-- A store to a device page whose granule would be copied, with all slots of staging taken (R365). -/
theorem test_witness_AStalledDeviceStore :
    let p := { pkt .store (.atHome 0x2000) with pos := 24, mt := 3, colour := true }
    let s := crammed p (List.replicate 245760 (5, ⟨0#32768, 0#256, 0⟩))
    s.packet 4 = some p ∧ s.firstOnLine p = true ∧ s.current 1 p.tag = true ∧
      ¬ (p.mt ≠ 3 ∨ s.stallsAt ((1 * 2 ^ 48 + 0x2000) / 16) p.colour = false) := by
  generalize hn : 245760 = n
  have e : layerOfKey (16 * ((1 * 2 ^ 48 + 0x2000) / 16)) = 1 ∧ paOfKey (16 * ((1 * 2 ^ 48 + 0x2000) / 16)) / 4096 = 2 := by decide
  have h (p : Packet) (tb : Table Staged) : ((crammed p tb).layer 1).staged = tb := rfl
  have c (p : Packet) (tb : Table Staged) : (crammed p tb).cairn.slots = 245760 := by show Cairn.slots { Cairn.reset with state := 2, lmask := 2#8 } = 245760; decide
  refine ⟨rfl, ?_, rfl, ?_⟩
  · exact (by decide +kernel : (crammed { pkt .store (.atHome 0x2000) with pos := 24, mt := 3, colour := true } []).firstOnLine
      { pkt .store (.atHome 0x2000) with pos := 24, mt := 3, colour := true } = true)
  · dsimp only
    simp only [State.stallsAt, e.1, e.2, h, c, find_replicate _ 2 _ (by decide), List.length_replicate, ← hn]
    exact of_decide_eq_true rfl

theorem test_witness_EventsOfCopiesAndMessages :
    let c : Copy := { id := 4, src := 0, tag := Tag.zero, sup := true, colour := false, cg := 2, form := 0, dst := 0x3000#64, from_ := 0x2000#64
                      len := 64#64, strides := 0#64, arr := 0#64, hasArr := false, next := [], ahead := [], moved := [], flying := [], reads := [], sig := 0, doneBytes := 0, agent := 0 }
    let moved : Copy := { c with next := [(0, 1)] }
    let bad : Copy := { c with from_ := 0x0000000080000000#64 }
    let s : State := { box sup with copies := [c] }
    let b : Posted := ⟨0, 0, Tag.zero, true, 0x2000#64, 64, 0x4010#64⟩
    let g : State := { box sup with posted := [(5, [b])] }
    let n : Inbound := ⟨6, 5, 0, [1#8], none, none, none⟩
    let m : Message := ⟨7, 0, Tag.zero, true, false, false, 5#64, [1#8], 0x4000#64, 8, some (1, 0, 1)⟩
    let y : State := { box sup with inbound := [n], messages := [m] }
    let z : State := { box sup with messages := [{ m with tag := ⟨0#12, 5#8⟩ }] }
    (Maps s .load c.from_ 0x2000 0 ∧ Maps s .store c.dst 0x3000 0 ∧ Maps g .store b.va 0x2000 0 ∧ Maps g .store b.status 0x4010 0 ∧
      Maps y .store m.comp 0x4000 0) ∧
    (s.copy 4 = some c ∧ c.src = s.cur ∧ c.tag = s.th.tag ∧ c.sup = s.th.status.getLsbD 0 ∧ s.isFenced s.myLayer = false ∧
      s.isAsleep s.myLayer = false ∧ 0 < c.len.toNat ∧ c.from_.toNat % 64 + c.len.toNat ≤ 64 ∧ c.dst.toNat % 64 + c.len.toNat ≤ 64 ∧
      s.sourceBusy c c.from_.toNat c.len.toNat = false ∧ c.reads = [] ∧ s.poison = [] ∧ moved.finished = true ∧ c.finished = false ∧
      ({ s with copies := [bad] } : State).copy 4 = some bad ∧ (({ s with copies := [bad] } : State).copyFault bad).isSome = true) ∧
    ((box sup).postedTo 5 = [] ∧ g.postedTo 5 = [b] ∧ b.src = g.cur ∧ b.tag = g.th.tag ∧ b.sup = g.th.status.getLsbD 0 ∧
      0 < min 64 b.len ∧ b.va.toNat % 64 + min 65 b.len ≤ 64 ∧ b.status.toNat % 16 = 0 ∧ b.status.toNat % 128 ≠ 0 ∧ 0x2000 + 64 ≤ 0x4010) ∧
    (y.inbound.find? (fun x => x.id == 6) = some n ∧ y.messages.find? (fun x => x.id == 7) = some m ∧ m.answer = some (1, 0, 1) ∧
      epHost m.endpoint = false ∧ y.currentNow m.tag = true ∧ m.src = y.cur ∧ m.comp.toNat % 16 = 0 ∧ z.currentNow ⟨0#12, 5#8⟩ = false) := by
  refine ⟨?_, ?_, ?_, ?_⟩
  · refine ⟨?_, ?_, ?_, ?_, ?_⟩ <;> exact box_maps _ _ _ rfl rfl rfl rfl (by decide)
  all_goals decide +kernel

theorem test_witness_EventsOfRopeAndLayers :
    let i : Item := { Item.blank with id := 1, off := 0x4000, n := 8, val := 5#64 }
    let x : Transmission := ⟨0, 0, 0, [i], false⟩
    let q : Item := { Item.blank with op := .request 4, id := 4 }
    let p := pkt .load .toHome
    let s := box sup
    let ready : State := { s with layers := [(0, { Layer.reset with queue := [(0, [i])] })] }
    let idle : State := { s with slot := 58 }
    let air : State := { s with air := [x], slot := 2 }
    let fresh : State := { s with air := [x], slot := 1 }
    let beat : State := { s with air := [⟨0, 0, 1, [q], false⟩], slot := 2, packets := [{ p with wire := true }] }
    let change : State := { s with slot := 64, changes := [(0, 3, 15#64)] }
    let row : State := { s with layers := [(0, { Layer.reset with
      bardesc := [(2, 0x80040510#64)], barCl := [(33, { BarCluster.reset with cur := 1 })] })] }
    let corner : State := { s with layers := [(0, { Layer.reset with
      bardesc := [(2, 0x80040490#64)], barCl := [(32, { BarCluster.reset with cur := 1, next := 1 })], bars := [(2, { BarLayer.reset with released := 1 })] })] }
    let gated : State := { s with clusters := [(3, { Cluster.reset with gated := true })] }
    let busy : State := { s with packets := [{ p with src := 48, stage := .combining }] }
    let woken : State := { gated with packets := busy.packets }
    let parked : State := { corner with threads := [(0, { sup with parked := some (.bar 2 0) }), (1, { sup with parked := some (.barwait 2 0) })] }
    let waking : State := { s with layers := [(2, { Layer.reset with power := .waking 4 })] }
    let fenced : State := { s with layers := [(2, { Layer.reset with power := .fenced })] }
    let f : Item := { Item.blank with op := .fence 2, id := 9 }
    let kill : Item := { Item.blank with op := .kill, id := 9, val := 5#64 }
    let told : State := { fenced with air := [⟨0, 8, 0, [f], false⟩], slot := 2 }
    let killed : State := { s with air := [⟨0, 0, 0, [kill], false⟩], slot := 2, rpcItem := some (9, none) }
    (told.currentNow f.tag = true ∧ told.fencePending 2 = true ∧ fenced.fencePending 2 = false ∧ killed.currentNow kill.tag = true ∧
      kill.val.toNat = 5 ∧ (killed.mirrorEntry 5).pend = false ∧ (killed.thread 0).shadow = false ∧ killed.rpcItem = some (kill.id, none)) ∧
    ((ready.slotInForce 0).toNat % 16 = 0 ∧ (ready.slotInForce 0).toNat / 16 % 4 = 0 ∧ ready.landed true = none ∧ ready.landed false = none ∧
      ready.forceDue = false ∧ (ready.layer 0).power = .awake ∧ Table.at [] (ready.layer 0).retrans 0 = [] ∧
      Table.at [] (ready.layer 0).queue 0 = [i] ∧ ready.lanesOf i ≤ ready.lanes) ∧
    (idle.slot % 64 = 58 ∧ (idle.slotInForce 58).toNat % 16 = 15 ∧ idle.landed true = none ∧ idle.forceDue = false ∧ idle.spaceVeto = none ∧ ready.spaceVeto = none ∧ air.landed true ≠ none) ∧
    (fresh.air = [x] ∧ x.slot + 1 = fresh.slot ∧ x.tx ≠ 8 ∧ Table.at 0 (fresh.layer 0).vetoes 0 % 16 ≠ 15 ∧
      fresh.recent 10 0 (crcIndex 0) % max 1 ((fresh.threshold 10).toNat % 2 ^ 32) ≠ 0) ∧
    (x.cls = 0 ∧ x.slot + 2 ≤ air.slot ∧ i.op = .rst ∧ air.currentNow i.tag = true ∧ i.off + i.n ≤ 65536 ∧
      (∀ k, k < 8 → (air.layer k).power = .awake)) ∧
    (beat.packet 4 = some { p with wire := true } ∧ beat.currentNow p.tag = true) ∧
    (change.slot % 64 = 0 ∧ change.changes = [(0, 3, 15#64)] ∧ 0 < change.slot / 64) ∧
    (barIn (row.bardesc 0 2) 0 = true ∧ barLastCol (row.bardesc 0 2) 0 = false ∧ row.barRow 0 2 1 = true ∧ (row.barCl 0 2 1).sentRow = false ∧
      (row.barCl 0 2 0).east = false ∧ (row.barCl 0 2 0).phase = (row.barCl 0 2 1).phase ∧ s.barRow 0 2 1 = false ∧ s.barColumn 0 2 4 = false ∧
      corner.releaseDue 0 2 0 = true) ∧
    ((s.cluster 3).gated = false ∧ s.wakeSignal 3 = false ∧ busy.wakeSignal 3 = true ∧ (woken.cluster 3).gated = true ∧ woken.wakeSignal 3 = true ∧
      parked.releaseDue 0 2 0 = true ∧ (parked.thread 0).parked = some (.bar 2 0) ∧ (parked.thread 1).parked = some (.barwait 2 0) ∧
      0 ≤ (parked.barCl 0 2 0).phase) ∧
    ((waking.layer 2).power = .waking 4 ∧ (fenced.layer 2).power = .fenced ∧ (s.layer 2).power ≠ .fenced) := by
  refine ⟨?_, ?_, ?_, ?_, ?_, ?_, ?_, ?_, ?_, ?_⟩ <;> decide +kernel

theorem test_witness_EventsOfCareAndCuts :
    let s := box sup
    let pairs : State := { s with threads := [(5, { sup with status := 0x479#64 })] }
    let hot : State := { s with basecamp := { Basecamp.reset with points := [(20, 7)], hot := [(20, 9)], moving := [5], below := 9 } }
    let lowest : State := { s with basecamp := { Basecamp.reset with points := (List.range 128).map fun k => (k, 7) } }
    let told : State := { s with layers := [(3, { Layer.reset with deferrals := 2 })] }
    let close : State := { s with cairn := { Cairn.reset with state := 2, lmask := 1#8, injected := [(0, 3)], consumed := [(8, 3)], lastRound := some (3, 3) } }
    let pod : State := { s with cairn := { Cairn.reset with state := 2, lmask := 1#8, pod := true, met := true, injected := [(0, 3)], consumed := [(8, 3)], lastRound := some (3, 3) } }
    let f : Drain := ⟨0#64, 0, 7, 1, 0#512, 0#32768⟩
    let drain : State := { s with cairn := { Cairn.reset with state := 3, lmask := 3#8, flying := [f], wanted := [(1, 9)] } }
    let dirty : State := { s with hs := [((2 ^ 48 + 16) / 16, ⟨5#128, 0, false⟩)] }
    ((4200 : Nat) < 4201 ∧ s.basecamp.plimit = 4200 ∧ 100 * 3989 < 95 * s.basecamp.plimit ∧ 95 * s.basecamp.plimit ≤ 100 * 3990 ∧
      ((pairs.thread (256 * 0 + 773 % 256)).paired = true ∧ (s.thread (256 * 0 + 773 % 256)).paired = false) ∧
      (127 : Nat) < 128 ∧ Table.at 0 s.basecamp.points 127 < 7 ∧ s.basecamp.below < 9 ∧ ¬ Table.at 0 hot.basecamp.points 20 < 7 ∧ (19 < 128 ∧ Table.at 0 hot.basecamp.points 19 < 7) ∧
      (∀ a, a < 128 → ¬ Table.at 0 lowest.basecamp.points a < 7)) ∧
    ((told.layer 3).deferrals ≠ 0 ∧ told.basecamp.records.length ≤ 248 ∧ ∀ k, k < 8 → (s.layer k).deferrals = 0 ∧ (s.layer k).drops = []) ∧
    (9 ≤ hot.basecamp.below ∧ 0 < Table.at 0 hot.basecamp.points 20 ∧ (∀ e, e ∈ hot.basecamp.points → e.2 ≤ Table.at 0 hot.basecamp.points 20)) ∧
    (Table.at 0 hot.basecamp.points 20 = 7 ∧ Table.at 0 hot.basecamp.hot 20 = 9 ∧ 20 / 16 = 1 ∧ hot.basecamp.moving.contains 5 = true ∧
      s.basecamp.moving.contains 5 = false) ∧
    (close.cairn.state = 2 ∧ close.cairn.quiet = true ∧ close.cairn.pod = false ∧
      (∃ l, l < 8 ∧ close.cairn.lmask.getLsbD l = true ∧ (close.layer l).drained = [])) ∧
    (pod.cairn.pod = true ∧ pod.cairn.met = true ∧ pod.isRoot = false ∧ pod.cairn.state = 2 ∧ s.cairn.state ≠ 2 ∧ s.cairn.quiet = false) ∧
    (¬ dirty.cairn.active = true ∧ Table.find dirty.hs ((1 * 2 ^ 48 + 16 * 1) / 16) = some ⟨5#128, 0, false⟩) ∧
    (drain.cairn.state = 3 ∧ drain.nextGranule = some (1, 9) ∧ drain.cairn.flying = [f] ∧ f.layer = 0 ∧
      (∃ j, j < 8 ∧ j ≠ 0 ∧ drain.cairn.lmask.getLsbD j = true ∧ (drain.layer j).drained = []) ∧ (3 : Nat) ≠ 2) :=
  ⟨by decide +kernel, by decide +kernel, ⟨by decide, by decide, by decide⟩, by decide, ⟨by decide, by decide +kernel, by decide, 0, by decide, by decide, by decide⟩,
    by decide, by decide +kernel, ⟨by decide, by decide +kernel, by decide +kernel, by decide, ⟨1, by decide, by decide, by decide, by decide⟩, by decide⟩⟩

/-- Entry 0 of window 0 maps 2 MiB of layer 0 at PA 0. -/
def host (e : Nat) : State := { box sup with bd := [(0x100000, BitVec.ofNat 8 e)] }

theorem test_witness_EventsOfTheHost :
    let E := fun (s : State) => BitVec.ofNat 128 (s.mail (0x100000 + 16 * (64 / 2 ^ 21)) 16)
    let far : State := { host 5 with bd := [(0x100000, 5#8), (0x100005, 0x80#8)] }
    let asleep : State := { host 3 with layers := [(0, { Layer.reset with power := .asleep })] }
    let fenced : State := { host 5 with layers := [(0, { Layer.reset with power := .fenced })] }
    ((1 : Nat) % 2 ^ 32 ≠ (host 5).mail 0x8000 4 ∧ (0 : Nat) = (host 5).mail 0x8000 4 ∧ State.reset.devState = 1 ∧ (host 5).devState ≠ 1) ∧
    (64 + 8 ≤ 2 ^ 36 ∧ 64 % 4096 + 8 ≤ 4096 ∧ ¬ ((E (box sup)).getLsbD 0 = true)) ∧
    ((E (host 5)).getLsbD 0 = true ∧ (E (host 5)).getLsbD 2 = true ∧ (E (host 5)).getLsbD 3 = false ∧ (E (host 13)).getLsbD 3 = true ∧
      ((E (host 5)).extractLsb' 21 27).toNat * 2 ^ 21 + 64 % 2 ^ 21 + 8 ≤ 0x2000000000 ∧ ((E (host 5)).extractLsb' 9 3).toNat = 0 ∧
      (host 5).isAsleep 0 = false ∧ (host 5).isFenced 0 = false ∧ 0 % 8 = 0 ∧ 0 % 128 + 8 ≤ 8 ∧
      (E far).getLsbD 0 = true ∧ 0x2000000000 < ((E far).extractLsb' 21 27).toNat * 2 ^ 21 + 72 ∧ fenced.isFenced 0 = true) ∧
    ((E (host 3)).getLsbD 0 = true ∧ (E (host 3)).getLsbD 1 = true ∧ ((E (host 3)).extractLsb' 9 3).toNat = 0 ∧ (host 3).isFenced 0 = false ∧
      ((host 3).layer 0).power ≠ .asleep ∧ ((asleep.layer 0).power = .asleep ∧ (E asleep).getLsbD 1 = true) ∧ ¬ (E (host 1)).getLsbD 1 = true ∧
      ((E (host 3)).extractLsb' 21 27).toNat * 2 ^ 21 + 64 % 2 ^ 21 + 8 ≤ 0x2000000000) ∧
    ((0 : Nat) < 4096 ∧ 0 + 4096 ≤ 2 ^ 36 ∧ 0x7FF8 % 8 = 0 ∧ 0x7FF8 + 8 ≤ 0x8000) := by decide +kernel

/-- The host has posted one request: OP, then arguments at byte 8 and on. -/
def asks (op : Nat) (as : Memory) : State :=
  { box sup with bd := (0, BitVec.ofNat 8 op) :: as ++ [(0x8000, 1#8)], basecamp := { Basecamp.reset with layerSets := [(5, 1#8)] } }

/-- Every hardware thread of layer 0 is resident. -/
def crowd : State := { asks 3 [(8, 5#8)] with threads := (List.range 256).map fun k => (k, sup) }

theorem crowd_full (k : Nat) (h : k < 256) : (crowd.thread k).resident = true := by
  have : ∀ l : List Nat, k ∈ l → Table.at Thread.reset (l.map fun k => (k, sup)) k = sup := by
    intro l
    induction l with
    | nil => simp
    | cons a r ih => by_cases e : a = k <;> simp_all [Table.at, Ne.symm]
  have := this (List.range 256) (by simpa using h)
  simp only [State.thread, crowd, this]
  rfl

theorem test_witness_EventsOfRequestsAndCommands :
    let op := fun (s : State) => s.mail (256 * (s.mail 0x8008 4 % 64)) 4
    let A := fun (s : State) (k : Nat) => s.mail (256 * (s.mail 0x8008 4 % 64) + 8 + 8 * k) 8
    let c0 := asks 1 []
    let c1 := asks 1 [(8, 1#8)]
    let l0 := asks 2 []
    let l1 := asks 2 [(8, 5#8)]
    let t0 := asks 3 [(8, 5#8), (24, 1#8)]
    let t1 := asks 3 [(8, 5#8)]
    let e0 := asks 4 [(9, 16#8)]
    let e1 := asks 4 [(8, 5#8)]
    let e2 : State := { e1 with rpcItem := some (3, some 0x10000) }
    let w0 := asks 5 [(8, 16#8)]
    let w1 := asks 5 [(8, 15#8)]
    let arm : State := { asks 6 [] with cairn := { Cairn.reset with state := 1 } }
    let ring : State := { box sup with bd := [(0xC000, 1#8), (0xC100, 1#8), (0xC108, 1#8)] }
    let s := box sup
    let asleep : State := { s with layers := [(3, { Layer.reset with power := .asleep })] }
    (op c0 = 1 ∧ A c0 0 = 0 ∧ A c1 0 = 1 ∧ A c1 1 < 2 ∧ Table.find c0.basecamp.layerSets 6 = none ∧ c0.mail 0x8000 4 ≠ c0.mail 0x8008 4 ∧
      s.mail 0x8000 4 = s.mail 0x8008 4) ∧
    (op l0 = 2 ∧ Table.at 0#8 l0.basecamp.layerSets (A l0 0) = 0#8 ∧ op l1 = 2 ∧ (Table.at 0#8 l1.basecamp.layerSets (A l1 0)).getLsbD 0 = true ∧
      A l1 1 + A l1 2 ≤ 2 ^ 36 ∧ l1.windowBytes (A l1 1) (A l1 2) = some [] ∧ ([] : List Byte).length < 64 ∧ l1.rpcItem = none) ∧
    (op t0 = 3 ∧ (Table.at 0#8 t0.basecamp.layerSets (A t0 0)).getLsbD (A t0 2) = false ∧ op t1 = 3 ∧
      (Table.at 0#8 t1.basecamp.layerSets (A t1 0)).getLsbD (A t1 2) = true ∧ A t1 0 < 4096 ∧ (t1.thread 1).resident = false ∧
      (t1.thread 1).shadow = false ∧ t1.isFenced (1 / 256) = false ∧ (t1.layer (A t1 2)).power = .awake ∧ 1 / 256 = A t1 2 ∧ A crowd 2 = 0) ∧
    (op e0 = 4 ∧ 4096 ≤ A e0 0 ∧ op e1 = 4 ∧ A e1 0 = 5 ∧ op e2 = 4 ∧ e2.rpcItem = some (3, some 0x10000)) ∧
    (op w0 = 5 ∧ 16 ≤ A w0 0 ∧ A w1 0 < 16 ∧ A w1 1 ≤ 2048 ∧ A w1 2 = 0 ∧ A w1 3 % 16 = 0 ∧ op arm = 6 ∧ arm.cairn.state = 1 ∧
      A arm 1 / 2 ^ 38 % 2 = 0 ∧ op (asks 8 []) = 8 ∧ op (asks 0 []) = 0 ∧ op (asks 7 []) = 7 ∧ (asks 7 []).mail 0xC000 4 = (asks 7 []).mail 0xC008 4 ∧
      (asks 7 []).mail 0xC010 4 = (asks 7 []).mail 0xC018 4 ∧ A (asks 7 []) 0 % 2 ^ 32 ≠ 5 ∧ A (asks 7 []) 0 % 2 ^ 32 ≠ 6) ∧
    (s.copies.any (fun k => k.form == 2) = false ∧ ({ s with copies := [{ s.copyBlank with form := 2 }] } : State).copies.any (fun k => k.form == 2) = true) ∧
    (s.mail 0xC000 4 = s.mail 0xC008 4 ∧ ring.ringHas 1 [1#64, 0#64] = true ∧ ring.basecamp.plimit < 2 ^ 64 ∧ State.reset.devState = 1 ∧
      s.devState ≠ 1 ∧ (s.layer 3).power = .awake ∧ s.quiescent 3 = true ∧ s.quiescent 0 = false ∧ (asleep.layer 3).power = .asleep ∧
      (asleep.layer 4).power ≠ .asleep ∧ s.slotAccepts 8 56 15#64 = true ∧ (63#64 : Word).toNat % 16 = 15) := by
  refine ⟨?_, ?_, ?_, ?_, ?_, ?_, ?_⟩ <;> decide +kernel

theorem test_witness_WindowsAndSnapshots :
    let op := fun (s : State) => s.mail (256 * (s.mail 0x8008 4 % 64)) 4
    let A := fun (s : State) (k : Nat) => s.mail (256 * (s.mail 0x8008 4 % 64) + 8 + 8 * k) 8
    let w2 := asks 5 [(24, 1#8), (33, 0x20#8)]
    let arm0 := asks 6 [(8, 1#8)]
    let arm1 := asks 6 []
    op w2 = 5 ∧ A w2 2 = 1 ∧ A w2 3 = 0x2000 ∧ op arm0 = 6 ∧ arm0.cairn.active = false ∧ A arm0 1 / 2 ^ 38 % 2 = 0 ∧
      (arm0.thread 2).step.toNat < A arm0 0 ∧ A arm1 0 ≤ (arm1.thread 2).step.toNat := by decide +kernel

/-- R376 OP 0x05: the RPC thread runs, and its page maps the entry that the request names. -/
theorem test_witness_WindowOfTheRpcThread :
    let e : TlbEntry := ⟨1, 0, Tag.zero, 0, 0, 30, 0x19F#64⟩
    let s : State := { asks 5 [(24, 1#8), (33, 0x20#8)] with cur := 2, threads := [(2, sup)], tlb := [e] }
    Maps s .load 0x2000#64 0x2000 0 ∧ s.th.tag = Tag.zero ∧ s.th.sv = true ∧ (s.layer 0).power = .awake ∧
      (s.mapEntries 0x100000 0x2000#64 1).isSome = true :=
  ⟨⟨by decide, by decide, by decide, Or.inl (by decide), ⟨1, 0, Tag.zero, 0, 0, 30, 0x19F#64⟩, [], by decide +kernel, rfl, by simp, by decide, by decide, by decide, by decide, rfl⟩,
    by decide, by decide, by decide, by decide +kernel⟩

/-! ### Encoding, and steps -/

theorem test_witness_EncodeThenDecode :
    (Instr.cwait 7#3 96#7).wf = true ∧ encode (.cwait 7#3 96#7) ≠ .event ∧ (Instr.hLds 31#5 63#6).wf = true ∧ encode (.hLds 31#5 63#6) ≠ .event := by
  decide

theorem test_witness_DecodeThenEncode :
    (0x000E6281#32).getLsbD 0 = true ∧ decodeWord 0x000E6281#32 = some (.add 5#5 6#5 7#5) ∧ (0x0D4A#16).getLsbD 0 = false ∧
      decodeHalf 0x0D4A#16 = some (.hLds 10#5 3#6) := by decide

/-- Multiplies that wait for their turn: the accumulator of one that has not run, the array just after a plane has loaded. -/
theorem test_witness_TheQueue :
    let e : TeEntry := ⟨0, 0, 4, Tag.zero, 3, 2, 0, 0, 0, false, false⟩
    let w := box { sup with te := [e], teSeq := 1 }
    let loaded : State := { w with clusters := [(0, { Cluster.reset with cur := some 0, active := some 3, loaded := some (0, 0) })] }
    (e ∈ w.th.te ∧ e.op = 0 ∧ e.done = false ∧ e.other = (2#2 : BitVec 2).toNat ∧ w.teRoom 0 1 0 = true ∧ w.th.status.getLsbD 4 = true) ∧
    ((loaded.cluster 0).running = none ∧ (loaded.cluster 0).loading = none ∧ (loaded.cluster 0).cur = some (8 * 0 + 0) ∧ loaded.weight 0 ≠ 0 ∧
      (loaded.cluster 0).twld = [] ∧ loaded.coreQueue 0 = [(0, e)] ∧ (loaded.cluster 0).loaded = some (0, e.seq) ∧
      (loaded.cluster 0).active = some e.plane ∧ (loaded.cluster 0).used + e.occ ≤ 4 * loaded.weight 0 ∧ loaded.current 0 e.tag = true) ∧
    (let c := box { sup with buffered := 4 }
     (c.thread 0).resident = true ∧ (c.thread 0).looped = false ∧ (c.thread 0).parked = none ∧ 0 < (c.thread 0).buffered ∧ (c.thread 0).ahead < 16 ∧
       (c.thread 0).unissued = 0 ∧ (c.thread 1).unissued = 0 ∧ (c.thread 1).buffered = 0) := by decide +kernel

/-- A pair whose fingerprints differ with no region; a thread with nothing popped; an area with none of the thread's writes under way; the bytes
of a line; an island at a high point; a buffer's poster. -/
theorem test_witness_SmallPremises :
    let s := box sup
    let miss := box { sup with status := 0x479#64, crc := 1#64 }
    let hot : State := { s with basecamp := { Basecamp.reset with points := [(20, 7)], below := 9 } }
    (miss.th.status.getLsbD 10 = true ∧ miss.th.crc ≠ miss.th.shadowCrc ∧ miss.th.restartable = false) ∧
    s.th.popped = none ∧ s.areaBusy 0x40000#64 = false ∧
    (∀ j, j < 64 → Maps s .load (0x2000#64 + BitVec.ofNat 64 j) (0x2000 + j) 0) ∧
    (∃ a, 0 < Table.at 0 hot.basecamp.points a ∧ ∀ e, e ∈ hot.basecamp.points → e.2 ≤ Table.at 0 hot.basecamp.points a) ∧
    (¬ ∃ a, 0 < Table.at 0 s.basecamp.points a) ∧
    (∀ e, e ∈ s.threads → e.2.resident = true → e.2.who = 0 → e.1 = s.cur ∧ e.2 = s.th) ∧ s.th.who = 0 :=
  ⟨by decide +kernel, by decide, by decide +kernel, fun j hj => by
      have e : (0x2000#64 + BitVec.ofNat 64 j).toNat = 0x2000 + j := by rw [BitVec.toNat_add, BitVec.toNat_ofNat, BitVec.toNat_ofNat]; omega
      have h := box_maps (box sup) .load (0x2000#64 + BitVec.ofNat 64 j) rfl rfl rfl rfl (by omega)
      rw [e] at h
      exact h,
    ⟨20, by decide, by decide⟩, by simp [box, State.reset, Basecamp.reset, Table.at], by decide +kernel, by decide⟩

/-- A load that waits at its home, whose turn has come and has not. -/
theorem test_witness_AWaitingRequest :
    let p := { pkt .load (.atHome 0x2000) with pos := 24 }
    let far := { p with pos := 20 }
    (sent p).packet 4 = some p ∧ p.kind.posted = false ∧ p.look = false ∧ (sent p).waitDue p = true ∧ (sent far).waitDue far = false ∧
      (sent p).isFenced 1 = false ∧ (sent p).current 1 p.tag = true ∧ (sent { p with tag := ⟨0#12, 5#8⟩ }).current 1 ⟨0#12, 5#8⟩ = false := by
  decide +kernel

/-- The thread's pc names the last halfword pair of a line; then an event, a start step, an interrupt, and bytes that are no instruction. -/
theorem test_witness_StepRunsTheDecodedInstruction :
    let s : State := { box { sup with pc := 0x403C#64 } with hbm := [(0x403C, 0x81#8), (0x403D, 0x62#8), (0x403E, 0x0E#8)] }
    let B := fun (k : Nat) => sectorByte (s.hsSector (k / 16)) (k % 16)
    let irq := box { sup with status := 0x7B#64, irq17 := some true }
    (Maps s .fetch s.th.pc 0x403C 0 ∧ Maps s .fetch (s.th.pc + 2#64) (0x403C + 2) 0) ∧
    (s.agenda = [] ∧ s.devState = 2 ∧ s.stalls = false ∧ s.th.runnable = true ∧ s.th.takesInterrupt = false ∧ s.th.exchangeDue = false ∧
      s.cur < 2048 ∧ s.th.pc.toNat % 2 = 0 ∧ 0x403C % 64 = s.th.pc.toNat % 64 ∧ s.l1i = [] ∧ s.poison = []) ∧
    decode [B 0x403C, B 0x403D, B 0x403E, B 0x403F] = .ok (.add 5#5 6#5 7#5, []) ∧
    ((∃ w s', s.fetch = .ok w s' ∧ w.instr = some (.add 5#5 6#5 7#5)) ∧ ∃ w s', (box sup).fetch = .ok w s' ∧ w.instr = none) ∧
    (State.reset.agenda = [] ∧ State.reset.devState = 1 ∧ irq.agenda = [] ∧ irq.devState = 2 ∧ irq.stalls = false ∧ irq.th.runnable = true ∧
      irq.th.takesInterrupt = true) :=
  ⟨by refine ⟨?_, ?_⟩ <;> exact box_maps _ _ _ rfl rfl rfl rfl (by decide), by decide +kernel, by rfl,
    ⟨fetches_eq (by decide +kernel), fetches_eq (by decide +kernel)⟩, by decide +kernel⟩

/-- An instruction that waits keeps its bits. -/
theorem test_witness_AWaitingInstruction :
    let s (b : Fetched) := box { sup with waiting := true, bits := some b }
    (∀ b, b = .half 0#16 ∨ b = .word 0x000E6281#32 → (s b).agenda = [] ∧ (s b).devState = 2 ∧ (s b).stalls = false ∧ (s b).th.runnable = true ∧
      (s b).th.takesInterrupt = false ∧ (s b).th.exchangeDue = false ∧ (s b).th.waiting = true) ∧
    (Fetched.half 0#16).instr = none ∧ (Fetched.word 0x000E6281#32).instr = some (.add 5#5 6#5 7#5) :=
  ⟨by rintro b (rfl | rfl) <;> decide +kernel, by decide, by decide⟩

/-- A canonical state from which a step answers a next state. -/
theorem test_witness_StepKeepsMemoriesCanonical :
    Memory.wf (State.reset.withFetchWord 32 0x000E6281).hbm = true ∧ Memory.wf (State.reset.withFetchWord 32 0x000E6281).rope = true ∧
      Memory.wf (State.reset.withFetchWord 32 0x000E6281).bd = true ∧ isNext (step (State.reset.withFetchWord 32 0x000E6281)) = true := by
  decide +kernel

/-! ### Results: one instruction each, with the values of the spec's worked examples or worked by hand -/

/-- What holds of the next state of an instruction. -/
def after {α : Type} (i : Instr) (s : State) (f : State → α) : Option α :=
  match exec i s with
  | .next t => some (f t)
  | _ => none

theorem test_add_wraps : after (.add 5#5 15#5 15#5) (box sup) (fun t => (t.th.rx 5#5, t.th.pc)) = some (0xFE00000000000000#64, 0x4004#64) := by
  decide +kernel

/-- R82: a quotient by 0 saturates, and the remainder is the dividend. -/
theorem test_divide_by_zero :
    after (.div 5#5 15#5 0#5) (box sup) (fun t => t.th.rx 5#5) = some 0x8000000000000000#64 ∧
      after (.rem 5#5 11#5 0#5) (box sup) (fun t => t.th.rx 5#5) = some 8#64 := by decide +kernel

theorem test_x0_stays_zero : after (.addi 0#5 10#5 5#12) (box sup) (fun t => (t.th.rx 0#5, t.th.instret)) = some (0#64, 1#64) := by decide +kernel

/-- R90, R91: the last instruction of a body with two passes left goes back to LBEG. -/
theorem test_loop_end :
    after (.add 5#5 0#5 0#5) (box { sup with lc0 := 2, lbeg0 := 0x3000#64, lend0 := 0x4004#64 }) (fun t => (t.th.pc, t.th.lc0)) =
      some (0x3000#64, 1#32) := by decide +kernel

/-- R209, R296: class 3, PSV and PIE from SV and IE, and IE := 0. -/
theorem test_ecall_enters :
    after .ecall (box { user with evec := 0x00F0000000004000#64 })
      (fun t => (t.th.pc, t.th.epc, t.th.ecause, t.th.status)) = some (0x00F0000000004300#64, 0x4000#64, 0x13#64, 0x5#64) := by decide +kernel

theorem test_eret_returns :
    after .eret (box { sup with epc := 0x5001#64, status := 5#64 }) (fun t => (t.th.pc, t.th.status)) = some (0x5000#64, 0x6#64) := by
  decide +kernel

/-- A byte store, read back as the high half of a sign-extended halfword. -/
theorem test_store_then_load :
    (after (.stI8 10#5 15#5 1#12) (box { sup with x := [(10, 0x2000#64), (15, 0x80#64)] }) fun t =>
      after (.ldI16 5#5 10#5 0#12) t fun u => u.th.rx 5#5) = some (some 0xFFFFFFFFFFFF8000#64) := by decide +kernel

/-- R134: the old value comes back sign-extended, and memory holds the sum. -/
theorem test_amoadd :
    after (.amoadd 0#1 5#5 10#5 11#5) full (fun t => (t.th.rx 5#5, t.peekNat 0x2000 4)) = some (0xFE#64, 0x106) := by decide +kernel

/-- R117, R114: 1 + 2^-53 ties to even, INX. -/
theorem test_fadd_tie :
    after (.fadd 0#2 0#3 3#5 1#5 2#5) (box { sup with f := [(1, 0x3FF0000000000000#64), (2, 0x3CA0000000000000#64)] })
      (fun t => (t.th.rf 3#5, t.th.fcsr)) = some (0x3FF0000000000000#64, 0x10#64) := by decide +kernel

/-- R124: −0.0 gives 0x8, and the FP32 pattern 0xFF80_0001 gives 0xD. -/
theorem test_fclass :
    after (.fclass 1#2 5#5 1#5) (box { sup with f := [(1, 0xFFFFFFFF80000000#64)] }) (fun t => t.th.rx 5#5) = some 8#64 ∧
      after (.fclass 1#2 5#5 1#5) (box { sup with f := [(1, 0xFFFFFFFFFF800001#64)] }) (fun t => t.th.rx 5#5) = some 0xD#64 := by decide +kernel

/-- The worked reduction of spec/07: 1.0 in lane 0, INX, VDIRTY and FDIRTY. -/
theorem test_vfred_add_worked :
    after (.vfredAdd 2#2 1#3 3#5 7#5)
      (box { sup with k := [(1, 0xFFDF#64)], v := [(7, 0x42C8000000000000CB8000003F8000003F8000004B800000#512)] })
      (fun t => (t.th.rv 3#5, t.th.fcsr, t.th.status)) = some (0x3F800000#512, 0x10#64, 0x6000079#64) := by decide +kernel

/-- R109, the worked element of spec/05: 1.0, −1.0 and 2^−64 give +0. -/
theorem test_tile_sum_worked :
    tileSum fp32 63 false [.fin false 1 0, .fin true 1 0, .fin false 1 (-64)] = 0 := by decide +kernel

/-- The worked multiply of spec/08: element (0, 0) becomes 18.0625, and its neighbour stays 0. -/
theorem test_tmma_mx_worked :
    after (.tmmaMx 0#1 4#4 0#2 1#3 5#5)
      (box { sup with
        a := [(0, 0x41200000#2048)], t := [(16, 0x18C03C#512 ||| (0x30#512 <<< 256))]
        v := [(5, 0x7F7F7F7F7F7F7F7F7F7F7F7F7F7F7F7F7F7F7F7F7F7F7F7F7F7F7F7F7F7F7D80#512)]
        wp0 := some ⟨4#4, false, true, 0x44#32768 ||| (0x3A#32768 <<< 512) ||| (0x30#32768 <<< 1024) ||| (0x48#32768 <<< 16384), 0,
          0x7F#2048 ||| (0x82#2048 <<< 512)⟩ })
      (fun t => (t.th.arow 0#2 0).extractLsb' 0 64) = some 0x41908000#64 := by decide +kernel

/-- R212: a write of FCSR keeps its reserved bits 0 and sets FDIRTY. -/
theorem test_csrw_fcsr :
    after (.csrw 5#5 15#5 1#12) (box { sup with x := [(15, 0xFFFFFFFFFFFFFFFF#64)] }) (fun t => (t.th.rx 5#5, t.th.fcsr, t.th.status)) =
      some (0#64, 0xEF9F#64, 0x2000079#64) := by decide +kernel

/-- R295: a taken ADD moves on by the fetched word's length, and the machine runs it as its first instruction after reset. -/
theorem test_step_runs_add :
    (match step (State.reset.withFetchWord 32 0x000E6281) with | .next t => t.th.pc | _ => 1#64) = 4#64 ∧
      decodeTableWord 32 0x000E6281 = some (.add 5#5 6#5 7#5) ∧ decodeTableWord 16 0x0D4A = some (.hLds 10#5 3#6) := by decide +kernel

end Sys2Proof.Tests
end

section
/-!
PROOFS. The integer and control instructions (spec/04): what the shapes of Operands do to the machine, the words they compute as exact
integers, and the obligations of that family.
-/

namespace Sys2Proof.Machine

/-! ### The shapes of the integer instructions -/

/-- x[d] := v and completion are all that happens to the machine. -/
theorem resultX_wx (s : State) (n : Nat) (d : Reg) (v : Word) : ResultX n d v s (s.setTh ((s.th.wx d v).complete n)) := by
  unfold ResultX
  rw [State.th_setTh]
  exact ⟨onlyThread_setTh s _, wx_complete s.th d v n⟩

/-- An instruction that ends in `finish` with one register write has the result it writes. -/
theorem does_finish_wx {i : Instr} {s : State} {n : Nat} {d : Reg} {f : Thread → Word} {v : Word}
    (h : exec i s = finish n s fun t => t.wx d (f t)) (hv : f s.th = v) : Does i s (ResultX n d v s) := by
  subst hv
  exact ⟨_, h, resultX_wx s n d _⟩

theorem does_aluR {i : Instr} {s : State} {d a b : Reg} {f : Word → Word → Word} {v : Word} (h : exec i s = aluR f d a b s)
    (hv : f (s.th.rx a) (s.th.rx b) = v) : Does i s (ResultX 4 d v s) := does_finish_wx h hv

theorem does_aluI {i : Instr} {s : State} {d a : Reg} {f : Word → Word} {v : Word} (h : exec i s = aluI f d a s)
    (hv : f (s.th.rx a) = v) : Does i s (ResultX 4 d v s) := does_finish_wx h hv

/-- A W form writes its 32-bit result, sign-extended (R80). -/
theorem does_aluW {i : Instr} {s : State} {d a b : Reg} {f : BitVec 32 → BitVec 32 → BitVec 32} {v : BitVec 32}
    (h : exec i s = aluW f d a b s) (hv : f (low32 (s.th.rx a)) (low32 (s.th.rx b)) = v) :
    Does i s (ResultX 4 d (BitVec.ofInt 64 v.toInt) s) := does_finish_wx h (congrArg wide hv)

theorem does_aluWI {i : Instr} {s : State} {d a : Reg} {f : BitVec 32 → BitVec 32} {v : BitVec 32} (h : exec i s = aluWI f d a s)
    (hv : f (low32 (s.th.rx a)) = v) : Does i s (ResultX 4 d (BitVec.ofInt 64 v.toInt) s) := does_finish_wx h (congrArg wide hv)

/-! ### Words as exact integers, wrapped at the end -/

theorem ofInt_sub_eq {w : Nat} (x y : Int) : BitVec.ofInt w (x - y) = BitVec.ofInt w x - BitVec.ofInt w y := by
  rw [Int.sub_eq_add_neg, BitVec.ofInt_add, BitVec.ofInt_neg, BitVec.sub_eq_add_neg]

theorem ofInt_toNat_eq {w : Nat} (x : BitVec w) : BitVec.ofInt w x.toNat = x := by
  rw [BitVec.ofInt_natCast, BitVec.ofNat_toNat, BitVec.setWidth_eq]

theorem sub_eq_ofInt {w : Nat} (x y : BitVec w) : x - y = BitVec.ofInt w (x.toInt - y.toInt) := by
  rw [ofInt_sub_eq, BitVec.ofInt_toInt, BitVec.ofInt_toInt]

theorem mul_eq_ofInt {w : Nat} (x y : BitVec w) : x * y = BitVec.ofInt w (x.toInt * y.toInt) := by
  rw [BitVec.ofInt_mul, BitVec.ofInt_toInt, BitVec.ofInt_toInt]

/-- Adding a sign-extended field, modulo 2^v. -/
theorem add_signExtend_eq_ofInt {v w : Nat} (x : BitVec v) (i : BitVec w) :
    x + i.signExtend v = BitVec.ofInt v (x.toInt + i.toInt) := by
  rw [BitVec.ofInt_add, BitVec.ofInt_toInt]
  rfl

theorem shiftLeft_eq_ofNat {w : Nat} (x : BitVec w) (n : Nat) : x <<< n = BitVec.ofNat w (x.toNat * 2 ^ n) := by
  apply BitVec.eq_of_toNat_eq
  rw [BitVec.toNat_shiftLeft, Nat.shiftLeft_eq, BitVec.toNat_ofNat]

theorem ushiftRight_eq_ofNat {w : Nat} (x : BitVec w) (n : Nat) : x >>> n = BitVec.ofNat w (x.toNat / 2 ^ n) := by
  apply BitVec.eq_of_toNat_eq
  rw [BitVec.toNat_ushiftRight, Nat.shiftRight_eq_div_pow, BitVec.toNat_ofNat,
    Nat.mod_eq_of_lt (Nat.lt_of_le_of_lt (Nat.div_le_self _ _) x.isLt)]

theorem sshiftRight_eq_ofInt {w : Nat} (x : BitVec w) (n : Nat) : x.sshiftRight n = BitVec.ofInt w (x.toInt / 2 ^ n) := by
  rw [BitVec.sshiftRight_eq, Int.shiftRight_eq_div_pow]
  norm_cast

theorem rol_eq_rotateLeft (x : Word) (n : Nat) (h : n < 64) : rol x n = x.rotateLeft n := by
  rw [rol, BitVec.rotateLeft_def, Nat.mod_eq_of_lt h]
  split
  · next h0 => simp [h0, BitVec.ushiftRight_eq_zero]
  · rfl

theorem ror_eq_rotateRight (x : Word) (n : Nat) (h : n < 64) : ror x n = x.rotateRight n := by
  rw [ror, BitVec.rotateRight_def, Nat.mod_eq_of_lt h]
  split
  · next h0 => simp [h0, BitVec.shiftLeft_eq_zero]
  · rfl

theorem cnt6_lt (y : Word) : cnt6 y < 64 := Nat.mod_lt _ (by decide)

theorem bool64_decide (p : Prop) [Decidable p] : bool64 (decide p) = if p then 1#64 else 0#64 := by
  by_cases h : p <;> simp [bool64, h]

theorem minS_eq_ofInt (x y : Word) : minS x y = BitVec.ofInt 64 (min x.toInt y.toInt) := by
  simp only [minS, BitVec.slt_eq_decide, decide_eq_true_eq]
  split
  · rw [Int.min_eq_left (by omega), BitVec.ofInt_toInt]
  · rw [Int.min_eq_right (by omega), BitVec.ofInt_toInt]

theorem maxS_eq_ofInt (x y : Word) : maxS x y = BitVec.ofInt 64 (max x.toInt y.toInt) := by
  simp only [maxS, BitVec.slt_eq_decide, decide_eq_true_eq]
  split
  · rw [Int.max_eq_right (by omega), BitVec.ofInt_toInt]
  · rw [Int.max_eq_left (by omega), BitVec.ofInt_toInt]

theorem minU_eq_ofNat (x y : Word) : minU x y = BitVec.ofNat 64 (min x.toNat y.toNat) := by
  simp only [minU, BitVec.lt_def]
  split
  · rw [Nat.min_eq_left (by omega), BitVec.ofNat_toNat, BitVec.setWidth_eq]
  · rw [Nat.min_eq_right (by omega), BitVec.ofNat_toNat, BitVec.setWidth_eq]

theorem maxU_eq_ofNat (x y : Word) : maxU x y = BitVec.ofNat 64 (max x.toNat y.toNat) := by
  simp only [maxU, BitVec.lt_def]
  split
  · rw [Nat.max_eq_right (by omega), BitVec.ofNat_toNat, BitVec.setWidth_eq]
  · rw [Nat.max_eq_left (by omega), BitVec.ofNat_toNat, BitVec.setWidth_eq]

/-! ### Immediates and offsets (R38, R39, R84) -/

theorem toInt_imm12 (i : BitVec 12) : (imm12 i).toInt = i.toInt := BitVec.toInt_signExtend_of_le (by decide)

theorem imm20_eq_ofInt (i : BitVec 20) : imm20 i = BitVec.ofInt 64 (i.toInt * 4096) := by
  have h : (i ++ 0#12).toInt = i.toInt * 4096 := BitVec.toInt_append_zero.trans (Int.mul_comm _ _)
  exact congrArg (BitVec.ofInt 64) h

theorem jumpOff_eq_ofInt (i : BitVec 20) : jumpOff i = BitVec.ofInt 64 (2 * i.toInt) := by
  have h : (i ++ 0#1).toInt = 2 * i.toInt := BitVec.toInt_append_zero
  exact congrArg (BitVec.ofInt 64) h

theorem add_ofInt_eq {w : Nat} (x : BitVec w) (z : Int) : x + BitVec.ofInt w z = BitVec.ofInt w (x.toNat + z) := by
  rw [BitVec.ofInt_add, ofInt_toNat_eq]

/-- Bit 0 cleared: the even number at or below (R86). -/
theorem clear_bit0 (x : Word) : x &&& ~~~ 1#64 = BitVec.ofNat 64 (x.toNat / 2 * 2) := by
  have h : x &&& ~~~ 1#64 = (x >>> 1) <<< 1 := by
    apply BitVec.eq_of_getLsbD_eq
    intro i hi
    simp only [BitVec.getLsbD_and, BitVec.getLsbD_not, BitVec.getLsbD_one, BitVec.getLsbD_shiftLeft, BitVec.getLsbD_ushiftRight]
    rcases i with _ | i
    · simp
    · simp [hi, Nat.add_comm 1 i]
  rw [h, shiftLeft_eq_ofNat, BitVec.toNat_ushiftRight, Nat.shiftRight_eq_div_pow, Nat.pow_one]

/-! ### Quotients and remainders (R81, R82) -/

theorem toInt_eq_zero_iff {w : Nat} (x : BitVec w) : x.toInt = 0 ↔ x = 0#w := by
  rw [← BitVec.toInt_zero (w := w), BitVec.toInt_inj]

theorem toNat_eq_zero_iff {w : Nat} (x : BitVec w) : x.toNat = 0 ↔ x = 0#w := by
  rw [← BitVec.toNat_inj, BitVec.toNat_zero]

theorem intMax_eq_ofInt (w : Nat) : BitVec.intMax w = BitVec.ofInt w (2 ^ (w - 1) - 1) := by
  rw [← BitVec.toInt_intMax, BitVec.ofInt_toInt]

theorem intMin_eq_ofInt {w : Nat} (h : 0 < w) : BitVec.intMin w = BitVec.ofInt w (-2 ^ (w - 1)) := by
  rw [← BitVec.toInt_intMin_of_pos h, BitVec.ofInt_toInt]

theorem allOnes_eq_ofNat (w : Nat) : BitVec.allOnes w = BitVec.ofNat w (2 ^ w - 1) := by
  apply BitVec.eq_of_toNat_eq
  rw [BitVec.toNat_allOnes, BitVec.toNat_ofNat, Nat.mod_eq_of_lt (Nat.sub_lt (Nat.two_pow_pos w) Nat.one_pos)]

/-- Only the least number divided by −1 leaves the signed range. -/
theorem tdiv_le_of_no_overflow {w : Nat} {a b : BitVec w} (h : ¬ (a = BitVec.intMin w ∧ b = BitVec.allOnes w)) :
    a.toInt.tdiv b.toInt ≤ 2 ^ (w - 1) - 1 := by
  rw [← BitVec.toInt_sdiv_of_ne_or_ne a b (by rwa [BitVec.neg_one_eq_allOnes, ne_eq, ne_eq, ← Decidable.not_and_iff_not_or_not])]
  exact Int.le_sub_one_of_lt BitVec.toInt_lt

/-- The signed quotient of the model is the exact one, wrapped: both saturate at divisor 0 and at the one overflow. -/
theorem divS_eq_exact {w : Nat} (hw : 0 < w) (a b : BitVec w) : divS a b = BitVec.ofInt w (exactQuotS w a.toInt b.toInt) := by
  unfold divS exactQuotS
  simp only [toInt_eq_zero_iff, BitVec.msb_eq_toInt, decide_eq_true_eq]
  by_cases hb : b = 0#w
  · simp only [hb, if_true, intMax_eq_ofInt, intMin_eq_ofInt hw]
    split
    · rfl
    · split <;> rfl
  · simp only [hb, if_false]
    split
    · next h =>
      obtain ⟨rfl, rfl⟩ := h
      rw [BitVec.toInt_intMin_of_pos hw, BitVec.toInt_allOnes, if_pos hw, Int.tdiv_neg, Int.tdiv_one, Int.neg_neg,
        Int.min_eq_right (by omega), intMax_eq_ofInt]
    · next h => rw [Int.min_eq_left (tdiv_le_of_no_overflow h)]

theorem divU_eq_exact {w : Nat} (a b : BitVec w) : divU a b = BitVec.ofInt w (exactQuotU w a.toNat b.toNat) := by
  unfold divU exactQuotU
  simp only [toNat_eq_zero_iff, BitVec.ofInt_natCast, allOnes_eq_ofNat]
  split
  · split <;> rfl
  · rfl

theorem remS_eq_exact {w : Nat} (hw : 0 < w) (a b : BitVec w) :
    remS a b = BitVec.ofInt w (a.toInt - b.toInt * exactQuotS w a.toInt b.toInt) := by
  rw [remS, divS_eq_exact hw, ofInt_sub_eq, BitVec.ofInt_mul, BitVec.ofInt_toInt, BitVec.ofInt_toInt]

theorem remU_eq_exact {w : Nat} (a b : BitVec w) :
    remU a b = BitVec.ofInt w ((a.toNat : Int) - b.toNat * exactQuotU w a.toNat b.toNat) := by
  rw [remU, divU_eq_exact, ofInt_sub_eq, BitVec.ofInt_mul, ofInt_toNat_eq, ofInt_toNat_eq]

/-! ### Counting bits (R83) -/

theorem clzFrom_le (a : Word) (n : Nat) : clzFrom a n ≤ n := by
  induction n with
  | zero => exact Nat.le_refl 0
  | succ n ih => unfold clzFrom; split <;> omega

/-- The bits that are counted are 0. -/
theorem clzFrom_zeros (a : Word) (n i : Nat) (hi : i < n) (hc : n - clzFrom a n ≤ i) : a.getLsbD i = false := by
  induction n with
  | zero => omega
  | succ n ih =>
    unfold clzFrom at hc
    split at hc
    · omega
    · next h =>
      by_cases e : i = n
      · simpa [e] using h
      · exact ih (by omega) (by omega)

/-- The bit that ends the count is 1. -/
theorem clzFrom_one (a : Word) (n : Nat) (h : clzFrom a n < n) : a.getLsbD (n - 1 - clzFrom a n) = true := by
  induction n with
  | zero => omega
  | succ n ih =>
    unfold clzFrom at h ⊢
    split
    · next hb => exact hb
    · next hb =>
      rw [if_neg hb] at h
      rw [show n + 1 - 1 - (clzFrom a n + 1) = n - 1 - clzFrom a n by omega]
      exact ih (by omega)

theorem ctzFrom_le (a : Word) (n : Nat) : ctzFrom a n ≤ n := by
  induction n with
  | zero => exact Nat.le_refl 0
  | succ n ih => unfold ctzFrom; split <;> omega

/-- The bits that are counted are 0. -/
theorem ctzFrom_zeros (a : Word) (n i : Nat) (hn : n ≤ 64) (hi : 64 - n ≤ i) (hc : i < 64 - n + ctzFrom a n) : a.getLsbD i = false := by
  induction n with
  | zero => simp only [ctzFrom] at hc; omega
  | succ n ih =>
    unfold ctzFrom at hc
    split at hc
    · omega
    · next h =>
      by_cases e : i = 63 - n
      · simpa [e] using h
      · exact ih (by omega) (by omega) (by omega)

/-- The bit that ends the count is 1. -/
theorem ctzFrom_one (a : Word) (n : Nat) (hn : n ≤ 64) (h : ctzFrom a n < n) : a.getLsbD (64 - n + ctzFrom a n) = true := by
  induction n with
  | zero => omega
  | succ n ih =>
    unfold ctzFrom at h ⊢
    split
    · next hb => rwa [show 64 - (n + 1) + 0 = 63 - n by omega]
    · next hb =>
      rw [if_neg hb] at h
      rw [show 64 - (n + 1) + (ctzFrom a n + 1) = 64 - n + ctzFrom a n by omega]
      exact ih (by omega) (by omega)

/-- Counting in a fold is the length of what is kept. -/
theorem foldl_count_eq {α : Type} (p : α → Bool) (l : List α) (n : Nat) :
    l.foldl (fun n i => if p i then n + 1 else n) n = n + (l.filter p).length := by
  induction l generalizing n with
  | nil => rfl
  | cons x r ih =>
    rw [List.foldl_cons, ih, List.filter_cons]
    split
    · rw [List.length_cons]; omega
    · rfl

theorem bitCount_eq (a : Word) : bitCount a = ((List.range 64).filter fun i => a.getLsbD i).length := by
  rw [bitCount, foldl_count_eq, Nat.zero_add]

/-! ### Bytes in the other order (R83) -/

theorem getElem_bytesOf (n v i : Nat) (h : i < (bytesOf n v).length) : (bytesOf n v)[i] = BitVec.ofNat 8 (v / 256 ^ i) := by
  induction n generalizing v i with
  | zero => simp [bytesOf] at h
  | succ n ih =>
    rcases i with _ | i
    · simp [bytesOf]
    · simp only [bytesOf, List.getElem_cons_succ, ih, Nat.div_div_eq_div_mul, Nat.pow_succ']

theorem ofNat_valOf_div (bs : List Byte) (i : Nat) (h : i < bs.length) : BitVec.ofNat 8 (valOf bs / 256 ^ i) = bs[i] := by
  induction bs generalizing i with
  | nil => simp at h
  | cons b r ih =>
    have hb := b.isLt
    rcases i with _ | i
    · apply BitVec.eq_of_toNat_eq
      simp only [valOf, BitVec.toNat_ofNat, List.getElem_cons_zero]
      omega
    · rw [valOf, Nat.pow_succ', ← Nat.div_div_eq_div_mul, show (b.toNat + 256 * valOf r) / 256 = valOf r by omega]
      exact ih i (Nat.lt_of_succ_lt_succ h)

theorem extractLsb'_byte {w : Nat} (x : BitVec w) (i : Nat) : x.extractLsb' (8 * i) 8 = BitVec.ofNat 8 (x.toNat / 256 ^ i) := by
  have h : x.toNat >>> (8 * i) = x.toNat / 256 ^ i := (Nat.shiftRight_eq_div_pow _ _).trans (congrArg _ (Nat.pow_mul 2 8 i))
  exact congrArg (BitVec.ofNat 8) h

theorem toNat_bswap (x : Word) : (bswap x).toNat = valOf (bytesOf 8 x.toNat).reverse := by
  rw [bswap, BitVec.toNat_ofNat, Nat.mod_eq_of_lt]
  simpa [bytesOf_length] using valOf_lt (bytesOf 8 x.toNat).reverse

theorem bswap_byte (x : Word) (i : Nat) (h : i < 8) : (bswap x).extractLsb' (8 * i) 8 = x.extractLsb' (8 * (7 - i)) 8 := by
  rw [extractLsb'_byte, toNat_bswap, ofNat_valOf_div _ _ (by simpa [bytesOf_length] using h), List.getElem_reverse,
    getElem_bytesOf, extractLsb'_byte, bytesOf_length, show 8 - 1 - i = 7 - i by omega]

/-! ### The die of an address (R83) -/

/-- The mask of the die field has bits 52 to 55. -/
theorem getLsbD_dieMask (i : Nat) : (0xF#64 <<< 52).getLsbD i = decide (52 ≤ i ∧ i < 56) := by
  rw [show 0xF#64 <<< 52 = ((BitVec.allOnes 4).setWidth 64) <<< 52 by decide, BitVec.getLsbD_shiftLeft, BitVec.getLsbD_setWidth,
    BitVec.getLsbD_allOnes, Bool.eq_iff_iff]
  simp only [Bool.and_eq_true, Bool.not_eq_true', decide_eq_true_eq, decide_eq_false_iff_not]
  omega

theorem getLsbD_setDie (a : Word) (m : BitVec 4) (i : Nat) :
    (setDie a m).getLsbD i = if 52 ≤ i ∧ i < 56 then m.getLsbD (i - 52) else a.getLsbD i := by
  unfold setDie
  rw [BitVec.getLsbD_or, BitVec.getLsbD_and, BitVec.getLsbD_not, getLsbD_dieMask, BitVec.getLsbD_shiftLeft, BitVec.getLsbD_setWidth]
  by_cases h : 52 ≤ i ∧ i < 56
  · rw [if_pos h, decide_eq_true h, decide_eq_true (show i < 64 by omega), decide_eq_false (show ¬ i < 52 by omega),
      decide_eq_true (show i - 52 < 64 by omega)]
    simp only [Bool.not_true, Bool.not_false, Bool.and_false, Bool.false_or, Bool.true_and]
  · have outside : (!decide (i < 52) && m.getLsbD (i - 52)) = false := by
      by_cases lo : i < 52
      · rw [decide_eq_true lo, Bool.not_true, Bool.false_and]
      · rw [BitVec.getLsbD_of_ge m _ (by omega), Bool.and_false]
    rw [if_neg h, decide_eq_false h]
    by_cases h64 : i < 64
    · rw [decide_eq_true h64, decide_eq_true (show i - 52 < 64 by omega)]
      simp only [Bool.not_false, Bool.and_true, Bool.true_and, outside, Bool.or_false]
    · rw [decide_eq_false h64, BitVec.getLsbD_of_ge a i (by omega)]
      simp only [Bool.false_and, Bool.or_false]

theorem setDie_field (a : Word) (m : BitVec 4) : (setDie a m).extractLsb' 52 4 = m := by
  apply BitVec.eq_of_getLsbD_eq
  intro i hi
  rw [BitVec.getLsbD_extractLsb', getLsbD_setDie, if_pos (by omega), Nat.add_sub_cancel_left, decide_eq_true hi, Bool.true_and]

theorem setDie_other (a : Word) (m : BitVec 4) (i : Nat) (h : i < 52 ∨ 56 ≤ i) : (setDie a m).getLsbD i = a.getLsbD i := by
  rw [getLsbD_setDie, if_neg (by omega)]

/-! ### Jumps (R86) -/

/-- A jump links and moves; the target is computed from the thread before the link is written. -/
theorem does_jumpLink {i : Instr} {s : State} {d : Reg} {n : Nat} {f : Thread → Word} {target : Word}
    (h : exec i s = jumpLink d n f s) (ht : f s.th = target) :
    Does i s fun t => OnlyThread s t ∧ Transfers target s.th t.th ∧ WritesX d (s.th.pc + BitVec.ofNat 64 n) s.th t.th := by
  subst ht
  refine ⟨_, h, onlyThread_setTh s _, ?_, ?_⟩ <;> rw [State.th_setTh]
  · exact ⟨rfl, by simp [Thread.jump], by simp [Thread.jump], by simp [Thread.jump, Thread.retire]⟩
  · exact (writesX_wx s.th d _).jump _

/-! ### Hardware loops (R90, R91) -/

/-- Level `l` with its registers set. -/
def Thread.armed (t : Thread) (l : BitVec 1) (lbeg lend : Word) (c : BitVec 32) : Thread :=
  if l = 0#1 then { t with lbeg0 := lbeg, lend0 := lend, lc0 := c } else { t with lbeg1 := lbeg, lend1 := lend, lc1 := c }

theorem loopOff_eq_ofNat (i : BitVec 12) : i.setWidth 64 <<< 1 = BitVec.ofNat 64 (2 * i.toNat) := by
  have := i.isLt
  rw [shiftLeft_eq_ofNat, BitVec.toNat_setWidth, Nat.mod_eq_of_lt (by omega), Nat.pow_one, Nat.mul_comm]

theorem ofNat32_eq_zero_iff {n : Nat} (h : n < 2 ^ 32) : BitVec.ofNat 32 n = 0#32 ↔ n = 0 := by
  rw [← toNat_eq_zero_iff, BitVec.toNat_ofNat, Nat.mod_eq_of_lt h]

/-- The count of LOOP: an unsigned register value, saturated at 2^32 − 1. -/
theorem loopCount_eq_ofNat (x : Word) :
    (if x < 0x100000000#64 then x.setWidth 32 else 0xFFFFFFFF#32) = BitVec.ofNat 32 (min x.toNat (2 ^ 32 - 1)) := by
  have hlt : x < 0x100000000#64 ↔ x.toNat < 2 ^ 32 := BitVec.lt_def
  by_cases h : x.toNat < 2 ^ 32
  · rw [if_pos (hlt.2 h), Nat.min_eq_left (by omega), BitVec.ofNat_toNat]
  · have hmin : min x.toNat (2 ^ 32 - 1) = 0xFFFFFFFF := Nat.min_eq_right (by omega)
    rw [if_neg (mt hlt.1 h), hmin]

/-- A level is armed, and the loop-end test runs on the successor: LEND for a count of 0, else pc + 4. -/
theorem loopArm_arms (s : State) (l : BitVec 1) (i : BitVec 12) (n : Nat) (hn : n < 2 ^ 32) :
    let lbeg := s.th.pc + 4#64
    let lend := s.th.pc + BitVec.ofNat 64 (2 * i.toNat)
    let u := s.th.armed l lbeg lend (BitVec.ofNat 32 n)
    ∃ t, loopArm l (BitVec.ofNat 32 n) i s = .next t ∧
      OnlyThread s t ∧ t.th.bare = u.bare ∧ Succeeds (if n = 0 then lend else lbeg) u t.th := by
  intro lbeg lend u
  refine ⟨s.setTh (u.retire.loopEnd (if n = 0 then lend else lbeg)), ?_, onlyThread_setTh s _, ?_, ?_⟩
  · simp only [loopArm, loopOff_eq_ofNat, ofNat32_eq_zero_iff hn]
    rfl
  · rw [State.th_setTh, bare_loopEnd, bare_retire]
  · rw [State.th_setTh]
    exact succeeds_retire u _

/-! ### The obligations -/

/-- Settles O1: each row is its shape's result with the row's word as an exact integer. -/
theorem registerAluWritesTable : Obligations.RegisterAluWritesTable := by
  unfold Obligations.RegisterAluWritesTable
  intro s d a b x y k R
  refine ⟨?add, ?sub, ?and, ?or, ?xor, ?sll, ?srl, ?sra, ?rol, ?ror, ?slt, ?sltu, ?min, ?max, ?minu, ?maxu⟩
  case add => exact does_aluR (exec_add d a b s) (BitVec.add_def x y)
  case sub => exact does_aluR (exec_sub d a b s) (sub_eq_ofInt x y)
  case and => exact does_aluR (exec_and d a b s) rfl
  case or => exact does_aluR (exec_or d a b s) rfl
  case xor => exact does_aluR (exec_xor d a b s) rfl
  case sll => exact does_aluR (exec_sll d a b s) (shiftLeft_eq_ofNat x k)
  case srl => exact does_aluR (exec_srl d a b s) (ushiftRight_eq_ofNat x k)
  case sra => exact does_aluR (exec_sra d a b s) (sshiftRight_eq_ofInt x k)
  case rol => exact does_aluR (exec_rol d a b s) (rol_eq_rotateLeft x k (cnt6_lt y))
  case ror => exact does_aluR (exec_ror d a b s) (ror_eq_rotateRight x k (cnt6_lt y))
  case slt => exact does_aluR (exec_slt d a b s) (bool64_decide (x.toInt < y.toInt))
  case sltu => exact does_aluR (exec_sltu d a b s) (bool64_decide (x.toNat < y.toNat))
  case min => exact does_aluR (exec_min d a b s) (minS_eq_ofInt x y)
  case max => exact does_aluR (exec_max d a b s) (maxS_eq_ofInt x y)
  case minu => exact does_aluR (exec_minu d a b s) (minU_eq_ofNat x y)
  case maxu => exact does_aluR (exec_maxu d a b s) (maxU_eq_ofNat x y)

/-- Settles O2: an immediate is its signed value, wrapped; so is the upper immediate, times 4096. -/
theorem immediateAluWritesTable : Obligations.ImmediateAluWritesTable := by
  unfold Obligations.ImmediateAluWritesTable
  refine ⟨fun s d a i h => ?_, fun s d i => ⟨?lui, ?auipc⟩⟩
  case lui => exact does_finish_wx (exec_lui d i s) (imm20_eq_ofInt i)
  case auipc => exact does_finish_wx (exec_auipc d i s) (by rw [imm20_eq_ofInt, add_ofInt_eq])
  intro x R
  refine ⟨?addi, ?andi, ?ori, ?xori, ?slti, ?sltiu, ?slli, ?srli, ?srai, ?rori⟩
  case addi => exact does_aluI (exec_addi d a i s) (add_signExtend_eq_ofInt x i)
  case andi => exact does_aluI (exec_andi d a i s) rfl
  case ori => exact does_aluI (exec_ori d a i s) rfl
  case xori => exact does_aluI (exec_xori d a i s) rfl
  case slti =>
    refine does_aluI (exec_slti d a i s) ?_
    rw [BitVec.slt_eq_decide, toInt_imm12]
    exact bool64_decide (x.toInt < i.toInt)
  case sltiu => exact does_aluI (exec_sltiu d a i s) (bool64_decide (x.toNat < (imm12 i).toNat))
  case slli => exact does_aluI (exec_slli d a h s) (shiftLeft_eq_ofNat x h.toNat)
  case srli => exact does_aluI (exec_srli d a h s) (ushiftRight_eq_ofNat x h.toNat)
  case srai => exact does_aluI (exec_srai d a h s) (sshiftRight_eq_ofInt x h.toNat)
  case rori => exact does_aluI (exec_rori d a h s) (ror_eq_rotateRight x h.toNat h.isLt)

/-- Settles O3: the facts of the 64-bit forms hold at 32 bits, and a W form sign-extends what it computes. -/
theorem wordFormsSignExtend : Obligations.WordFormsSignExtend := by
  unfold Obligations.WordFormsSignExtend
  intro s d a b i h x y k R
  refine ⟨?addw, ?subw, ?sllw, ?srlw, ?sraw, ?addiw, ?slliw, ?srliw, ?sraiw⟩
  case addw => exact does_aluW (exec_addw d a b s) (BitVec.add_def x y)
  case subw => exact does_aluW (exec_subw d a b s) (sub_eq_ofInt x y)
  case sllw => exact does_aluW (exec_sllw d a b s) (shiftLeft_eq_ofNat x k)
  case srlw => exact does_aluW (exec_srlw d a b s) (ushiftRight_eq_ofNat x k)
  case sraw => exact does_aluW (exec_sraw d a b s) (sshiftRight_eq_ofInt x k)
  case addiw => exact does_aluWI (exec_addiw d a i s) (add_signExtend_eq_ofInt x i)
  case slliw => exact does_aluWI (exec_slliw d a h s) (shiftLeft_eq_ofNat x h.toNat)
  case srliw => exact does_aluWI (exec_srliw d a h s) (ushiftRight_eq_ofNat x h.toNat)
  case sraiw => exact does_aluWI (exec_sraiw d a h s) (sshiftRight_eq_ofInt x h.toNat)

/-- Settles O4: the model's quotient is the exact one at every width, so both widths and both remainders follow. -/
theorem multiplyDivideExact : Obligations.MultiplyDivideExact := by
  unfold Obligations.MultiplyDivideExact
  intro s d a b x y v w R W
  refine ⟨?mul, ?mulh, ?mulhu, ?div, ?divu, ?rem, ?remu, ?mulw, ?divw, ?divuw, ?remw, ?remuw⟩
  case mul => exact does_aluR (exec_mul d a b s) (mul_eq_ofInt x y)
  case mulh => exact does_aluR (exec_mulh d a b s) rfl
  case mulhu => exact does_aluR (exec_mulhu d a b s) (BitVec.ofInt_natCast 64 _).symm
  case div => exact does_aluR (exec_div d a b s) (divS_eq_exact (by decide) x y)
  case divu => exact does_aluR (exec_divu d a b s) (divU_eq_exact x y)
  case rem => exact does_aluR (exec_rem d a b s) (remS_eq_exact (by decide) x y)
  case remu => exact does_aluR (exec_remu d a b s) (remU_eq_exact x y)
  case mulw => exact does_aluW (exec_mulw d a b s) (mul_eq_ofInt v w)
  case divw => exact does_aluW (exec_divw d a b s) (divS_eq_exact (by decide) v w)
  case divuw => exact does_aluW (exec_divuw d a b s) (divU_eq_exact v w)
  case remw => exact does_aluW (exec_remw d a b s) (remS_eq_exact (by decide) v w)
  case remuw => exact does_aluW (exec_remuw d a b s) (remU_eq_exact v w)

/-- Settles O5: the counts are those of the model's scans, the swapped word is the one with the bytes reversed, and the die field is
replaced alone. -/
theorem bitAndAddressResults : Obligations.BitAndAddressResults := by
  unfold Obligations.BitAndAddressResults
  intro s d a b c h m x y R
  refine ⟨?clz, ?ctz, ?popc, ?bswap, ?sextI8, ?sextI16, ?sextI32, ?zextN8, ?zextN16, ?zextN32, ?sel, ?shadd, ?mkva, ?mkvai⟩
  case clz =>
    exact ⟨clzFrom x 64, clzFrom_le x 64, clzFrom_zeros x 64, clzFrom_one x 64, does_aluI (exec_clz d a s) rfl⟩
  case ctz =>
    refine ⟨ctzFrom x 64, ctzFrom_le x 64, fun i hi => ctzFrom_zeros x 64 i (Nat.le_refl _) (by omega) (by omega), fun hn => ?_,
      does_aluI (exec_ctz d a s) rfl⟩
    simpa using ctzFrom_one x 64 (Nat.le_refl _) hn
  case popc => exact does_aluI (exec_popc d a s) (congrArg (BitVec.ofNat 64) (bitCount_eq x))
  case bswap => exact ⟨bswap x, bswap_byte x, does_aluI (exec_bswap d a s) rfl⟩
  case sextI8 => exact does_aluI (exec_sextI8 d a s) rfl
  case sextI16 => exact does_aluI (exec_sextI16 d a s) rfl
  case sextI32 => exact does_aluI (exec_sextI32 d a s) rfl
  case zextN8 => exact does_aluI (exec_zextN8 d a s) (BitVec.ofNat_toNat 64 (x.setWidth 8)).symm
  case zextN16 => exact does_aluI (exec_zextN16 d a s) (BitVec.ofNat_toNat 64 (x.setWidth 16)).symm
  case zextN32 => exact does_aluI (exec_zextN32 d a s) (BitVec.ofNat_toNat 64 (x.setWidth 32)).symm
  case sel => exact does_finish_wx (exec_sel d a b c s) rfl
  case shadd =>
    exact does_aluR (exec_shadd d a b h s) (by rw [shiftLeft_eq_ofNat, BitVec.ofNat_add, BitVec.ofNat_toNat, BitVec.setWidth_eq])
  case mkva => exact ⟨setDie x (y.setWidth 4), setDie_field x _, setDie_other x _, does_aluR (exec_mkva d a b s) rfl⟩
  case mkvai => exact ⟨setDie x m, setDie_field x m, setDie_other x m, does_aluI (exec_mkvai d a m s) rfl⟩

/-- Settles O7: both jumps are `jumpLink`, which reads the target before it writes the link. -/
theorem jumpsLinkThenMove : Obligations.JumpsLinkThenMove := by
  unfold Obligations.JumpsLinkThenMove
  intro s d a i j J
  refine ⟨?jal, ?jalr⟩
  case jal => exact does_jumpLink (exec_jal d i s) (by rw [jumpOff_eq_ofInt, add_ofInt_eq])
  case jalr =>
    refine does_jumpLink (exec_jalr d a j s) ?_
    rw [clear_bit0, Thread.addr, imm12, add_signExtend_eq_ofInt]

/-- Settles O8: a body of 3 or more halfwords is legal, and then both loops arm the level with their count. -/
theorem loopsArmALevel : Obligations.LoopsArmALevel := by
  unfold Obligations.LoopsArmALevel
  intro s l a n i hi lbeg lend armed Arms
  refine ⟨?loop, ?loopi⟩
  case loop =>
    rw [exec_loop, execLoop, legal_pos _ _ _ (show (Instr.loop l a i).wf = true from decide_eq_true hi), loopCount_eq_ofNat]
    exact loopArm_arms s l i _ (by omega)
  case loopi =>
    have hn := n.isLt
    rw [exec_loopi, execLoopi, legal_pos _ _ _ (show (Instr.loopi l n i).wf = true from decide_eq_true hi), ← BitVec.ofNat_toNat]
    exact loopArm_arms s l i _ (by omega)

end Sys2Proof.Machine
end

section
/-!
PROOFS. Scalar floating point (spec/05): how an instruction that may raise flags ends, the flags that each operation can raise, the
fields of a pattern, and the obligations on moves, classes, compares and conversions.
-/

namespace Sys2Proof.Machine

/-! ### Flags, and the trap of an enabled flag (R114, R116) -/

/-- A flag set below 32 has no bit beyond the five flags. -/
theorem testBit_flag_high {fl : Nat} (hfl : fl < 32) {n : Nat} (hn : 5 ≤ n) : fl.testBit n = false :=
  Nat.testBit_lt_two_pow (Nat.lt_of_lt_of_le hfl (Nat.pow_le_pow_right (n := 2) (by decide) hn))

/-- The tested bits: flag `n` with its enable in bit n + 7, which the flags just raised do not reach. -/
theorem getLsbD_enabledFlags (t : Thread) {fl : Nat} (hfl : fl < 32) (n : Nat) :
    ((t.flags fl).fcsr >>> 7 &&& BitVec.ofNat 64 fl &&& 31#64).getLsbD n =
      (decide (n < 5) && fl.testBit n && t.fcsr.getLsbD (n + 7)) := by
  by_cases hn : n < 5
  · have flags : (BitVec.ofNat 64 fl).getLsbD n = fl.testBit n := by
      rw [BitVec.getLsbD_ofNat, decide_eq_true (by omega), Bool.true_and]
    have mask : (31#64).getLsbD n = true := (Nat.testBit_two_pow_sub_one 5 n).trans (decide_eq_true hn)
    have keep : (t.flags fl).fcsr.getLsbD (7 + n) = t.fcsr.getLsbD (n + 7) := by
      rw [flags_eq t fl, BitVec.getLsbD_or, BitVec.getLsbD_ofNat, testBit_flag_high hfl (by omega), Bool.and_false, Bool.or_false,
        Nat.add_comm]
    rw [BitVec.getLsbD_and, BitVec.getLsbD_and, BitVec.getLsbD_ushiftRight, flags, mask, keep, decide_eq_true hn, Bool.and_true,
      Bool.true_and, Bool.and_comm]
  · rw [BitVec.getLsbD_and, BitVec.getLsbD_and, BitVec.getLsbD_ofNat, testBit_flag_high hfl (by omega), decide_eq_false hn]
    simp only [Bool.and_false, Bool.false_and]

theorem trapsOn_flags_iff (t : Thread) {fl : Nat} (hfl : fl < 32) : (t.flags fl).trapsOn fl = true ↔ FlagTraps fl t := by
  have bit := getLsbD_enabledFlags t hfl
  unfold Thread.trapsOn FlagTraps
  rw [bne_iff_ne]
  constructor
  · intro h
    refine Classical.byContradiction fun absent => h (BitVec.eq_of_getLsbD_eq fun n _ => (bit n).trans ?_)
    rw [BitVec.getLsbD_zero, Bool.eq_false_iff]
    intro hb
    simp only [Bool.and_eq_true, decide_eq_true_eq] at hb
    obtain ⟨⟨hn, hf⟩, he⟩ := hb
    exact absent ⟨n, hn, hf, he⟩
  · rintro ⟨n, hn, hf, he⟩ h0
    have set := bit n
    rw [h0, hf, he, decide_eq_true hn] at set
    exact absurd set (by simp)

/-- Trap 0x11 leaves the flags in FCSR and writes no destination (R116). -/
theorem fpTraps_trap (s : State) {fl : Nat} (h : fl ≠ 0) :
    FpTraps fl s (s.setTh ((s.th.flags fl).trap 0x11 false (s.th.flags fl).pc 0#64 (BitVec.ofNat 64 fl))) := by
  refine ⟨onlyThread_setTh s _, ?_⟩
  rw [State.th_setTh, flags_eq s.th fl, if_neg h]
  exact enters_trap _ _ _ _ _ _ (by decide)

/-- How an instruction that may raise flags ends: it traps on an enabled flag, or it completes with what it writes. -/
theorem does_fpFinish {i : Instr} {s : State} {fl : Nat} {f : Thread → Thread} {P : State → Prop} (h : exec i s = fpFinish 4 fl s f)
    (hfl : fl < 32) (hP : P (s.setTh ((f (s.th.flags fl)).complete 4))) :
    Does i s fun t => (FlagTraps fl s.th → FpTraps fl s t) ∧ (¬ FlagTraps fl s.th → P t) := by
  unfold fpFinish at h
  by_cases ht : FlagTraps fl s.th
  · have raised : fl ≠ 0 := by
      rintro rfl
      obtain ⟨n, _, hn, _⟩ := ht
      exact absurd hn (by simp)
    simp only [(trapsOn_flags_iff s.th hfl).2 ht, if_true] at h
    exact ⟨_, h, fun _ => fpTraps_trap s raised, fun hn => absurd ht hn⟩
  · simp only [mt (trapsOn_flags_iff s.th hfl).1 ht, if_false, Bool.false_eq_true] at h
    exact ⟨_, h, fun hy => absurd hy ht, fun _ => hP⟩

/-! ### Results in f and x registers -/

/-- f[d] := v with flags, and completion, are all that happens to the machine. -/
theorem resultF_wf (s : State) (d : Reg) (v : Word) (fl : Nat) : ResultF d v fl s (s.setTh (((s.th.flags fl).wf d v).complete 4)) := by
  unfold ResultF
  rw [State.th_setTh]
  exact ⟨onlyThread_setTh s _, wf_complete s.th d v fl 4⟩

theorem does_finish_wf {i : Instr} {s : State} {d : Reg} {f : Thread → Word} {v : Word} (h : exec i s = finish 4 s fun t => t.wf d (f t))
    (hv : f s.th = v) : Does i s (ResultF d v 0 s) := by
  subst hv
  exact ⟨_, h, resultF_wf s d _ 0⟩

theorem does_fpToF {i : Instr} {s : State} {z : BitVec 2} {d : Reg} {x : FRes}
    (h : exec i s = fpFinish 4 x.2 s fun t => t.wfs z d x.1) (hx : x.2 < 32) : Does i s (FpToF z d x s) :=
  does_fpFinish h hx (resultF_wf s d _ x.2)

theorem does_fpToX {i : Instr} {s : State} {d : Reg} {v : Word} {fl : Nat} (h : exec i s = fpFinish 4 fl s fun t => t.wx d v)
    (hfl : fl < 32) : Does i s (FpToX d v fl s) := by
  obtain ⟨done, writes⟩ := wx_complete (s.th.flags fl) d v 4
  obtain ⟨others, reads⟩ := writes
  refine does_fpFinish h hfl ⟨onlyThread_setTh s _, ?_, ?_, fun r => ?_⟩ <;> rw [State.th_setTh]
  · exact completes_congr done (by simp) (by simp) (by simp) (by simp) (by simp) (by simp) (by simp) (by simp)
  · rw [others]
    generalize (((s.th.flags fl).wx d v).complete 4).x = X
    rw [flags_eq s.th fl]
  · rw [reads, Thread.rx_congr (Thread.flags_x s.th fl)]

/-! ### The checks before the operation (R45, R115) -/

theorem needs_fen {s : State} (h : s.th.status.getLsbD 4 = true) (b : Word) (k : Out) : needs 1#3 b s k = k := by
  refine needs_pos _ _ _ _ ?_
  apply BitVec.eq_of_getLsbD_eq
  intro i hi
  have : i = 0 ∨ i = 1 ∨ i = 2 := by omega
  rcases this with rfl | rfl | rfl <;> simp [Thread.missing, h]

theorem withMode_some {i : Instr} {r : BitVec 3} {s : State} {m : Nat} (hw : i.wf = true) (hen : s.th.status.getLsbD 4 = true)
    (hm : s.th.mode r = some m) (k : Nat → Out) : withMode i r s k = k m := by
  rw [withMode, legal_pos _ _ _ hw, needs_fen hen, hm]

theorem rmOk_of_le {r : BitVec 3} (h : r.toNat ≤ 5) : rmOk r = true := by
  revert r
  decide

/-! ### The flags that an operation can raise (R108, R117) -/

theorem snanFlag_pair (x y : FVal) : snanFlag [x, y] = if x.isSnan || y.isSnan then 1 else 0 := by
  simp [snanFlag, fINV]

theorem snanFlag_lt (x y : FVal) : snanFlag [x, y] < 32 := by
  rw [snanFlag_pair]
  split <;> decide

theorem minMax_flags (f : Fmt) (max : Bool) (x y : Nat) : (f.minMax max x y).2 = snanFlag [f.decode x, f.decode y] := by
  unfold Fmt.minMax
  simp only [apply_ite Prod.snd, ite_self]

theorem minMax_flags_lt (f : Fmt) (max : Bool) (x y : Nat) : (f.minMax max x y).2 < 32 := by
  rw [minMax_flags]
  exact snanFlag_lt _ _

/-- The flags of a result that fits: INX, and UNF with it. -/
theorem roundedFlags_lt (p q : Prop) [Decidable p] [Decidable q] : (if p then 0 else fINX) + (if q then fUNF else 0) < 32 := by
  split <;> split <;> decide

theorem ite_flags_lt {α : Type} {p : Prop} [Decidable p] {x y : α × Nat} (hx : x.2 < 32) (hy : y.2 < 32) :
    (if p then x else y).2 < 32 := by
  split
  · exact hx
  · exact hy

/-- A zero, an overflow, or a result that fits. -/
theorem round_flags_lt (f : Fmt) (rm : Nat) (sat neg : Bool) (m : Nat) (e : Int) : (f.round rm sat neg m e).2 < 32 :=
  ite_flags_lt (by decide : 0 < 32) (ite_flags_lt (by decide : fOVF + fINX < 32) (roundedFlags_lt _ _))

theorem convert_flags_lt {f : Fmt} (hf : f.top = .ieee) (rm : Nat) (v : FVal) : (f.convert rm false v).2 < 32 := by
  unfold Fmt.convert
  cases v with
  | nan signalling => cases signalling <;> simp [hf, fINV]
  | inf neg => simp [hf]
  | fin neg m e => exact round_flags_lt f rm false neg m e

theorem toIntRange_flags_lt (rm : Nat) (lo hi : Int) (v : FVal) : (toIntRange rm lo hi v).2 < 32 := by
  cases v with
  | nan signalling => exact (by decide : fINV < 32)
  | inf neg => exact (by decide : fINV < 32)
  | fin neg m e =>
    have fits : (if (roundInt rm neg m e).2 then 0 else fINX) < 32 := by split <;> decide
    exact ite_flags_lt (by decide : fINV < 32) (ite_flags_lt (by decide : fINV < 32) fits)

/-! ### Fields of an f register read at its width (R51, R98, R113) -/

theorem sfFmt_ieee (z : BitVec 2) : (sfFmt z).top = .ieee := by
  revert z
  decide

/-- The weight of the sign bit: the formats are a sign, an exponent and a fraction (R98). -/
theorem signWeight_eq (f : Fmt) : 2 ^ (f.width - 1) = 2 ^ (f.eb + f.mb) := by
  rw [Fmt.width, Nat.add_assoc, Nat.add_sub_cancel_left]

/-- The top bit of a pattern of `f`, as a quotient by its weight. -/
theorem sign_eq_div {f : Fmt} {x : Nat} (hx : x < 2 ^ f.width) :
    x / 2 ^ (f.width - 1) = if 2 ^ (f.width - 1) ≤ x then 1 else 0 := by
  have twice : 2 ^ f.width = 2 * 2 ^ (f.width - 1) := by
    rw [← Nat.pow_succ', Fmt.width, Nat.add_assoc, Nat.add_sub_cancel_left, Nat.add_comm]
  split
  · next h => exact Nat.div_eq_of_lt_le (by omega) (by omega)
  · next h => exact Nat.div_eq_of_lt (Nat.lt_of_not_le h)

theorem fBits_lt (z : BitVec 2) (t : Thread) (r : Reg) : fBits z t r < 2 ^ (sfFmt z).width := Nat.mod_lt _ (Nat.two_pow_pos _)

/-- The sign bit that FCPSGN and its kin test (R120). -/
theorem fBits_sign (z : BitVec 2) (t : Thread) (r : Reg) :
    (t.rfs z r / 2 ^ ((sfFmt z).width - 1) == 1) = decide (2 ^ ((sfFmt z).width - 1) ≤ fBits z t r) := by
  rw [show t.rfs z r = fBits z t r from rfl, sign_eq_div (fBits_lt z t r)]
  split
  · next h => rw [decide_eq_true h, beq_self_eq_true]
  · next h => rw [decide_eq_false h]; rfl

/-- A sign operation writes the magnitude of fs1 under the sign that `g` makes of the two signs (R120). -/
theorem does_fpSign {i : Instr} {s : State} {g : Bool → Bool → Bool} {bits : Word} {z : BitVec 2} {d a b : Reg}
    (hen : s.th.status.getLsbD 4 = true) (h : exec i s = fpSign g bits z d a b s) :
    let w := 2 ^ ((sfFmt z).width - 1)
    let x := fBits z s.th a
    let sign := g (decide (w ≤ x)) (decide (w ≤ fBits z s.th b))
    Does i s (ResultF d (signFill (sfBytes z) (x % w + (if sign then w else 0))) 0 s) := by
  refine does_finish_wf (h.trans (needs_fen hen bits _)) ?_
  rw [fBits_sign, fBits_sign]
  rfl

/-! ### Classes (R122) -/

/-- What a pattern of an IEEE format is, by its exponent field and its fraction (R98, R99). -/
theorem decode_ieee {f : Fmt} (hf : f.top = .ieee) (x : Nat) :
    f.decode x =
      if x / 2 ^ f.mb % 2 ^ f.eb = 2 ^ f.eb - 1 then
        if x % 2 ^ f.mb = 0 then .inf (x / 2 ^ (f.eb + f.mb) % 2 == 1) else .nan (decide (x % 2 ^ f.mb < 2 ^ (f.mb - 1)))
      else if x / 2 ^ f.mb % 2 ^ f.eb = 0 then .fin (x / 2 ^ (f.eb + f.mb) % 2 == 1) (x % 2 ^ f.mb) f.qmin
      else .fin (x / 2 ^ (f.eb + f.mb) % 2 == 1) (2 ^ f.mb + x % 2 ^ f.mb) (f.qmin + (x / 2 ^ f.mb % 2 ^ f.eb : Nat) - 1) := by
  have quiet : (x % 2 ^ f.mb / 2 ^ (f.mb - 1) == 0) = decide (x % 2 ^ f.mb < 2 ^ (f.mb - 1)) := by
    rw [Bool.eq_iff_iff, beq_iff_eq, decide_eq_true_iff, Nat.div_eq_zero_iff_lt (Nat.two_pow_pos _)]
  simp only [Fmt.decode, hf, quiet, true_and, reduceCtorEq, false_and, if_false]

/-- The class code of an IEEE format, from its exponent field `e` and its fraction `m`. -/
theorem classify_ieee {f : Fmt} (hf : f.top = .ieee) {x : Nat} (hx : x < 2 ^ f.width) :
    let e := x / 2 ^ f.mb % 2 ^ f.eb
    let m := x % 2 ^ f.mb
    f.classify x =
      (if 2 ^ (f.width - 1) ≤ x then 8 else 0) +
        (if e = 2 ^ f.eb - 1 then (if m = 0 then 3 else if m < 2 ^ (f.mb - 1) then 5 else 4)
         else if e = 0 then (if m = 0 then 0 else 1) else 2) := by
  intro e m
  have sign : 8 * (x / 2 ^ (f.eb + f.mb) % 2) = if 2 ^ (f.width - 1) ≤ x then 8 else 0 := by
    rw [← signWeight_eq, sign_eq_div hx]
    split <;> rfl
  have frac : m < 2 ^ f.mb := Nat.mod_lt _ (Nat.two_pow_pos _)
  rw [← sign, Nat.add_comm, Fmt.classify, decode_ieee hf]
  refine congrArg (· + _) ?_
  by_cases top : e = 2 ^ f.eb - 1
  · rw [if_pos top, if_pos top]
    by_cases zero : m = 0
    · rw [if_pos zero, if_pos zero]
    · rw [if_neg zero, if_neg zero]
      show (if decide (m < 2 ^ (f.mb - 1)) then 5 else 4) = _
      simp only [decide_eq_true_eq]
  · rw [if_neg top, if_neg top]
    by_cases sub : e = 0
    · rw [if_pos sub, if_pos sub]
      show (if m = 0 then 0 else if m < 2 ^ f.mb then 1 else 2) = _
      rw [if_pos frac]
    · rw [if_neg sub, if_neg sub]
      have pos := Nat.two_pow_pos f.mb
      exact (if_neg (by omega)).trans (if_neg (by omega))

/-! ### Integers of a conversion (R51, R123) -/

theorem intOf_eq (n g : BitVec 1) (x : Word) :
    intOf n g x =
      let v := if g = 1#1 then x else (x.setWidth 32).setWidth 64
      if n = 1#1 then (v.toNat : Int) else if g = 1#1 then v.toInt else (v.setWidth 32).toInt := by
  unfold intOf low32
  by_cases hg : g = 1#1
  · simp only [hg, if_true]
  · simp only [hg, if_false, BitVec.setWidth_setWidth_of_le _ (show 32 ≤ 64 by decide), BitVec.setWidth_eq,
      BitVec.toNat_setWidth_of_le (show 32 ≤ 64 by decide)]

theorem intHi_eq (n g : BitVec 1) :
    intHi n g = if n = 1#1 then (if g = 1#1 then 2 ^ 64 - 1 else 2 ^ 32 - 1) else if g = 1#1 then 2 ^ 63 - 1 else 2 ^ 31 - 1 := by
  unfold intHi
  by_cases hg : g = 1#1
  · simp only [hg, if_true]
  · simp only [hg, if_false]

/-! ### The obligations -/

/-- Settles O13: minimum and maximum end in `fpFinish`, the others in one register write; the class is read off the fields of the
pattern. -/
theorem scalarMovesAndClasses : Obligations.ScalarMovesAndClasses := by
  unfold Obligations.ScalarMovesAndClasses
  intro s z d a b hen F x y h S e f
  refine ⟨?fmin, ?fmax, ?fcpsgn, ?fxsgn, ?fneg, ?fabs, ?fmov, ?fclass, ?fmvx, ?fmvf⟩
  case fmin => exact does_fpToF ((exec_fmin z d a b s).trans (needs_fen hen _ _)) (minMax_flags_lt F false x y)
  case fmax => exact does_fpToF ((exec_fmax z d a b s).trans (needs_fen hen _ _)) (minMax_flags_lt F true x y)
  case fcpsgn => exact does_fpSign (g := fun _ sy => sy) hen (exec_fcpsgn z d a b s)
  case fxsgn => exact does_fpSign (g := fun sx sy => sx != sy) hen (exec_fxsgn z d a b s)
  case fneg => exact does_fpSign (g := fun sx _ => !sx) hen (exec_fneg z d a s)
  case fabs => exact does_fpSign (g := fun _ _ => false) hen (exec_fabs z d a s)
  case fmov => exact does_finish_wf ((exec_fmov d a s).trans (needs_fen hen _ _)) rfl
  case fclass =>
    exact does_finish_wx ((exec_fclass z d a s).trans (needs_fen hen _ _))
      (congrArg (BitVec.ofNat 64) (classify_ieee (sfFmt_ieee z) (fBits_lt z s.th a)))
  case fmvx => exact does_finish_wx ((exec_fmvx z d a s).trans (needs_fen hen _ _)) rfl
  case fmvf => exact does_finish_wf ((exec_fmvf z d a s).trans (needs_fen hen _ _)) rfl

/-- Settles O14: every compare and conversion ends in `fpFinish` with flags below 32; a conversion passes its decode checks with the mode
that rm names, and its integer source and range are those of the form's width. -/
theorem scalarComparesAndConverts : Obligations.ScalarComparesAndConverts := by
  unfold Obligations.ScalarComparesAndConverts
  intro s z u r n g d a b m hen x y nan loud C
  have loud_lt : loud < 32 := by
    unfold loud
    split <;> decide
  refine ⟨?feq, ?flt, ?fle, fun hr hm => ?_⟩
  case feq =>
    rw [← snanFlag_pair]
    exact does_fpToX ((exec_feq z d a b s).trans (needs_fen hen _ _)) (snanFlag_lt x y)
  case flt => exact does_fpToX ((exec_flt z d a b s).trans (needs_fen hen _ _)) loud_lt
  case fle => exact does_fpToX ((exec_fle z d a b s).trans (needs_fen hen _ _)) loud_lt
  intro v k lo hi w
  have rm := rmOk_of_le hr
  refine ⟨fun hzu => ?ff, ?fromInt, ?toInt⟩
  case ff =>
    have wf : (Instr.fcvtFf z r u d a).wf = true := by simp [Instr.wf, rm, hzu]
    exact does_fpToF ((exec_fcvtFf z r u d a s).trans (withMode_some wf hen hm _)) (convert_flags_lt (sfFmt_ieee z) m _)
  case fromInt =>
    have wf : (Instr.fcvtFInt z r n g d a).wf = true := rm
    have source : k = intOf n g (s.th.rx a) := (intOf_eq n g (s.th.rx a)).symm
    rw [source]
    exact does_fpToF ((exec_fcvtFInt z r n g d a s).trans (withMode_some wf hen hm _)) (round_flags_lt _ m false _ _ _)
  case toInt =>
    have wf : (Instr.fcvtIntF z r n g d a).wf = true := rm
    have range : w = toIntRange m (intLo n g) (intHi n g) x := by
      unfold w
      rw [intHi_eq]
      rfl
    rw [range]
    exact does_fpToX ((exec_fcvtIntF z r n g d a s).trans (withMode_some wf hen hm _)) (toIntRange_flags_lt m _ _ _)

end Sys2Proof.Machine
end

section
/-!
PROOFS. Vector instructions that compute (spec/07): lanes of a register, the bits that a fold over the active lanes sets, lane
operations as exact integers, the reduction tree, how each shape of vector instruction ends, and the obligations on integer lanes,
compares and reductions.
-/

namespace Sys2Proof.Machine

/-! ### Lanes (R149, R150) -/

theorem toNat_Lane (n : Nat) (v : Line) (i : Nat) : (Lane n v i).toNat = lane v n i := by
  rw [Lane, BitVec.extractLsb'_toNat, Nat.shiftRight_eq_div_pow, lane]

theorem ofNat_lane (n : Nat) (v : Line) (i : Nat) : BitVec.ofNat n (lane v n i) = Lane n v i := by
  rw [← toNat_Lane, BitVec.ofNat_toNat, BitVec.setWidth_eq]

theorem packLanes_lt (w : Nat) (f : Nat → Nat) (n i : Nat) : packLanes w f n i < 2 ^ (w * n) := by
  induction n generalizing i with
  | zero => simp [packLanes]
  | succ n ih =>
    have low : f i % 2 ^ w < 2 ^ w := Nat.mod_lt _ (Nat.two_pow_pos w)
    calc f i % 2 ^ w + 2 ^ w * packLanes w f n (i + 1)
        < 2 ^ w * (packLanes w f n (i + 1) + 1) := by rw [Nat.mul_succ]; omega
      _ ≤ 2 ^ w * 2 ^ (w * n) := Nat.mul_le_mul_left _ (ih (i + 1))
      _ = 2 ^ (w * (n + 1)) := by rw [← Nat.pow_add, Nat.mul_succ, Nat.add_comm]

/-- Lane `j` of the packed value: lane 0 is its remainder modulo 2^w, and lane j + 1 is lane j of its quotient. -/
theorem packLanes_lane (w : Nat) (f : Nat → Nat) (n i j : Nat) (h : j < n) :
    packLanes w f n i / 2 ^ (w * j) % 2 ^ w = f (i + j) % 2 ^ w := by
  induction n generalizing i j with
  | zero => omega
  | succ n ih =>
    cases j with
    | zero => simp [packLanes]
    | succ j =>
      have quotient : packLanes w f (n + 1) i / 2 ^ w = packLanes w f n (i + 1) := by
        rw [packLanes, Nat.add_mul_div_left _ _ (Nat.two_pow_pos w), Nat.div_eq_of_lt (Nat.mod_lt _ (Nat.two_pow_pos w)), Nat.zero_add]
      rw [Nat.mul_succ, Nat.add_comm (w * j), Nat.pow_add, ← Nat.div_div_eq_div_mul, quotient, ih (i + 1) j (by omega)]
      congr 2
      omega

theorem Lane_ofLanes (w : Nat) (f : Nat → Nat) {i : Nat} (h : i < 512 / w) : Lane w (ofLanes w f) i = BitVec.ofNat w (f i) := by
  have fill : w * lanesOf w ≤ 512 := Nat.mul_div_le 512 w
  have fits := Nat.lt_of_lt_of_le (packLanes_lt w f (lanesOf w) 0) (Nat.pow_le_pow_right Nat.two_pos fill)
  apply BitVec.eq_of_toNat_eq
  rw [toNat_Lane, lane, ofLanes, BitVec.toNat_ofNat, Nat.mod_eq_of_lt fits, packLanes_lane w f (lanesOf w) 0 i h, Nat.zero_add,
    BitVec.toNat_ofNat]

theorem getLsbD_Lane (n : Nat) (v : Line) (i j : Nat) (h : j < n) : (Lane n v i).getLsbD j = v.getLsbD (n * i + j) := by
  rw [Lane, BitVec.getLsbD_extractLsb', decide_eq_true h, Bool.true_and]

/-- A register is its lanes, when they fill it. -/
theorem eq_of_Lanes {n : Nat} {v u : Line} (fill : n * (512 / n) = 512) (h : ∀ i, i < 512 / n → Lane n v i = Lane n u i) : v = u := by
  apply BitVec.eq_of_getLsbD_eq
  intro j hj
  have pos : 0 < n := Nat.pos_of_ne_zero (by rintro rfl; omega)
  have inside : j / n < 512 / n := Nat.div_lt_of_lt_mul (by omega)
  rw [← Nat.div_add_mod j n, ← getLsbD_Lane n v _ _ (Nat.mod_lt j pos), ← getLsbD_Lane n u _ _ (Nat.mod_lt j pos), h _ inside]

@[simp] theorem Thread.rk_flags (t : Thread) (fl : Nat) (r : BitVec 3) : (t.flags fl).rk r = t.rk r :=
  Thread.rk_congr (Thread.flags_k t fl) r

@[simp] theorem Thread.rk_zero (t : Thread) : t.rk 0#3 = BitVec.allOnes 64 := rfl

/-! ### Active lanes, and what a fold over them sets (R152, R157) -/

theorem mem_activeLanes (w : Nat) (km : Word) (i : Nat) : i ∈ activeLanes w km ↔ i < 512 / w ∧ km.getLsbD i = true := by
  rw [activeLanes, List.mem_filter, List.mem_range, lanesOf]

theorem getLsbD_foldl_oneBit (f : Nat → Bool) (l : List Nat) (hl : ∀ i ∈ l, i < 64) (m : Word) (j : Nat) :
    (l.foldl (fun m i => if f i then m ||| oneBit i else m) m).getLsbD j = true ↔ m.getLsbD j = true ∨ (j ∈ l ∧ f j = true) := by
  induction l generalizing m with
  | nil => simp
  | cons i l ih =>
    have one := getLsbD_oneBit i j (hl i List.mem_cons_self)
    have bit : (if f i then m ||| oneBit i else m).getLsbD j = true ↔ m.getLsbD j = true ∨ (j = i ∧ f j = true) := by
      by_cases hj : j = i
      · subst hj
        cases hf : f j <;> simp [one]
      · split <;> simp [one, hj]
    rw [List.foldl_cons, ih fun k hk => hl k (List.mem_cons_of_mem i hk), bit, List.mem_cons, or_and_right, or_assoc]

/-- R157: the mask of the active lanes where `f` holds. -/
theorem getLsbD_maskOf (w : Nat) (km : Word) (f : Nat → Bool) (i : Nat) :
    (maskOf w km f).getLsbD i = true ↔ i < 512 / w ∧ km.getLsbD i = true ∧ f i = true := by
  have small : ∀ i ∈ activeLanes w km, i < 64 := fun i hi => BitVec.lt_of_getLsbD ((mem_activeLanes w km i).1 hi).2
  rw [maskOf, getLsbD_foldl_oneBit f _ small, mem_activeLanes, BitVec.getLsbD_zero]
  simp [and_assoc]

theorem testBit_foldl_or (g : Nat → Nat) (l : List Nat) (a b : Nat) :
    (l.foldl (fun a i => a ||| g i) a).testBit b = true ↔ a.testBit b = true ∨ ∃ i ∈ l, (g i).testBit b = true := by
  induction l generalizing a with
  | nil => simp
  | cons i l ih =>
    rw [List.foldl_cons, ih, Nat.testBit_or, Bool.or_eq_true, or_assoc]
    simp

theorem laneFlags_spec (w : Nat) (km : Word) (f : Nat → FRes) : LaneFlags (512 / w) km (fun i => (f i).2) (laneFlags w km f) := by
  intro b
  rw [laneFlags, testBit_foldl_or]
  simp [mem_activeLanes, and_assoc]

/-- A flag set is below 32 when each of its bits comes from one that is. -/
theorem flags_lt_of_bits {fl : Nat} (h : ∀ b, fl.testBit b = true → ∃ g, g < 32 ∧ g.testBit b = true) : fl < 32 := by
  refine Nat.lt_pow_two_of_testBit (n := 5) fl fun b hb => ?_
  rw [Bool.eq_false_iff]
  intro set
  obtain ⟨g, hg, bit⟩ := h b set
  exact absurd bit (by simp [testBit_flag_high hg hb])

theorem LaneFlags.lt {l : Nat} {km : Word} {f : Nat → Nat} {fl : Nat} (h : LaneFlags l km f fl) (hf : ∀ i, f i < 32) : fl < 32 :=
  flags_lt_of_bits fun b set =>
    let ⟨i, _, _, bit⟩ := (h b).1 set
    ⟨f i, hf i, bit⟩

/-! ### Lane operations as exact integers (R153) -/

theorem toInt_opMin (n : Nat) (x y : BitVec n) : (opMin n x y).toInt = min x.toInt y.toInt := by
  simp only [opMin, BitVec.slt_eq_decide, decide_eq_true_eq]
  split <;> omega

theorem toInt_opMax (n : Nat) (x y : BitVec n) : (opMax n x y).toInt = max x.toInt y.toInt := by
  simp only [opMax, BitVec.slt_eq_decide, decide_eq_true_eq]
  split <;> omega

theorem toNat_opMinu (n : Nat) (x y : BitVec n) : (opMinu n x y).toNat = min x.toNat y.toNat := by
  simp only [opMinu, BitVec.lt_def]
  split <;> omega

theorem toNat_opMaxu (n : Nat) (x y : BitVec n) : (opMaxu n x y).toNat = max x.toNat y.toNat := by
  simp only [opMaxu, BitVec.lt_def]
  split <;> omega

theorem opMin_eq (n : Nat) (x y : BitVec n) : opMin n x y = BitVec.ofInt n (min x.toInt y.toInt) := by
  rw [← toInt_opMin, BitVec.ofInt_toInt]

theorem opMax_eq (n : Nat) (x y : BitVec n) : opMax n x y = BitVec.ofInt n (max x.toInt y.toInt) := by
  rw [← toInt_opMax, BitVec.ofInt_toInt]

theorem opMinu_eq (n : Nat) (x y : BitVec n) : opMinu n x y = BitVec.ofNat n (min x.toNat y.toNat) := by
  rw [← toNat_opMinu, BitVec.ofNat_toNat, BitVec.setWidth_eq]

theorem opMaxu_eq (n : Nat) (x y : BitVec n) : opMaxu n x y = BitVec.ofNat n (max x.toNat y.toNat) := by
  rw [← toNat_opMaxu, BitVec.ofNat_toNat, BitVec.setWidth_eq]

/-! ### Integer reductions as exact integers (R160) -/

/-- A fold of an operation that `val` carries to the exact operation `g`. -/
theorem foldl_eq_ofInt {n : Nat} {op : BitVec n → BitVec n → BitVec n} {val : BitVec n → Int} {g : Int → Int → Int} {u : BitVec n}
    {z : Int} (wraps : ∀ x, BitVec.ofInt n (val x) = x) (hop : ∀ x y, val (op x y) = g (val x) (val y)) (hu : val u = z)
    (l : List (BitVec n)) :
    l.foldl op u = BitVec.ofInt n ((l.map val).foldl g z) := by
  have exact : (l.map val).foldl g (val u) = val (l.foldl op u) := by
    rw [List.foldl_map]
    exact List.foldl_hom val fun x y => (hop x y).symm
  rw [← hu, exact, wraps]

/-- A sum modulo 2^n, wrapped at the end. -/
theorem foldl_opAdd (n : Nat) (l : List (BitVec n)) :
    l.foldl (opAdd n) 0 = BitVec.ofInt n (l.map fun e => (e.toNat : Int)).sum := by
  rw [List.sum_eq_foldl, List.foldl_map]
  refine (List.foldl_hom (BitVec.ofInt n) (init := 0) fun z y => ?_).trans rfl
  rw [BitVec.ofInt_add, ofInt_toNat_eq]
  rfl

theorem cast_opMinu (n : Nat) (x y : BitVec n) : ((opMinu n x y).toNat : Int) = min (x.toNat : Int) y.toNat := by
  rw [toNat_opMinu]
  omega

theorem cast_opMaxu (n : Nat) (x y : BitVec n) : ((opMaxu n x y).toNat : Int) = max (x.toNat : Int) y.toNat := by
  rw [toNat_opMaxu]
  omega

theorem cast_allOnes (n : Nat) : ((BitVec.allOnes n).toNat : Int) = 2 ^ n - 1 := by
  rw [BitVec.toNat_allOnes, Int.natCast_sub Nat.one_le_two_pow, Int.natCast_pow]
  rfl

/-! ### The reduction tree (R161) -/

/-- The node above two neighbours: an absent one passes the other on. -/
def joinNodes (op : Nat → Nat → FRes) : Option Nat → Option Nat → Option Nat
  | none, r => r
  | some p, none => some p
  | some p, some q => some (op p q).1

/-- The flags raised where two present neighbours are combined. -/
def joinFlags (op : Nat → Nat → FRes) : Option Nat → Option Nat → Nat
  | some p, some q => (op p q).2
  | _, _ => 0

/-- The level above the nodes `f`. -/
def levelUp (op : Nat → Nat → FRes) (f : Nat → Option Nat) (i : Nat) : Option Nat := joinNodes op (f (2 * i)) (f (2 * i + 1))

/-- The nodes of level `v` over the leaves `f`. -/
def nodesAt (op : Nat → Nat → FRes) (f : Nat → Option Nat) : Nat → Nat → Option Nat
  | 0 => f
  | v + 1 => levelUp op (nodesAt op f v)

theorem nodesAt_levelUp (op : Nat → Nat → FRes) (f : Nat → Option Nat) (v : Nat) :
    nodesAt op (levelUp op f) v = nodesAt op f (v + 1) := by
  induction v with
  | zero => rfl
  | succ v ih => exact congrArg (levelUp op) ih

/-- Flag `b` is raised where the first `n` pairs of the nodes `f` are combined. -/
def Raises (op : Nat → Nat → FRes) (f : Nat → Option Nat) (n b : Nat) : Prop :=
  ∃ i p q, i < n ∧ f (2 * i) = some p ∧ f (2 * i + 1) = some q ∧ (op p q).2.testBit b = true

theorem not_raises_zero (op : Nat → Nat → FRes) (f : Nat → Option Nat) (b : Nat) : ¬ Raises op f 0 b := by
  rintro ⟨i, _, _, hi, _⟩
  exact absurd hi (Nat.not_lt_zero i)

/-- The first pair raises the flag, or a later one does. -/
theorem raises_succ (op : Nat → Nat → FRes) (f : Nat → Option Nat) (n b : Nat) :
    Raises op f (n + 1) b ↔
      (∃ p q, f 0 = some p ∧ f 1 = some q ∧ (op p q).2.testBit b = true) ∨ Raises op (fun i => f (i + 2)) n b := by
  constructor
  · rintro ⟨i, p, q, hi, hp, hq, bit⟩
    cases i with
    | zero => exact .inl ⟨p, q, hp, hq, bit⟩
    | succ i => exact .inr ⟨i, p, q, Nat.lt_of_succ_lt_succ hi, hp, hq, bit⟩
  · rintro (⟨p, q, hp, hq, bit⟩ | ⟨i, p, q, hi, hp, hq, bit⟩)
    · exact ⟨0, p, q, Nat.succ_pos n, hp, hq, bit⟩
    · exact ⟨i + 1, p, q, Nat.succ_lt_succ hi, hp, hq, bit⟩

theorem testBit_joinFlags (op : Nat → Nat → FRes) (l r : Option Nat) (b : Nat) :
    (joinFlags op l r).testBit b = true ↔ ∃ p q, l = some p ∧ r = some q ∧ (op p q).2.testBit b = true := by
  cases l <;> cases r <;> simp [joinFlags]

theorem treeLevel_cons (op : Nat → Nat → FRes) (l r : Option Nat) (rest : List (Option Nat)) :
    treeLevel op (l :: r :: rest) = (joinNodes op l r :: (treeLevel op rest).1, joinFlags op l r ||| (treeLevel op rest).2) := by
  cases l with
  | none => simp [treeLevel, joinNodes, joinFlags]
  | some p => cases r <;> simp [treeLevel, joinNodes, joinFlags]

theorem map_range_pairs {α : Type} (f : Nat → α) (n : Nat) :
    (List.range (2 * (n + 1))).map f = f 0 :: f 1 :: (List.range (2 * n)).map fun i => f (i + 2) := by
  rw [show 2 * (n + 1) = 2 * n + 1 + 1 by omega, List.range_succ_eq_map, List.range_succ_eq_map]
  simp [Function.comp_def]

theorem treeLevel_nodes (op : Nat → Nat → FRes) (f : Nat → Option Nat) (n : Nat) :
    (treeLevel op ((List.range (2 * n)).map f)).1 = (List.range n).map (levelUp op f) := by
  induction n generalizing f with
  | zero => rfl
  | succ n ih =>
    rw [map_range_pairs, treeLevel_cons, ih, List.range_succ_eq_map, List.map_cons, List.map_map]
    rfl

theorem treeLevel_flags (op : Nat → Nat → FRes) (f : Nat → Option Nat) (n b : Nat) :
    (treeLevel op ((List.range (2 * n)).map f)).2.testBit b = true ↔ Raises op f n b := by
  induction n generalizing f with
  | zero => exact iff_of_false (by simp [treeLevel]) (not_raises_zero op f b)
  | succ n ih =>
    rw [map_range_pairs, treeLevel_cons, Nat.testBit_or, Bool.or_eq_true, testBit_joinFlags, ih, raises_succ]

theorem tree_succ (op : Nat → Nat → FRes) (lv : Nat) (ns : List (Option Nat)) (fl : Nat) :
    tree op (lv + 1) ns fl = tree op lv (treeLevel op ns).1 (fl ||| (treeLevel op ns).2) := rfl

/-- A level of one node stays as it is. -/
theorem tree_single (op : Nat → Nat → FRes) (lv : Nat) (x : Option Nat) (fl : Nat) : tree op lv [x] fl = (x, fl) := by
  induction lv with
  | zero => rfl
  | succ lv ih =>
    have level : treeLevel op [x] = ([x], 0) := rfl
    rw [tree_succ, level, Nat.or_zero, ih]

/-- R161: the root over 2^m leaves is the node 0 of level m. -/
theorem tree_root (op : Nat → Nat → FRes) (m r : Nat) (f : Nat → Option Nat) (fl : Nat) :
    (tree op (m + r) ((List.range (2 ^ m)).map f) fl).1 = nodesAt op f m 0 := by
  induction m generalizing f fl with
  | zero =>
    have leaf : (List.range (2 ^ 0)).map f = [f 0] := rfl
    rw [leaf, tree_single]
    rfl
  | succ m ih =>
    rw [Nat.add_right_comm, Nat.pow_succ', tree_succ, treeLevel_nodes, ih, nodesAt_levelUp]

/-- The flags of the tree are those of the pairs of each level. -/
theorem tree_flags (op : Nat → Nat → FRes) (m r : Nat) (f : Nat → Option Nat) (fl b : Nat) :
    (tree op (m + r) ((List.range (2 ^ m)).map f) fl).2.testBit b = true ↔
      fl.testBit b = true ∨ ∃ v, Raises op (nodesAt op f v) (2 ^ m / 2 ^ (v + 1)) b := by
  induction m generalizing f fl with
  | zero =>
    have idle (v : Nat) : ¬ Raises op (nodesAt op f v) (2 ^ 0 / 2 ^ (v + 1)) b := by
      have no_pair : 2 ^ 0 / 2 ^ (v + 1) = 0 := Nat.div_eq_of_lt (Nat.one_lt_two_pow (Nat.succ_ne_zero v))
      rw [no_pair]
      exact not_raises_zero op _ b
    have leaf : (List.range (2 ^ 0)).map f = [f 0] := rfl
    rw [leaf, tree_single]
    exact ⟨.inl, fun h => h.resolve_right fun ⟨v, raised⟩ => idle v raised⟩
  | succ m ih =>
    have halves (v : Nat) : 2 ^ (m + 1) / 2 ^ (v + 1) = 2 ^ m / 2 ^ v := by
      rw [Nat.pow_succ, Nat.pow_succ, Nat.mul_div_mul_right _ _ (by decide)]
    have levels : (∃ v, Raises op (nodesAt op f v) (2 ^ (m + 1) / 2 ^ (v + 1)) b) ↔
        Raises op f (2 ^ m) b ∨ ∃ v, Raises op (nodesAt op (levelUp op f) v) (2 ^ m / 2 ^ (v + 1)) b := by
      simp only [halves]
      rw [← Nat.or_exists_add_one]
      simp only [nodesAt_levelUp, Nat.pow_zero, Nat.div_one]
      rfl
    rw [levels, Nat.add_right_comm, Nat.pow_succ', tree_succ, treeLevel_nodes, ih, Nat.testBit_or, Bool.or_eq_true, treeLevel_flags,
      or_assoc]

/-- The leaf of lane `i`, absent when the lane is inactive. -/
def leafNode (w : Nat) (km : Word) (x : Line) (i : Nat) : Option Nat := if km.getLsbD i then some (lane x w i) else none

theorem vecFpRed_eq (op : Nat → Nat → FRes) (dflt : Nat) (f : Fmt) (k : BitVec 3) (d a : Reg) (s : State) :
    vecFpRed op dflt f k d a s =
      let t := tree op 5 ((List.range (512 / f.width)).map (leafNode f.width (s.th.rk k) (s.th.rv a))) 0
      fpFinish 4 t.2 s fun u => u.wv d (lane0 ((t.1.map f.canonical).getD dflt)) := rfl

/-- The lanes of the formats fill a tree of at most five levels (R41). -/
theorem lanes_wdFmt (w : BitVec 2) : ∃ m, m ≤ 5 ∧ 512 / (wdFmt w).width = 2 ^ m := by
  revert w
  decide

/-! ### The flags of an addition (R114, R117) -/

theorem add_flags_lt (f : Fmt) (rm : Nat) (x y : FVal) : (f.add rm x y).2 < 32 := by
  cases x with
  | nan signalling => cases y <;> exact snanFlag_lt _ _
  | inf neg =>
    cases y with
    | nan signalling => exact snanFlag_lt _ _
    | inf neg' => exact ite_flags_lt (by decide : 0 < 32) (by decide : fINV < 32)
    | fin neg' m e => exact (by decide : 0 < 32)
  | fin neg m e =>
    cases y with
    | nan signalling => exact snanFlag_lt _ _
    | inf neg' => exact (by decide : 0 < 32)
    | fin neg' m' e' => exact round_flags_lt f rm false _ _ _

/-! ### The flags of a floating-point compare (R157) -/

/-- What one lane of a compare raises, in the words of the obligation. -/
def cmpFlags (quiet : Bool) (x y : FVal) : Nat :=
  if x.isSnan || y.isSnan || (!quiet && (x.isNan || y.isNan)) then 1 else 0

theorem isNan_of_isSnan {x : FVal} (h : x.isSnan = true) : x.isNan = true := by
  cases x with
  | nan signalling => rfl
  | inf neg => exact h
  | fin neg m e => exact h

theorem cmpFlags_eq (quiet : Bool) (x y : FVal) :
    (if quiet then snanFlag [x, y] else if x.isNan || y.isNan then fINV else 0) = cmpFlags quiet x y := by
  cases quiet with
  | true => simp [cmpFlags, snanFlag_pair]
  | false =>
    have signals : (x.isSnan || y.isSnan || (x.isNan || y.isNan)) = (x.isNan || y.isNan) := by
      have hx := @isNan_of_isSnan x
      have hy := @isNan_of_isSnan y
      grind
    simp [cmpFlags, signals, fINV]

theorem cmpFlags_lt (quiet : Bool) (x y : FVal) : cmpFlags quiet x y < 32 := by
  unfold cmpFlags
  split <;> decide

/-! ### How vector instructions end -/

theorem needs_ven {s : State} (h : s.th.status.getLsbD 5 = true) (b : Word) (k : Out) : needs 2#3 b s k = k := by
  refine needs_pos _ _ _ _ ?_
  apply BitVec.eq_of_getLsbD_eq
  intro i hi
  have : i = 0 ∨ i = 1 ∨ i = 2 := by omega
  rcases this with rfl | rfl | rfl <;> simp [Thread.missing, h]

theorem withVecMode_some {s : State} {m : Nat} (ven : s.th.status.getLsbD 5 = true) (hm : s.th.mode 5#3 = some m) (b : Word)
    (k : Nat → Out) : withVecMode b s k = k m := by
  rw [withVecMode, needs_ven ven, hm]

/-- v[d] := v with flags, and completion, are all that happens to the machine. -/
theorem resultV_wv (s : State) (len : Nat) (d : Reg) (v : Line) (fl : Nat) :
    ResultV len d v fl s (s.setTh (((s.th.flags fl).wv d v).complete len)) := by
  unfold ResultV
  rw [State.th_setTh]
  exact ⟨onlyThread_setTh s _, wv_complete s.th d v fl len⟩

theorem resultK_wk (s : State) (d : BitVec 3) (v : Word) (fl : Nat) :
    ResultK d v fl s (s.setTh (((s.th.flags fl).wk d v).complete 4)) := by
  unfold ResultK
  rw [State.th_setTh]
  exact ⟨onlyThread_setTh s _, wk_complete s.th d v fl 4⟩

theorem does_finish_wv {i : Instr} {s : State} {len : Nat} {d : Reg} {f : Thread → Line}
    (h : exec i s = finish len s fun t => t.wv d (f t)) : Does i s (ResultV len d (f s.th) 0 s) :=
  ⟨_, h, resultV_wv s len d _ 0⟩

theorem does_finish_wk {i : Instr} {s : State} {d : BitVec 3} {f : Thread → Word} (h : exec i s = finish 4 s fun t => t.wk d (f t)) :
    Does i s (ResultK d (f s.th) 0 s) :=
  ⟨_, h, resultK_wk s d _ 0⟩

theorem does_fpToK {i : Instr} {s : State} {d : BitVec 3} {fl : Nat} {f : Thread → Word}
    (h : exec i s = fpFinish 4 fl s fun t => t.wk d (f t)) (hfl : fl < 32) : Does i s (FpToK d (f (s.th.flags fl)) fl s) :=
  does_fpFinish h hfl (resultK_wk s d _ fl)

theorem does_fpToV {i : Instr} {s : State} {d : Reg} {fl : Nat} {f : Thread → Line}
    (h : exec i s = fpFinish 4 fl s fun t => t.wv d (f t)) (hfl : fl < 32) : Does i s (FpToV 4 d (f (s.th.flags fl)) fl s) :=
  does_fpFinish h hfl (resultV_wv s 4 d _ fl)

section
variable {j : Instr} {s : State} {bits : Word} {len : Nat} {w : BitVec 2} {k c : BitVec 3} {d a b : Reg}

/-- An instruction that writes every lane, lane i as `f i`. -/
theorem does_ofLanes {n : Nat} {g : Thread → Nat → Nat} {f : Nat → BitVec n} (ven : s.th.status.getLsbD 5 = true)
    (h : exec j s = needs 2#3 bits s (finish len s fun t => t.wv d (ofLanes n (g t)))) (hf : ∀ i, BitVec.ofNat n (g s.th i) = f i) :
    ∃ v : Line, (∀ i, i < 512 / n → Lane n v i = f i) ∧ Does j s (ResultV len d v 0 s) :=
  ⟨_, fun i hi => (Lane_ofLanes n _ hi).trans (hf i), does_finish_wv (h.trans (needs_ven ven bits _))⟩

/-- An instruction that replaces the active lanes by `f i`, over the register `old` (R150). -/
theorem does_maskLanes {n : Nat} {old : Thread → Line} {g : Thread → Nat → Nat} {f : Nat → BitVec n}
    (ven : s.th.status.getLsbD 5 = true)
    (h : exec j s = needs 2#3 bits s (finish len s fun t => t.wv d (maskLanes n (t.rk k) (old t) (g t))))
    (hf : ∀ i, BitVec.ofNat n (g s.th i) = f i) :
    ∃ v : Line, (∀ i, i < 512 / n → Lane n v i = if (s.th.rk k).getLsbD i then f i else Lane n (old s.th) i) ∧
      Does j s (ResultV len d v 0 s) := by
  refine does_ofLanes ven h fun i => ?_
  rw [apply_ite (BitVec.ofNat n), hf, ofNat_lane]

/-- An integer vector instruction whose lane operation is `f` (R153). -/
theorem does_vecInt {op : (n : Nat) → BitVec n → BitVec n → BitVec n} {f : BitVec (wdBits w) → BitVec (wdBits w) → BitVec (wdBits w)}
    (ven : s.th.status.getLsbD 5 = true) (h : exec j s = vecInt op bits len w k d a b s) (hf : ∀ x y, op (wdBits w) x y = f x y) :
    ∃ v : Line, (∀ i, i < 512 / wdBits w → Lane (wdBits w) v i =
        if (s.th.rk k).getLsbD i then f (Lane (wdBits w) (s.th.rv a) i) (Lane (wdBits w) (s.th.rv b) i)
        else Lane (wdBits w) (s.th.rv d) i) ∧
      Does j s (ResultV len d v 0 s) := by
  refine does_maskLanes ven h fun i => ?_
  rw [BitVec.ofNat_toNat, BitVec.setWidth_eq, hf, ofNat_lane, ofNat_lane]

/-- An integer compare whose relation is `R` (R157). -/
theorem does_vecCmp {rel : (n : Nat) → BitVec n → BitVec n → Bool} {R : BitVec (wdBits w) → BitVec (wdBits w) → Prop}
    (ven : s.th.status.getLsbD 5 = true) (h : exec j s = vecCmp rel bits w k c a b s) (hR : ∀ x y, rel (wdBits w) x y = true ↔ R x y) :
    ∃ v : Word, (∀ i, i < 64 → (v.getLsbD i = true ↔ i < 512 / wdBits w ∧ (s.th.rk k).getLsbD i = true ∧
        R (Lane (wdBits w) (s.th.rv a) i) (Lane (wdBits w) (s.th.rv b) i))) ∧
      Does j s (ResultK c v 0 s) := by
  refine ⟨_, fun i _ => ?_, does_finish_wk (h.trans (needs_ven ven bits _))⟩
  rw [getLsbD_maskOf, ofNat_lane, ofNat_lane, hR]

/-- A floating-point compare: false for a NaN; INV for a signalling NaN, and unless quiet for any (R157). -/
theorem does_vecFpCmp {quiet : Bool} {rel : FVal → FVal → Bool} (ven : s.th.status.getLsbD 5 = true)
    (h : exec j s = vecFpCmp quiet rel bits w k c a b s) :
    let F := wdFmt w
    let x := fun (r : Reg) (i : Nat) => F.decode (lane (s.th.rv r) F.width i)
    ∃ (v : Word) (fl : Nat), (∀ i, i < 64 → (v.getLsbD i = true ↔ i < 512 / F.width ∧ (s.th.rk k).getLsbD i = true ∧
        (x a i).isNan = false ∧ (x b i).isNan = false ∧ rel (x a i) (x b i) = true)) ∧
      LaneFlags (512 / F.width) (s.th.rk k) (fun i => cmpFlags quiet (x a i) (x b i)) fl ∧
      Does j s (FpToK c v fl s) := by
  intro F x
  have flags := laneFlags_spec F.width (s.th.rk k) fun i => (0, cmpFlags quiet (x a i) (x b i))
  simp only [vecFpCmp, needs_ven ven, cmpFlags_eq] at h
  refine ⟨_, _, fun i _ => ?_, flags, does_fpToK h (flags.lt fun i => cmpFlags_lt _ _ _)⟩
  rw [getLsbD_maskOf, Thread.rk_flags]
  simp only [Bool.and_eq_true, Bool.not_eq_true', Bool.or_eq_false_iff, and_assoc]
  rfl

/-- An integer reduction whose value is the exact `r`, wrapped into lane 0 (R160). -/
theorem does_vecRed {op : (n : Nat) → BitVec n → BitVec n → BitVec n} {unit : (n : Nat) → BitVec n} {r : Int}
    (ven : s.th.status.getLsbD 5 = true) (h : exec j s = vecRed op unit bits w k d a s)
    (hr : ((activeLanes (wdBits w) (s.th.rk k)).map (Lane (wdBits w) (s.th.rv a))).foldl (op (wdBits w)) (unit (wdBits w)) =
      BitVec.ofInt (wdBits w) r) :
    Does j s (ResultV 4 d ((BitVec.ofInt (wdBits w) r).setWidth 512) 0 s) := by
  have done := does_finish_wv (h.trans (needs_ven ven bits _))
  simp only [ofNat_lane, lane0, BitVec.ofNat_toNat] at done
  rwa [← hr, List.foldl_map]

/-- A floating-point reduction over a tree of `m` levels (R161). -/
theorem does_vecFpRed {op : Nat → Nat → FRes} {dflt m : Nat} {F : Fmt} (h5 : m ≤ 5) (hm : 512 / F.width = 2 ^ m)
    (hop : ∀ p q, (op p q).2 < 32) (h : exec j s = vecFpRed op dflt F k d a s) :
    ∃ (node : Nat → Nat → Option Nat) (fl : Nat),
      (∀ i, i < 512 / F.width → node 0 i = if (s.th.rk k).getLsbD i then some (lane (s.th.rv a) F.width i) else none) ∧
      (∀ v i, i < 512 / F.width / 2 ^ (v + 1) → node (v + 1) i = joinNodes op (node v (2 * i)) (node v (2 * i + 1))) ∧
      (∀ b, fl.testBit b = true ↔ ∃ v, Raises op (node v) (512 / F.width / 2 ^ (v + 1)) b) ∧
      Does j s (FpToV 4 d (lane0 (((node (Nat.log2 (512 / F.width)) 0).map F.canonical).getD dflt)) fl s) := by
  rw [vecFpRed_eq] at h
  generalize leaves : leafNode F.width (s.th.rk k) (s.th.rv a) = leaf at h
  have root := tree_root op m (5 - m) leaf 0
  have raised := tree_flags op m (5 - m) leaf 0
  simp only [Nat.add_sub_of_le h5, ← hm, Nat.zero_testBit, Bool.false_eq_true, false_or] at root raised
  refine ⟨nodesAt op leaf, _, fun i _ => (congrFun leaves i).symm, fun _ _ _ => rfl, raised, ?_⟩
  have top : Nat.log2 (512 / F.width) = m := by rw [hm, Nat.log2_two_pow]
  rw [top, ← root]
  refine does_fpToV h (flags_lt_of_bits fun b set => ?_)
  obtain ⟨v, i, p, q, _, _, _, bit⟩ := (raised b).1 set
  exact ⟨(op p q).2, hop p q, bit⟩

end

/-! ### The obligations -/

/-- Settles O27: each row is its lane operation as an exact integer, cut to the lane; VMOV is the OR of a register with itself. -/
theorem vectorIntegerLanes : Obligations.VectorIntegerLanes := by
  unfold Obligations.VectorIntegerLanes
  intro s w k d a b ven V W C n
  refine ⟨?vadd, ?vsub, ?vmul, ?vmulh, ?vmin, ?vmax, ?vminu, ?vmaxu, ?vand, ?vor, ?vxor, ?vsll, ?vsrl, ?vsra,
    ?hadd32, ?hsub32, ?hadd64, ?hand, ?hor, ?hxor, ?hmin, ?hmax, ?hmov⟩
  case vadd => exact does_vecInt ven (exec_vadd w k d a b s) BitVec.add_def
  case vsub => exact does_vecInt ven (exec_vsub w k d a b s) sub_eq_ofInt
  case vmul => exact does_vecInt ven (exec_vmul w k d a b s) fun x y => BitVec.mul_def
  case vmulh => exact does_vecInt ven (exec_vmulh w k d a b s) fun x y => rfl
  case vmin => exact does_vecInt ven (exec_vmin w k d a b s) (opMin_eq n)
  case vmax => exact does_vecInt ven (exec_vmax w k d a b s) (opMax_eq n)
  case vminu => exact does_vecInt ven (exec_vminu w k d a b s) (opMinu_eq n)
  case vmaxu => exact does_vecInt ven (exec_vmaxu w k d a b s) (opMaxu_eq n)
  case vand => exact does_vecInt ven (exec_vand w k d a b s) fun x y => rfl
  case vor => exact does_vecInt ven (exec_vor w k d a b s) fun x y => rfl
  case vxor => exact does_vecInt ven (exec_vxor w k d a b s) fun x y => rfl
  case vsll => exact does_vecInt ven (exec_vsll w k d a b s) fun x y => shiftLeft_eq_ofNat x _
  case vsrl => exact does_vecInt ven (exec_vsrl w k d a b s) fun x y => ushiftRight_eq_ofNat x _
  case vsra => exact does_vecInt ven (exec_vsra w k d a b s) fun x y => sshiftRight_eq_ofInt x _
  case hadd32 =>
    intro some_word
    exact does_vecInt ven ((exec_hVaddI32 d b s).trans (if_neg some_word)) BitVec.add_def
  case hsub32 => exact does_vecInt ven (exec_hVsubI32 d b s) sub_eq_ofInt
  case hadd64 => exact does_vecInt ven (exec_hVaddI64 d b s) BitVec.add_def
  case hand => exact does_vecInt ven (exec_hVandN64 d b s) fun x y => rfl
  case hor => exact does_vecInt ven (exec_hVorN64 d b s) fun x y => rfl
  case hxor => exact does_vecInt ven (exec_hVxorN64 d b s) fun x y => rfl
  case hmin => exact does_vecInt ven (exec_hVminI32 d b s) (opMin_eq 32)
  case hmax => exact does_vecInt ven (exec_hVmaxI32 d b s) (opMax_eq 32)
  case hmov =>
    obtain ⟨v, lanes, runs⟩ := does_vecInt (w := 3#2) (f := opOr _) ven (exec_hVmov d b s) fun x y => rfl
    have active (i : Nat) (hi : i < 512 / wdBits 3#2) : (s.th.rk 0#3).getLsbD i = true := by
      rw [Thread.rk_zero, BitVec.getLsbD_allOnes]
      exact decide_eq_true (Nat.lt_of_lt_of_le hi (by decide))
    have moved : v = s.th.rv b := eq_of_Lanes (n := wdBits 3#2) (by decide) fun i hi =>
      (lanes i hi).trans ((if_pos (active i hi)).trans BitVec.or_self)
    exact moved ▸ runs

/-- Settles O29: a compare writes the mask of the active lanes where it holds, and VSEL takes each lane from one source or the other. -/
theorem vectorComparesAndSelect : Obligations.VectorComparesAndSelect := by
  unfold Obligations.VectorComparesAndSelect
  intro s w k c d a b ven km n F x C G
  refine ⟨?vcmpeq, ?vcmpne, ?vcmplt, ?vcmple, ?vcmpltu, ?vcmpleu, ?vfcmpeq, ?vfcmplt, ?vfcmple, ?vsel⟩
  case vcmpeq => exact does_vecCmp ven (exec_vcmpeq w k c a b s) fun p q => beq_iff_eq.trans BitVec.toNat_eq
  case vcmpne => exact does_vecCmp ven (exec_vcmpne w k c a b s) fun p q => bne_iff_ne.trans BitVec.toNat_ne_iff_ne.symm
  case vcmplt => exact does_vecCmp ven (exec_vcmplt w k c a b s) fun p q => BitVec.slt_iff_toInt_lt
  case vcmple => exact does_vecCmp ven (exec_vcmple w k c a b s) fun p q => BitVec.sle_iff_toInt_le
  case vcmpltu => exact does_vecCmp ven (exec_vcmpltu w k c a b s) fun p q => BitVec.ult_iff_lt
  case vcmpleu => exact does_vecCmp ven (exec_vcmpleu w k c a b s) fun p q => BitVec.ule_iff_le
  case vfcmpeq => exact does_vecFpCmp ven (exec_vfcmpeq w k c a b s)
  case vfcmplt => exact does_vecFpCmp ven (exec_vfcmplt w k c a b s)
  case vfcmple => exact does_vecFpCmp ven (exec_vfcmple w k c a b s)
  case vsel => exact does_maskLanes ven (exec_vsel w k d a b s) fun i => ofNat_lane n (s.th.rv a) i

/-- Settles O30: a reduction is the exact fold of the active lanes, wrapped; the floating-point tree is the iterated join of neighbours. -/
theorem vectorPermuteAndReduce : Obligations.VectorPermuteAndReduce := by
  unfold Obligations.VectorPermuteAndReduce
  refine ⟨?lanes, ?tree⟩
  case lanes =>
    intro s w k d a b ven km n l x V act R sel
    have pos : 0 < n := Nat.mul_pos (by decide) (Nat.two_pow_pos _)
    have signed : ∀ e : BitVec n, BitVec.ofInt n e.toInt = e := fun _ => BitVec.ofInt_toInt
    refine ⟨?vbcast, ?vextr, ?vinsr, ?vperm, ?vredAdd, ?vredMin, ?vredMax, ?vredMinu, ?vredMaxu⟩
    case vbcast => exact does_maskLanes ven (exec_vbcast w k d a s) fun i => BitVec.ofNat_toNat n (s.th.rx a)
    case vextr =>
      refine does_finish_wx ((exec_vextr w d a b s).trans (needs_ven ven _ _)) ?_
      rw [ofNat_lane]
      rfl
    case vinsr =>
      refine does_ofLanes ven (exec_vinsr w d a b s) fun i => ?_
      show BitVec.ofNat n (if i = sel then (s.th.rx a).toNat else lane (s.th.rv d) n i) = _
      rw [apply_ite (BitVec.ofNat n), BitVec.ofNat_toNat, ofNat_lane]
    case vperm =>
      refine does_maskLanes ven (exec_vperm w k d a b s) fun i => ?_
      rw [ofNat_lane, ← toNat_Lane]
      rfl
    case vredAdd => exact does_vecRed ven (exec_vredAdd w k d a s) (foldl_opAdd n act)
    case vredMin =>
      exact does_vecRed ven (exec_vredMin w k d a s) (foldl_eq_ofInt signed (toInt_opMin n) BitVec.toInt_intMax act)
    case vredMax =>
      have unit := BitVec.toInt_intMin_of_pos pos
      exact does_vecRed ven (exec_vredMax w k d a s) (foldl_eq_ofInt signed (toInt_opMax n) unit act)
    case vredMinu =>
      exact does_vecRed ven (exec_vredMinu w k d a s) (foldl_eq_ofInt ofInt_toNat_eq (cast_opMinu n) (cast_allOnes n) act)
    case vredMaxu =>
      exact does_vecRed ven (exec_vredMaxu w k d a s) (foldl_eq_ofInt ofInt_toNat_eq (cast_opMaxu n) rfl act)
  case tree =>
    intro s w k d a m ven F l T
    obtain ⟨levels, h5, full⟩ := lanes_wdFmt w
    have reduces {j : Instr} {op : Nat → Nat → FRes} {dflt : Nat} (hop : ∀ p q, (op p q).2 < 32)
        (h : exec j s = vecFpRed op dflt F k d a s) : T j op dflt := by
      obtain ⟨node, fl, leaves, joins, raised, runs⟩ := does_vecFpRed h5 full hop h
      refine ⟨node, fl, leaves, fun v i hi => (joins v i hi).trans ?_, raised, ?_⟩
      · cases node v (2 * i) <;> cases node v (2 * i + 1) <;> rfl
      · cases hroot : node (Nat.log2 l) 0 <;> rw [hroot] at runs <;> exact runs
    refine ⟨fun hm => ?vfredAdd, ?vfredMin, ?vfredMax⟩
    case vfredAdd =>
      exact reduces (fun p q => add_flags_lt F m _ _) ((exec_vfredAdd w k d a s).trans (withVecMode_some ven hm _ _))
    case vfredMin => exact reduces (minMax_flags_lt F false) ((exec_vfredMin w k d a s).trans (needs_ven ven _ _))
    case vfredMax => exact reduces (minMax_flags_lt F true) ((exec_vfredMax w k d a s).trans (needs_ven ven _ _))

end Sys2Proof.Machine
end

section
/-!
PROOFS. Entering and leaving the kernel (spec/10): how an instruction that raises a cause ends, what ERET makes of STATUS, and the
obligation of that family.
-/

namespace Sys2Proof.Machine

/-- An instruction whose meaning is a cause of its own is the trap entry of that cause (R294, R296). -/
theorem does_raise {i : Instr} {s : State} {code : Nat} {eva einfo : Word} (h : exec i s = .next (raise code eva einfo s))
    (hc : code < 2 ^ 63) : Does i s (Traps code (causeClass code) eva einfo s) :=
  ⟨_, h, traps_raise s code eva einfo hc⟩

/-- The four bits that ERET writes are distinct, so it makes no difference that it writes them one after the other (R210). -/
theorem eretStatus_bit (w : Word) (i : Nat) :
    (eretStatus w).getLsbD i =
      if i = 0 then w.getLsbD 3 else if i = 1 then w.getLsbD 2 else if i = 2 then true else if i = 3 then false else w.getLsbD i := by
  have written : (eretStatus w).getLsbD i =
      if i = 2 then true else if i = 3 then false else if i = 1 then w.getLsbD 2 else if i = 0 then w.getLsbD 3 else w.getLsbD i := by
    unfold eretStatus
    rw [getLsbD_putBit _ _ _ _ (show pieBit < 64 by decide), getLsbD_putBit _ _ _ _ (show psvBit < 64 by decide),
      getLsbD_putBit _ _ _ _ (show ieBit < 64 by decide), getLsbD_putBit _ _ _ _ (show svBit < 64 by decide)]
    rfl
  rw [written]
  match i with
  | 0 | 1 | 2 | 3 | _ + 4 => rfl

/-- ERET transfers control to EPC with bit 0 clear: no loop-end test (R91, R210). -/
theorem transfers_eret (t : Thread) : Transfers (t.epc &&& ~~~ 1#64) t t.eret.refetch := ⟨rfl, rfl, rfl, rfl⟩

/-- Of the registers that completion does not write, ERET writes STATUS alone. -/
theorem bare_eret (t : Thread) : t.eret.refetch.bare = { t with status := eretStatus t.status }.bare := rfl

/-- Settles O11: the three that enter raise their cause and no more; ERET leaves one thread with a new STATUS and pc. -/
theorem enteringAndReturning : Obligations.EnteringAndReturning := by
  unfold Obligations.EnteringAndReturning
  refine ⟨fun s w => ⟨?ecall, ?ebreak, ?unallocated⟩, fun s supervisor => ?eret⟩
  case ecall => exact does_raise (exec_ecall s) (by decide)
  case ebreak => exact does_raise (exec_ebreak s) (by decide)
  case unallocated => exact does_raise (exec_illegalOrReservedEncoding w s) (by decide)
  case eret =>
    refine ⟨_, (exec_eret s).trans (priv_pos _ s _ supervisor), onlyThread_setTh s _, ?_⟩
    rw [State.th_setTh]
    exact ⟨transfers_eret s.th, bare_eret s.th, fun i _ => eretStatus_bit s.th.status i⟩

end Sys2Proof.Machine
end
